-- ==== Sys2Proof/Word.lean ====
section
/-! DEFINITION. The word types of the model: what the spec calls u8, u16, u32 and u64 (00_scope.md, Numbers and units). -/

namespace Sys2Proof

/-- A byte of the host window or of a payload. -/
abbrev Byte := BitVec 8
/-- A 16-bit quantity. -/
abbrev Half := BitVec 16
/-- A 32-bit word of the host window; every wrapping u32 counter. -/
abbrev Word := BitVec 32
/-- A 64-bit quantity. -/
abbrev Dword := BitVec 64

end Sys2Proof
end

