-- ==== Sys2Proof/Syntax.lean ====
section
/-! DEFINITION. The commands of the block (`Instr`, one constructor per row of opcode_table.json) and the
operand types they carry: the parameters of the configuration commands, and what the environment hands to an
event (a reading, a received frame, a result of the bus). -/

namespace Sys2Proof

/-! ### Parameters of the configuration commands -/

/-- `FE_BELLOWS_SET` parameters (R156). Levels in 0.1 dB. -/
structure BellowsCfg where
  manual : Bool
  manualGi : Nat
  giHigh : Nat
  giLow : Nat
  target : Int
  upper : Int
  lower : Int
  upHoldMs : Nat
  recoverMs : Nat
  clipLimit : Nat
deriving DecidableEq, Repr

/-- Reset values of R156 on the VHF inputs. -/
def BellowsCfg.vhf : BellowsCfg := ⟨false, 7, 0, 7, -180, -120, -260, 200, 1000, 4⟩
/-- Reset values of R156 on HF_IN. -/
def BellowsCfg.hf : BellowsCfg := ⟨false, 5, 0, 5, -180, -120, -260, 200, 1000, 4⟩

/-- `TEMPER_SET` parameters (R192). -/
structure TemperCfg where
  background : Bool
  tempDelta : Nat
  maxIntervalS : Nat
deriving DecidableEq, Repr

/-- Reset values of R192. -/
def TemperCfg.reset : TemperCfg := ⟨false, 200, 900⟩

/-- Reception types, codes 0 to 3 (R206). -/
inductive SlotType where
  | fm | fmDiversity | am | dab
deriving DecidableEq, Repr

/-- The `SLOT_ASSIGN` and `SLOT_RETUNE` fields but the slot number (R206); `minChain` is `chain` 1. -/
structure SlotTune where
  type : SlotType
  input : Fin 3
  freq : Nat
  minChain : Bool
  raster : Nat
deriving DecidableEq, Repr

/-- What a free slot holds. -/
def SlotTune.reset : SlotTune := ⟨.fm, 0, 0, false, 0⟩

/-- One of the three quality-control functions (R231). -/
structure FnCfg where
  levelStart : Int
  levelStop : Int
  usnStart : Nat
  usnStop : Nat
  mpStart : Nat
  mpStop : Nat
  attackMs : Nat
  releaseMs : Nat
  limit : Nat
deriving DecidableEq, Repr

/-- `SLOT_FM_SET` parameters (R231, R232). -/
structure FmCfg where
  mute : FnCfg
  highcut : FnCfg
  blend : FnCfg
  bwFixedMode : Bool
  bwFixed : Nat
  bwWidest : Nat
  bwNarrowest : Nat
  adjNarrow : Int
  adjWiden : Int
  widenMs : Nat
  forcedMono : Bool
  deemph75 : Bool
  detectDbuv : Int
  lossMs : Nat
deriving DecidableEq, Repr

/-- Reset values of R231 and R232. -/
def FmCfg.reset : FmCfg :=
  { mute := ⟨100, 0, 300, 800, 1000, 1000, 2, 100, 200⟩
    highcut := ⟨250, 100, 150, 500, 200, 600, 20, 500, 2000⟩
    blend := ⟨350, 150, 100, 400, 150, 500, 50, 2000, 0⟩
    bwFixedMode := false, bwFixed := 2, bwWidest := 0, bwNarrowest := 9
    adjNarrow := -100, adjWiden := -250, widenMs := 100
    forcedMono := false, deemph75 := false, detectDbuv := 0, lossMs := 200 }

/-- `SLOT_AM_SET` parameters (R238). The soft mute and the high-cut carry the level term only. -/
structure AmCfg where
  bwFixedMode : Bool
  bwFixed : Nat
  bwWidest : Nat
  bwNarrowest : Nat
  adjNarrow : Int
  adjWiden : Int
  widenMs : Nat
  detector : Nat
  nbEnable : Bool
  nbThreshold : Nat
  nbWidthUs : Nat
  nbMaxDuty : Nat
  mute : FnCfg
  highcut : FnCfg
  detectDbuv : Int
  lossMs : Nat
deriving DecidableEq, Repr

/-- Reset values of R238. -/
def AmCfg.reset : AmCfg :=
  { bwFixedMode := false, bwFixed := 3, bwWidest := 1, bwNarrowest := 7
    adjNarrow := -100, adjWiden := -250, widenMs := 200, detector := 0
    nbEnable := true, nbThreshold := 150, nbWidthUs := 100, nbMaxDuty := 100
    mute := ⟨300, 200, 0, 0, 0, 0, 2, 100, 200⟩
    highcut := ⟨450, 250, 0, 0, 0, 0, 20, 500, 2000⟩
    detectDbuv := 100, lossMs := 500 }

/-- `SIDE_SET` parameters (R272). -/
structure SideCfg where
  rbds : Bool
  correct : Nat
  padOutputs : BitVec 8
  dbEventMs : Nat
  expiryS : Nat
deriving DecidableEq, Repr

/-- Reset values of R272. -/
def SideCfg.reset : SideCfg := ⟨false, 1, 0, 100, 86400⟩

/-- `SIDE_STREAM_SET` fields (R291). -/
structure SideStreamCfg where
  rdsRaw : Nat
  rawFig : Bool
  dl : Bool
  dlPlus : Bool
  mot : Bool
  outputMask : BitVec 8
  slotMask : BitVec 48
deriving DecidableEq, Repr

/-- No record selected. -/
def SideStreamCfg.reset : SideStreamCfg := ⟨0, false, false, false, false, 0, 0⟩

/-- `CENSUS_SET` parameters (R302). -/
structure CensusCfg where
  on : Bool
  maxVisits : Nat
  inputB : Bool
  fmStart : Nat
  fmStop : Nat
  fmRaster : Nat
  dabMask : BitVec 41
  fmDwellMs : Nat
  dabDwellMs : Nat
deriving DecidableEq, Repr

/-- Reset values of R302. -/
def CensusCfg.reset : CensusCfg :=
  ⟨false, 4, false, 87500000, 108000000, 100000, BitVec.allOnes 41, 2000, 4000⟩

/-- A leg of a follower: slot and DAB component, or absent (R313). -/
structure LegRef where
  slot : Option (Fin 48)
  sid : Word
  scids : Byte
deriving DecidableEq, Repr

/-- An absent leg. -/
def LegRef.none : LegRef := ⟨Option.none, 0, 0⟩

/-- `FOLLOW_SET` fields but the output (R313). Mode 0 off, 1 manual, 2 auto. -/
structure FollowCfg where
  mode : Nat
  a : LegRef
  b : LegRef
  allow : BitVec 8
  prefer : Nat
  preferBonus : Nat
  qFail : Nat
  qGood : Nat
  qHyst : Nat
  qWindowMs : Nat
  dwellMs : Nat
  fadeMs : Nat
  linear : Bool
  dip : Bool
  stretchPpm : Nat
  corrLock : Nat
  levelWindowMs : Nat
  unalignedWaitMs : Nat
  dabBerGood : Nat
  dabBerBad : Nat
deriving DecidableEq, Repr

/-- Reset values of R313; leg A has none and stands at slot 0. -/
def FollowCfg.reset : FollowCfg :=
  { mode := 0, a := ⟨some 0, 0, 0⟩, b := LegRef.none, allow := 0x03, prefer := 2, preferBonus := 100
    qFail := 400, qGood := 700, qHyst := 150, qWindowMs := 1000, dwellMs := 10000, fadeMs := 300
    linear := false, dip := true, stretchPpm := 500, corrLock := 600, levelWindowMs := 1000
    unalignedWaitMs := 500, dabBerGood := 100, dabBerBad := 1000 }

/-- `PORT_SET` fields but the port (R343). Rate 0: 44.1 kHz, 1: 48 kHz, 2: 96 kHz. -/
structure PortCfg where
  enable : Bool
  target : Bool
  rate : Nat
  format : Nat
  slots : Nat
  fsyncHalf : Bool
  fsyncInvert : Bool
  dataDelay : Bool
  bclkInvert : Bool
  flagByte : Bool
  mclk : Bool
deriving DecidableEq, Repr

/-- Reset values of R343. -/
def PortCfg.reset : PortCfg := ⟨false, false, 1, 0, 8, false, false, true, false, false, false⟩

/-- `OUT_SET` fields but the output (R350). The gain is `none` for mute (0x8000). -/
structure OutCfg where
  run : Bool
  cursor : Bool
  srcSlot : Fin 48
  srcSid : Word
  srcScids : Byte
  port : Fin 2
  minLatency : Bool
  gain : Option Int
  gainRampMs : Nat
deriving DecidableEq, Repr

/-- Reset values of R350. -/
def OutCfg.reset : OutCfg := ⟨false, false, 0, 0, 0, 0, false, some 0, 20⟩

/-- `OUT_MAP_SET` content of one position (R366). Kind 0 off, 1 L, 2 R, 3 mono, 4 timecode. -/
structure MapCfg where
  kind : Nat
  output : Fin 8
  delaySamples : Nat
  delayFrac : Nat
deriving DecidableEq, Repr

/-- Reset values of R366. -/
def MapCfg.reset : MapCfg := ⟨0, 0, 0, 0⟩

/-- `OUT_DETECT_SET` parameters (R373). -/
structure DetectCfg where
  rmsMs : Nat
  attackMs : Nat
  releaseMs : Nat
  truePeak : Bool
deriving DecidableEq, Repr

/-- Reset values of R373. -/
def DetectCfg.reset : DetectCfg := ⟨300, 10, 500, false⟩

/-- The nine readings of one detector point in 0.01 dBFS with their `valid` byte (R374, R559). -/
structure PointReading where
  valid : BitVec 8
  peakL : Int
  peakR : Int
  holdL : Int
  holdR : Int
  rmsL : Int
  rmsR : Int
  rmsM : Int
  envL : Int
  envR : Int
deriving DecidableEq, Repr

/-- A point with no reading yet stands at the floor of R374. -/
def PointReading.floor : PointReading :=
  ⟨0, -15000, -15000, -15000, -15000, -15000, -15000, -15000, -15000, -15000⟩

/-- The three detector points of one output (R372). -/
structure DetReadings where
  a : PointReading
  b : PointReading
  out : PointReading
deriving DecidableEq, Repr

/-- No reading. -/
def DetReadings.reset : DetReadings := ⟨PointReading.floor, PointReading.floor, PointReading.floor⟩

/-- `STORE_RECORD_SET` fields but the rec number (R406). Action 0 stop, 1 start, 2 delete, 3 quota only. -/
structure RecordCfg where
  action : Nat
  slot : Fin 48
  sid : Word
  scids : Byte
  aac : Nat
  quota : Nat
deriving DecidableEq, Repr

/-- `CURSOR_SET` fields but the cursor (R412). -/
structure CursorCfg where
  recNo : Nat
  behind : Bool
  position : Nat
  run : Bool
deriving DecidableEq, Repr

/-- `EXPORT_SET` fields but the cursor (R415). -/
structure ExportCfg where
  recNo : Nat
  run : Bool
  start : Nat
  stop : Nat
deriving DecidableEq, Repr

/-- `STORE_MAINT_SET` parameters (R402); `rdLimit` is `none` until the media gives its reset value. -/
structure MaintCfg where
  patrolHours : Nat
  scrubBits : Nat
  retireBits : Nat
  rdLimit : Option Nat
deriving DecidableEq, Repr

/-- Reset values of R402. -/
def MaintCfg.reset : MaintCfg := ⟨24, 48, 64, none⟩

/-- `DISPATCH_SET` values (R430). -/
structure ShaperCfg where
  first : Nat
  last : Nat
  rate : Nat
  burst : Nat
  overhead : Nat
deriving DecidableEq, Repr

/-- `LINK_SET` fields (R488). -/
structure LinkCfg where
  downCtl : Nat
  downBulk : Nat
  upCtl : Nat
  pinned : Dword
  autoRetrain : Bool
deriving DecidableEq, Repr

/-- Reset values of R488. -/
def LinkCfg.reset : LinkCfg := ⟨6144, 2048, 2048, 0, true⟩

/-- `LINK_FEED_SET` fields (R509). -/
structure FeedCfg where
  gpio : Option (Fin 8)
  lowIsOn : Bool
  on : Bool
deriving DecidableEq, Repr

/-- No feed switch. -/
def FeedCfg.reset : FeedCfg := ⟨none, false, false⟩

/-- `LINK_PHY_SET` fields but `device` and `recal` (R484). -/
structure PhyCfg where
  powerIndex : Nat
  term75 : Bool
  duplex : Nat
  margin : Nat
  marginMin : Nat
  toneMask : BitVec 102
  beaconStart : Nat
  beaconPeriod : Nat
  trGpio : Option (Fin 8)
  trLow : Bool
  trLeadUs : Nat
  trLagUs : Nat
deriving DecidableEq, Repr

/-- Reset values of R484. -/
def PhyCfg.reset : PhyCfg := ⟨5, false, 0, 60, 30, 0, 15, 10, none, false, 2, 1⟩

/-- The four aux controller registers (R515). -/
structure AuxRegs where
  ctrl : Word
  timing0 : Word
  timing1 : Word
  timeout : Word
deriving DecidableEq, Repr

/-- Reset values of R515. -/
def AuxRegs.reset : AuxRegs := ⟨0x00003200, 0x00BC00C0, 0xB59A9A0C, 0x61A861A8⟩

/-- `GPIO_SET` fields but `device`, `gpio` and `function` (R532). -/
structure GpioCfg where
  pull : Nat
  openDrain : Bool
  strong : Bool
  level : Bool
  lowAsserts : Bool
  input : Fin 3
  orRecover : Bool
  edge : Nat
  debounceUs : Nat
deriving DecidableEq, Repr

/-- Reset values of R532. -/
def GpioCfg.reset : GpioCfg := ⟨0, false, false, false, false, 0, false, 0, 0⟩

/-- `TRACE_SET` fields but `device` (R543). -/
structure TraceCfg where
  enable : Bool
  clkDiv : Nat
  typeMask : BitVec 16
  fwLevel : Nat
  slotMask : BitVec 48
deriving DecidableEq, Repr

/-- Reset values of R543. -/
def TraceCfg.reset : TraceCfg := ⟨false, 0, 0x0FFC, 3, BitVec.allOnes 48⟩

/-- A TEMPER_RESTORE blob with every field it carries (R197). -/
structure TemperBlob where
  bytes : List Byte
deriving DecidableEq, Repr

/-- A configuration command with its parsed parameters (kind C of R552). `remote` is `device` 1. -/
inductive Cfg where
  | bulkUnmap
  | pdSet (remote : Bool) (mask state : BitVec 8)
  | pwrSleep
  | feInputSet (input : Fin 3) (enable highZ : Bool)
  | feBellowsSet (input : Fin 3) (c : BellowsCfg)
  | temperSet (conv : Fin 3) (c : TemperCfg)
  | temperRun (conv : Fin 3) (foreground : Bool)
  | temperRestore (conv : Fin 3) (blob : TemperBlob)
  | slotAssign (slot : Fin 48) (t : SlotTune)
  | slotRelease (slot : Fin 48)
  | slotRetune (slot : Fin 48) (t : SlotTune)
  | slotStep (slot : Fin 48) (steps : Int)
  | slotFmSet (slot : Fin 48) (c : FmCfg)
  | slotAmSet (slot : Fin 48) (c : AmCfg)
  | sideSet (c : SideCfg)
  | sideStreamSet (c : SideStreamCfg)
  | censusSet (c : CensusCfg)
  | followSet (out : Fin 8) (c : FollowCfg)
  | portSet (port : Fin 2) (c : PortCfg)
  | outSet (out : Fin 8) (c : OutCfg)
  | outMapSet (port : Fin 2) (position : Fin 16) (c : MapCfg)
  | outFilterSet (out : Fin 8) (stage : Nat) (legB : Bool) (response : BitVec 8)
  | outFilterSwap (out : Fin 8) (stages : BitVec 5) (legs : BitVec 2)
  | outDetectSet (out : Fin 8) (c : DetectCfg) (clearHold : Bool)
  | storeUnmount
  | storeRecordSet (recNo : Nat) (c : RecordCfg)
  | cursorSet (cursor : Fin 8) (c : CursorCfg)
  | exportSet (cursor : Fin 2) (c : ExportCfg)
  | storeMaintSet (c : MaintCfg)
  | dispatchSet (remote : Bool) (c : ShaperCfg)
  | policeSet (recNo : Nat) (kbps burst : Nat)
  | linkStart
  | linkStop
  | linkSet (c : LinkCfg)
  | linkFeedSet (c : FeedCfg)
  | linkPhySet (remote : Bool) (c : PhyCfg) (recal : Bool)
  | auxCfgSet (remote : Bool) (r : AuxRegs)
  | gpioSet (remote : Bool) (gpio : Fin 8) (function : Nat) (c : GpioCfg)
  | traceSet (remote : Bool) (c : TraceCfg)
deriving DecidableEq, Repr

/-! ### Database content -/

/-- One entry of an AF set or linkage set record (R299). -/
structure SetEntry where
  id : Nat
  kind : Nat
  flag : Nat
  extra : Nat
deriving DecidableEq, Repr

/-- A date and time as FIG 0/10 and group 4A give it (R298); the local offset in half hours. -/
structure Clock where
  mjd : Nat
  hour : Nat
  minute : Nat
  offset : Int
deriving DecidableEq, Repr

/-- Ensemble record, bytes 0x20 onwards (R298). -/
structure EnsembleRec where
  eid : Half
  ecc : Byte
  announced : Bool
  alarm : Bool
  freq : Nat
  slot : Nat
  changeOcc : Nat
  charset : Nat
  shortMask : Half
  label : List Byte
  clock : Clock
  clockTs : Nat
  services : Nat
  subchs : Nat
deriving DecidableEq, Repr

/-- Service record, bytes 0x20 onwards (R298). -/
structure ServiceRec where
  sid : Word
  ecc : Byte
  dab : Bool
  pty : Nat
  flags : Byte
  freq : Nat
  ensemble : Option Nat
  afSet : Option Nat
  linkage : Option Nat
  pin : Half
  charset : Nat
  textCharset : Nat
  shortMask : Half
  label : List Byte
  ptyn : List Byte
  clock : Clock
  textFlags : Byte
  longPs : List Byte
  text : List Byte
deriving DecidableEq, Repr

/-- Component record, bytes 0x20 onwards (R298). -/
structure ComponentRec where
  sid : Word
  scids : Nat
  service : Option Nat
  subch : Option Nat
  tmid : Nat
  cty : Nat
  flags : Byte
  protection : Byte
  startCu : Nat
  sizeCu : Nat
  bitrate : Nat
  packet : Nat
  ensemble : Option Nat
  charset : Nat
  shortMask : Half
  label : List Byte
deriving DecidableEq, Repr

/-- AF set record (R299). -/
structure AfRec where
  owner : Nat
  method : Nat
  entries : List SetEntry
deriving DecidableEq, Repr

/-- Linkage set record (R299); `beyond` are the members that did not fit. -/
structure LinkageRec where
  lsn : Nat
  active : Bool
  hard : Bool
  international : Bool
  from14A : Bool
  entries : List SetEntry
  beyond : List SetEntry
deriving DecidableEq, Repr

/-- The body of a database record by kind (R295). -/
inductive DbBody where
  | free
  | ensemble (r : EnsembleRec)
  | service (r : ServiceRec)
  | component (r : ComponentRec)
  | afSet (r : AfRec)
  | linkage (r : LinkageRec)
deriving DecidableEq, Repr

/-- The key of a record by kind (R295). An AF set is named through its owner's key. -/
inductive DbKey where
  | ensemble (eid : Half) (freq : Nat)
  | service (dab : Bool) (sid : Word) (ecc : Byte)
  | component (sid : Word) (scids : Nat)
  | afSet (dab : Bool) (sid : Word) (ecc : Byte) (method : Nat)
  | linkage (lsn : Nat) (hard international : Bool)
deriving DecidableEq, Repr

/-- A field that side data sets in the record its key names (R280, R255, R289). `touch` only confirms it. -/
inductive DbField where
  | touch
  | ecc (v : Byte)
  | label (charset : Nat) (mask : Half) (text : List Byte)
  | pty (v : Nat)
  | flagBits (mask value : Byte)
  | freq (hz : Nat)
  | pin (v : Half)
  | ptyn (text : List Byte)
  | clock (c : Clock) (ts : Nat)
  | text (charset : Nat) (flags : Byte) (bytes : List Byte)
  | longPs (text : List Byte)
  | ofEnsemble (eid : Half) (freq : Nat)
  | otherEnsemble (eid : Half)
  | announce (on : Bool) (occurrence : Nat)
  | slotOf (slot : Nat)
  | counts (services subchs : Nat)
  | compMap (subch : Option Nat) (tmid cty : Nat) (flags : Byte)
  | compOrg (protection : Byte) (start size bitrate : Nat)
  | packet (address : Nat)
  | entries (l : List SetEntry)
  | addEntry (e : SetEntry)
  | linkState (active from14A : Bool)
  | remove
deriving DecidableEq, Repr

/-- One change that waits for the stroke on which it applies (R257, R289, R300). Source 0 RDS, 1 FIC, 2 DL, 3 mirror. -/
structure DbChange where
  source : Nat
  due : Nat
  ts : Nat
  key : DbKey
  field : DbField
  rbds : Bool
  eon : Bool
  census : Bool
deriving DecidableEq, Repr

/-! ### What the environment hands to an event -/

/-- A complex number, in 1/2^32. -/
structure Cplx where
  re : Int
  im : Int
deriving DecidableEq, Repr

/-- The metrics of one slot over the stroke just ended (R240, R270); `pllError` is the RMS phase error of the carrier PLL
of an AM slot in 0.1 degrees, none without one (R236). -/
structure SlotReading where
  rssi : Option Int
  rssiB : Option Int
  offsetHz : Option Int
  adjLower : Option Int
  adjUpper : Option Int
  usn : Option Nat
  multipath : Option Nat
  deviation : Option Nat
  pilot : Nat
  pilotLocked : Bool
  modulation : Option Nat
  pllError : Option Nat
  blankTriggers : Nat
deriving DecidableEq, Repr

/-- Nothing measured. -/
def SlotReading.reset : SlotReading :=
  ⟨none, none, none, none, none, none, none, none, 0, false, none, none, 0⟩

/-- A measured unit (R179). -/
structure UnitValues where
  offset : Int
  gain : Int
  skew : Int
  bandwidth : Int
deriving DecidableEq, Repr

/-- One entry of the component map of an ensemble (FIG 0/2, 0/3, 0/8): a stream names its subchannel, a packet-mode component
its SCId, whose subchannel FIG 0/3 gives. The SCIdS of a secondary component is none until FIG 0/8 gives it. -/
structure CompEntry where
  sid : Word
  scids : Option Nat
  subch : Option Nat
  scid : Option Nat
  tmid : Nat
  cty : Nat
  primary : Bool
  ca : Bool
  packet : Nat
deriving DecidableEq, Repr

/-- One entry of FIG 0/1 (R255). -/
structure OrgEntry where
  id : Nat
  start : Nat
  size : Nat
  protection : BitVec 8
  bitrate : Nat
deriving DecidableEq, Repr

/-- One entry of FIG 0/3: a component in packet mode (R255). -/
structure PacketEntry where
  scid : Nat
  cty : Nat
  subch : Nat
  address : Nat
deriving DecidableEq, Repr

/-- One entry of FIG 0/8: a component by its SCIdS, in a subchannel or of an SCId (R255). -/
structure GlobalEntry where
  sid : Word
  scids : Nat
  subch : Option Nat
  scid : Option Nat
deriving DecidableEq, Repr

/-- One list of FIG 0/21: the frequencies of an ensemble, by its EId, or of an FM service, by its PI (R255). -/
structure FreqInfo where
  id : Nat
  dab : Bool
  entries : List SetEntry
deriving DecidableEq, Repr

/-- A FIG that a FIB with a correct CRC carries (R255, R256); `next` is its C/N flag. -/
inductive Fig where
  | f00 (eid : Half) (cif : Nat) (change : Bool) (occurrence : Nat) (alarm : Bool)
  | f01 (next : Bool) (entries : List OrgEntry)
  | f02 (next : Bool) (services : List (Word × List CompEntry))
  | f03 (next : Bool) (entries : List PacketEntry)
  | f06 (sets : List LinkageRec)
  | f08 (next : Bool) (entries : List GlobalEntry)
  | f010 (c : Clock)
  | f014 (next : Bool) (entries : List (Nat × Bool))
  | f017 (entries : List (Word × Nat))
  | f021 (infos : List FreqInfo)
  | f024 (entries : List (Word × List Half))
  | f10 (eid : Half) (charset : Nat) (mask : Half) (text : List Byte)
  | f11 (sid : Word) (charset : Nat) (mask : Half) (text : List Byte)
  | f14 (sid : Word) (scids charset : Nat) (mask : Half) (text : List Byte)
  | raw (type extension : Nat) (data : List Byte)
deriving DecidableEq, Repr

/-- One path of a channel impulse response (R248): its place in samples and its level in 0.1 dB. -/
structure CirPath where
  place : Int
  level : Int
deriving DecidableEq, Repr

/-- One transmission frame as the OFDM stages give it (R248, R249, R254, R258, R270): its timestamp in ticks and 1/25 ticks,
how far the PRS peak exceeds the mean correlation in 0.1 dB, the frequency error in Hz that the PRS shows, the guard
correlation of each of its 76 symbols, the channel impulse response, the modulation error ratio, and for each of its four
CIFs the soft decisions of the FIC and of the MSC, −7 to 7 and positive for a one. -/
structure FrameRx where
  ts : Nat
  fraction : Nat
  prsPeak : Nat
  prsHz : Int
  guards : List Cplx
  cir : List CirPath
  snr : Nat
  fic : List (List Int)
  msc : List (List Int)
deriving DecidableEq, Repr

/-- What the codec of an output makes of the frame that it takes (R266): whether the frame's header CRC or scale-factor CRC fails,
and its samples, left and right, with full scale at 2^23. -/
structure DecodeRx where
  crcBad : Bool
  pcm : List (Int × Int)
deriving DecidableEq, Repr

/-- A path of an output: leg A, leg B, or the path that fades out (R339, R353). -/
inductive PathSel where
  | a
  | b
  | old
deriving DecidableEq, Repr

/-- The three reference words of a DL Plus tag (R293). -/
structure DlTag where
  content : Nat
  start : Nat
  length : Nat
deriving DecidableEq, Repr

/-- A DL Plus command (R288). -/
structure DlPlus where
  link : Bool
  itemToggle : Bool
  itemRunning : Bool
  tags : List DlTag
deriving DecidableEq, Repr

/-- The header of a MOT object (R290, R293). -/
structure MotHeader where
  bodyLength : Nat
  contentType : Nat
  contentSubtype : Nat
  ext : List Byte
deriving DecidableEq, Repr

/-- What a PAD data group carries (R287 to R290). -/
inductive PadContent where
  | dlSegment (first last toggle : Bool) (number charset : Nat) (text : List Byte)
  | dlRemove (toggle : Bool)
  | dlPlus (c : DlPlus)
  | motHeader (transport : Nat) (h : MotHeader)
  | motBody (transport segment : Nat) (last : Bool) (bytes : List Byte)
  | motDirectory
deriving DecidableEq, Repr

/-- A PAD data group with the frame it came from (R285, R286). -/
structure PadGroup where
  ts : Nat
  crcOk : Bool
  frameBad : Bool
  fromStore : Bool
  legB : Bool
  content : PadContent
deriving DecidableEq, Repr

/-- One lag measurement (R321): λ in ticks and correlation in 0.1 %. -/
structure LagReading where
  lag : Int
  corr : Nat
deriving DecidableEq, Repr

/-- The tone a level trace measures (R204): level in 0.1 dBFS and on the untraced scale in 0.01 dBm. -/
structure ToneReading where
  found : Bool
  dbfs : Int
  cdbm : Int
deriving DecidableEq, Repr

/-- What stops a target-mode port (R349). -/
inductive ClockFault where
  | noFsync
  | badFrames
  | rateError
deriving DecidableEq, Repr

/-- How a format went (R418, R419): `erased` when an abort landed after the first erase, the volume identifier drawn,
the blocks (CE and block) whose erase failed, and how many programs of the first system page failed on CE0 and on CE1. -/
structure FormatRx where
  erased : Bool
  volumeId : List Byte
  eraseFails : List (Nat × Nat)
  systemFails : Nat × Nat
deriving DecidableEq, Repr

/-- How `STORE_BOOT_WRITE` went (R416): copy 1 failed its read-back; stopped by an abort before the erase of block 0,
with copy 1 written or not; copy 0 failed; both written. -/
inductive BootWriteRx where
  | copy1Failed
  | stopped (copy1 : Bool)
  | copy0Failed
  | written
deriving DecidableEq, Repr

/-- What the media does to a data-out (R384, R385): for each codeword, the bits of its data and parity that are read
wrongly. -/
structure ReadRx where
  wrong : List (List Nat)
deriving DecidableEq, Repr

/-- What READ STATUS shows of the array operation of one LUN (R380, R382): the CE and the LUN that are polled, and how the
operation ended. -/
structure OpRx where
  ce : Nat
  lun : Nat
  pass : Bool
  read : ReadRx
deriving DecidableEq, Repr

/-- The bits of one codeword that a mount reads wrongly (R384, R385). -/
structure MediaError where
  ce : Nat
  block : Nat
  page : Nat
  codeword : Nat
  bits : List Nat
deriving DecidableEq, Repr

/-- What a playing cursor's read finds (R414). -/
inductive CursorRx where
  | billet
  | inTime
  | late
deriving DecidableEq, Repr

/-- What one superframe brings (R450, R455, R465, R467, R479): the points that the receive FFT gives on the 102 tones in the sync
symbol and then in each payload symbol of the far end, in units in which a tone of the far end has unit power and before the
residual echo is taken off; whether the far end decoded this end's superframe and in its phase meets the bound of its quiet noise;
the cancellers as training left them; and the level in 0.1 dBm. -/
structure SuperframeRx where
  symbols : List (List Cplx)
  farSyncOk : Bool
  farQuietOk : Bool
  trained : Option (List Int × List Cplx)
  level : Option Int
deriving DecidableEq, Repr

/-- The payload of a burst (R143, R472, R476). -/
inductive BurstPayload where
  | none
  | certificate (wantsImage : Bool) (nonce der : List Byte)
  | signature (sig : List Byte)
  | verdict (ok half : Bool)
  | message (bytes : List Byte)
deriving DecidableEq, Repr

/-- A burst as received, as the points of its symbols on the 102 tones (R468, R469): its symbols S, its two header symbols and its
payload; the time of its first −S in ns from the start of the superframe (R475), and its level in 0.1 dBm. -/
structure BurstRx where
  preamble : List (List Cplx)
  soft : List (List Cplx)
  payload : List (List Cplx)
  referenceNs : Nat
  level : Int
deriving DecidableEq, Repr

/-- A link frame as received: its bytes and whether a codeword it touches failed (R496). -/
structure LinkFrameRx where
  bytes : List Byte
  codewordFailed : Bool
deriving DecidableEq, Repr

/-- How the bus answered an aux transfer (R521, R522, R526 to R528). -/
inductive AuxBusRx where
  | complete (readBytes : List Byte)
  | nack (at_ : Nat) (readBytes : List Byte)
  | arbitration (byte bit : Nat) (readBytes : List Byte)
deriving DecidableEq, Repr

/-- A START or STOP in the bit time of an acknowledge (R76): of which byte, the address being byte 0, and which it was. -/
structure AckFault where
  byte : Nat
  stop : Bool
deriving DecidableEq, Repr

/-- The part of a host frame that a row brings: whether it begins the frame (a START with the target's address, or HCS_N
taken low) and whether the frame ends with it (a STOP, or HCS_N taken high). A frame may come in several parts, each with
its own instants of capture and landing (R66, R67). -/
structure FramePart where
  starts : Bool
  ends : Bool
deriving DecidableEq, Repr

/-- A frame that one row brings from its START to its STOP. -/
def FramePart.whole : FramePart := ⟨true, true⟩

/-- The three windows of a link direction (R492). -/
inductive Window where
  | control | stream | bulk
deriving DecidableEq, Repr

/-- Where an abort lands on a commit that S0 works on (R93, R94): nowhere, before the commit mark, or with or after it. -/
inductive AbortAt where
  | none
  | beforeMark
  | afterMark
deriving DecidableEq, Repr

/-- The commands of the block, one constructor per row of opcode_table.json, in the table's order. A row that
serves a mailbox request carries the channel; the request itself stands in that channel's request buffer. -/
inductive Instr where
  | sysInfo (ch : Fin 4)
  | sysReset (ch : Fin 4)
  | sysResetTakesEffect
  | txnBegin (ch : Fin 4)
  | txnCommit (ch : Fin 4) (abort : AbortAt)
  | txnCancel (ch : Fin 4)
  | txnStatusGet (ch : Fin 4)
  | txnApply
  | faultGet (ch : Fin 4)
  | faultAck (ch : Fin 4)
  | bulkUnmap (ch : Fin 4)
  | bootBegin (ch : Fin 4)
  | bootData (ch : Fin 4)
  | bootEnd (ch : Fin 4)
  | bootAuthDone
  | roleConfirm (ch : Fin 4)
  | remoteRoleConfirm
  | pdSet (ch : Fin 4)
  | pdSwitchComplete
  | pwrSleep (ch : Fin 4)
  | feInputSet (ch : Fin 4)
  | feBellowsSet (ch : Fin 4)
  | feStatusGet (ch : Fin 4)
  | temperSet (ch : Fin 4)
  | temperRun (ch : Fin 4)
  | temperSave (ch : Fin 4)
  | temperRestore (ch : Fin 4)
  | temperStatusGet (ch : Fin 4)
  | temperLevelTrace (ch : Fin 4)
  | temperLevelTraceDone (ch : Fin 4) (tone : ToneReading)
  | slotAssign (ch : Fin 4)
  | slotRelease (ch : Fin 4)
  | slotRetune (ch : Fin 4)
  | slotStatusGet (ch : Fin 4)
  | slotStep (ch : Fin 4)
  | slotFmSet (ch : Fin 4)
  | slotAmSet (ch : Fin 4)
  | dbSnapshotOpen (ch : Fin 4)
  | dbSnapshotClose (ch : Fin 4)
  | dbRead (ch : Fin 4)
  | dbChanges (ch : Fin 4)
  | dbStream (ch : Fin 4)
  | sideSet (ch : Fin 4)
  | sideStreamSet (ch : Fin 4)
  | censusSet (ch : Fin 4)
  | censusStatusGet (ch : Fin 4)
  | followSet (ch : Fin 4)
  | followSwitch (ch : Fin 4)
  | followSwitchDecision (ch : Fin 4)
  | followStatusGet (ch : Fin 4)
  | followCandidatesGet (ch : Fin 4)
  | portSet (ch : Fin 4)
  | portStatusGet (ch : Fin 4)
  | outSet (ch : Fin 4)
  | outMapSet (ch : Fin 4)
  | outFilterSet (ch : Fin 4)
  | outFilterSwap (ch : Fin 4)
  | outHeldSwap (out : Fin 8)
  | outDetectSet (ch : Fin 4)
  | outStatusGet (ch : Fin 4)
  | outDetectGet (ch : Fin 4)
  | storeFormat (ch : Fin 4)
  | storeFormatDone (ch : Fin 4) (r : FormatRx)
  | storeMount (ch : Fin 4)
  | storeMountDone (ch : Fin 4) (wrong : List MediaError)
  | storeUnmount (ch : Fin 4)
  | storeStatusGet (ch : Fin 4)
  | storeRecordSet (ch : Fin 4)
  | storeRecGet (ch : Fin 4)
  | cursorSet (ch : Fin 4)
  | cursorStatusGet (ch : Fin 4)
  | exportSet (ch : Fin 4)
  | storeMaintSet (ch : Fin 4)
  | storeSlagGet (ch : Fin 4)
  | storeBootWrite (ch : Fin 4)
  | storeBootWriteDone (ch : Fin 4) (r : BootWriteRx)
  | dispatchSet (ch : Fin 4)
  | dispatchStatusGet (ch : Fin 4)
  | policeSet (ch : Fin 4)
  | policeStatusGet (ch : Fin 4)
  | linkStart (ch : Fin 4)
  | linkStop (ch : Fin 4)
  | linkSet (ch : Fin 4)
  | linkFeedSet (ch : Fin 4)
  | linkStatusGet (ch : Fin 4)
  | linkPhySet (ch : Fin 4)
  | linkPhyStatusGet (ch : Fin 4)
  | linkToneGet (ch : Fin 4)
  | auxCfgSet (ch : Fin 4)
  | auxCfgApply
  | auxXfer (ch : Fin 4)
  | auxRetry
  | auxBusyTimeout
  | auxXferDone (r : AuxBusRx)
  | auxSclTimeout
  | auxBusClear (pulses : Option Nat)
  | auxStatusGet (ch : Fin 4)
  | gpioSet (ch : Fin 4)
  | gpioGet (ch : Fin 4)
  | gpioEdge (gpio : Fin 8) (level : Bool)
  | gpioDebounceDone (gpio : Fin 8)
  | idGetCert (ch : Fin 4)
  | idChallenge (ch : Fin 4)
  | traceSet (ch : Fin 4)
  | obsCountersGet (ch : Fin 4)
  | ring (ch : Fin 4)
  | release (ch : Fin 4)
  | abort (ch : Fin 4)
  | bulkDone (half : Fin 2)
  | irqStatusClear (w : Word)
  | evtTailWrite (w : Word)
  | i2cTimingWrite (timeout : Bool) (w : Word)
  | hostRegisterWrite (offset : Half) (w : Word)
  | i2cWriteFrame (address : BitVec 7) (bytes : List Byte) (badAck : Option AckFault) (fullAt : Option Nat) (part : FramePart)
  | i2cReadFrame (address : BitVec 7) (pointer : List Byte) (count : Nat) (badAck : Option AckFault) (holdAt : Option Nat) (part : FramePart)
  | spiWriteFrame (opcode : Byte) (bytes : List Byte) (sckKhz : Nat) (part : FramePart)
  | spiReadFrame (opcode : Byte) (pointer : List Byte) (count sckKhz : Nat) (part : FramePart)
  | sclTimeout
  | sdaTimeout
  | sclHoldRelease
  | resetNAssert (lowNs : Nat)
  | powerOnMonitorReset
  | resetRelease
  | pllLockRomStart
  | otpCheckDone
  | nandBootDone (wrong : List (List (List Nat)))
  | linkBootImageReceived
  | firmwareReady
  | strokeBoundary
  | channeliserFrame (input : Fin 3) (codes : List Int)
  | epochBoundary (conv : Fin 3) (temperature : Int)
  | bellowsAcquireDone (input : Fin 3)
  | bellowsRise (input : Fin 3)
  | bellowsRecoverExpiry (input : Fin 3)
  | temperStartupDone (conv : Fin 3)
  | foregroundDone (conv : Fin 3) (units : List UnitValues) (gi : List (Int × Int))
  | temperCycleStart (conv : Fin 3)
  | temperMeasureDone (conv : Fin 3) (v : UnitValues)
  | temperVerify (conv : Fin 3) (offset gainUdb skew : Int)
  | temperCycleEnd (conv : Fin 3)
  | settleEnd (slot : Fin 48)
  | diversityWindow (slot : Fin 48)
  | slotHold (slot : Fin 48)
  | slotAcquisitionRule (slot : Fin 48)
  | slotLoss (slot : Fin 48)
  | slotRecovery (slot : Fin 48)
  | fmBwWiden (slot : Fin 48)
  | fmStereoAvailable (slot : Fin 48)
  | fmStereoUnavailable (slot : Fin 48)
  | amSyncLock (slot : Fin 48)
  | dabNullDetect (slot : Fin 48) (depthDb length spacing : Nat)
  | dabCoarseLock (slot : Fin 48) (peaks : List Nat)
  | dabSyncTimeout (slot : Fin 48)
  | dabFineLock (slot : Fin 48) (errorHz : Nat) (moved : Nat) (cif ts : Nat)
  | dabPrsFail (slot : Fin 48)
  | dabFrame (slot : Fin 48) (f : FrameRx)
  | dabFlywheelCif (slot : Fin 48)
  | dabLogicalFrameComplete (slot : Fin 48) (subch : Nat)
  | dabAcquisition (slot : Fin 48)
  | dabLoss (slot : Fin 48)
  | dabRecovery (slot : Fin 48)
  | dabReconfiguration (slot : Fin 48)
  | dabUnannouncedChange (slot : Fin 48)
  | dabSubchAbsent (slot : Fin 48) (subch : Nat)
  | dabDiscontinuity (slot : Fin 48)
  | dbFicApply
  | outDecodeFrame (out : Fin 8) (leg : PathSel) (f : DecodeRx)
  | rdsBlock (slot : Fin 48) (bits : BitVec 26) (ts : Nat) (carrier : Int)
  | rdsGroup (slot : Fin 48)
  | dbRdsApply
  | padDataGroup (out : Fin 8) (g : PadGroup)
  | dbDlApply (out : Fin 8)
  | motTimeout (out : Fin 8)
  | dbRecordExpiry (index : Nat)
  | dbGenerationEvent
  | censusVisitStart
  | censusVisitEnd (slot : Fin 48)
  | lagMeasurement (out : Fin 8)
  | lagResult (out : Fin 8)
  | lagNotFound (out : Fin 8)
  | followStandbyReplace (out : Fin 8)
  | levelWindowEnd (out : Fin 8)
  | delayWalkDone (out : Fin 8)
  | followFadeStart (out : Fin 8)
  | followFadeEnd (out : Fin 8)
  | followDipStart (out : Fin 8)
  | followDipEnd (out : Fin 8)
  | tdmFrame (port : Fin 2) (bclks : Nat)
  | portTargetLock (port : Fin 2)
  | portClockError (port : Fin 2) (cause : ClockFault)
  | portFsyncResume (port : Fin 2)
  | outSettled (out : Fin 8)
  | rsmSlip (out : Fin 8)
  | billetStaged (recNo : Fin 256) (timestamp : Nat) (aus : List (List Byte))
  | nandGrant
  | nandOpComplete (r : OpRx)
  | checkpoint
  | tailExpiry
  | patrolRead
  | readDisturbCheck
  | cursorRead (cursor : Fin 8) (r : CursorRx)
  | pwrfailNFall (lowNs : Nat)
  | quenchDone (pass : Bool)
  | linkFrameGrant (w : Window)
  | hostRecordGrant
  | bulkHalfReady
  | linkSuperframe (r : SuperframeRx)
  | beaconTx
  | preambleDetect (samples : List Int)
  | burstRx (b : BurstRx)
  | beaconAnswerTx
  | synthCalDone
  | synthLocked
  | synthUnlock
  | txRequestTimeout
  | syncLoss
  | echoPhaseEnd (farLimited : Nat)
  | halfDuplexSync
  | measureDone (farTable : List Nat)
  | linkTrainingTimeout
  | linkRunStart (named : Nat)
  | bitswapPropose
  | bitswapApply (transmitter : Bool)
  | linkFrameRx
  | ctrlRetransmit
  | remoteTxnPart
  | remoteReplyTimeout (ch : Fin 4)
  | mirrorBundleApply
  | linkOutage
  | resyncComplete
  | tracePacket (words : List Word)
  | traceOverflowPacket
  | traceClkRestart
  | outFadeOutDone (out : Fin 8)
  | nandStatusPollLimit
  | nandTransferEnd
  | idChallengeSigned
  | auxSclHighAfterTimeout (sdaHigh : Bool)
  | auxBusFree
deriving DecidableEq, Repr

end Sys2Proof
end

