-- ==== Sys2Proof/Decode.lean ====
section
/-! DEFINITION. The block has no instruction words: opcode_table.json gives no row any bits, so no word spells a
command. A mailbox request's own header and payload are read in Machine/Operands.lean and Machine/Mailbox.lean. -/

namespace Sys2Proof

/-- The command that a word spells by the bits of opcode_table.json: none, since no row of the table gives bits. -/
def decodeTableWord (_nbits _w : Nat) : Option Instr := none

end Sys2Proof
end

