-- ==== Sys2Proof/Config.lean ====
section
/-! DEFINITION. What the spec leaves open and the machine nevertheless does: free values, constants without a body
that nothing can evaluate. Each is applied to the operands it depends on or to the model's counter
`State.freeNext` (notes/assumptions/7.md, 12.md). -/

namespace Sys2Proof.Config

/-- The word an SPI read returns with too few dummy cycles (R80), or any other undefined 32-bit word. -/
opaque freeWord : Nat → Word
/-- A byte of a response payload whose value the spec does not state. -/
opaque freeByte : Nat → Byte
/-- A field of a header of R391 (its number) to which the rule gives no meaning in a record of this kind. -/
opaque plainField : Nat → Nat → Nat
/-- Whether a low pulse on RESET_N of 1 µs to 10 µs, of this width in ns, resets the device (R574). -/
opaque resetPulse : Nat → Bool
/-- The secret number of the device's next ECDSA signature (R142, R143), which the spec leaves to the device. -/
opaque signNonce : Nat → Nat
/-- The weight k of the 31-tap correction filter of a unit with these skew and bandwidth values (R178), for which the
spec gives no formula. -/
opaque correctionTap : Int → Int → Nat → Int
/-- Tap k of the slot-chain response with this many taps and this output rate in kHz (R174), whose coefficients stand in
the ROM and not in the spec. -/
opaque scTap : Nat → Nat → Nat → Int
/-- Tap k of channel filter b of AM or FM (R223, R234), whose coefficients the spec does not give. -/
opaque channelTap : Bool → Nat → Nat → Int
/-- Metrics that a chapter computes from the signal and the spec gives no formula for. -/
opaque freeInt : Nat → Int
/-- Tap k of the decimation of the MPX signal to 48 kHz (R222), whose coefficients the spec does not give. -/
opaque mpxTap : Nat → Int
/-- What a loop of this bandwidth in Hz at this sample rate in Hz adds to its phase, in 1/2^32 half turn, for an error at its
detector (R227, R236): the spec states the bandwidth alone. -/
opaque loopPhase : Nat → Nat → Int → Int
/-- What such a loop adds to its frequency, in 1/65536 Hz. -/
opaque loopFreq : Nat → Nat → Int → Int
/-- Whether the pilot PLL is locked (R227), from the MPX in phase and in quadrature summed over a stroke: the spec gives no
criterion. -/
opaque pilotLock : Int → Int → Bool
/-- One rail of a slot-rate sample as the 16-bit slot buffer holds it (R246), whose scale the spec does not give. -/
opaque bufferWord : Int → Half
/-- What the frequency loop of an ensemble receiver adds to its estimate over a frame, in Hz, for the errors that the guards of
its symbols show, in 1/256 Hz, and the one of the PRS in Hz (R248): the spec gives the loop no gains. -/
opaque afcStep : List Int → Int → Int
/-- A logical frame in packet mode with its outer code applied (R262): the spec does not say how EN 300 401's code falls on
single logical frames. -/
opaque outerCode : List Byte → List Byte
/-- A sample compensated by `gi_gain` and `gi_phase` of its GI (R153, R179), whose arithmetic the spec does not give. -/
opaque giCompensation : Int → Int → Int → Int

/-- Tap or coefficient k in phase p of the output ROM response FR (R360), in 2^-23, which stands in the ROM and not in the
spec. -/
opaque outputTap : Nat → Nat → Nat → Int

/-- Tap n of the filter, in 2^-23, that limits the mono sums of the lag measurement to 100 to 1,800 Hz (R321); notes/assumptions/7.md. -/
opaque lagTap : Nat → Int
/-- The detail of a LINK packet (R540), by its kind, its device time and the packets on their way: the spec does not give it (log
entry 133). -/
opaque linkDetail : Nat → Nat → Nat → BitVec 24

end Sys2Proof.Config
end

