-- ==== Sys2Proof/Machine/State.lean ====
section
/-! DEFINITION. The state of the device: every register, buffer, queue, counter, mode and pin the spec gives it,
as plain data, with its value right after reset. INVENTORY.md lists every field with its rule, width and reset
value. The last part holds the faults and refusals and `State.reset`. -/

namespace Sys2Proof.Machine

/-- The hardware counters as latched at a stroke (R105, R546); the live counters have the same fields. -/
structure CounterLatch where
  latchStroke : Nat
  traceWordsSent : BitVec 64
  traceWordsDropped : BitVec 32
  eventsPosted : BitVec 32
  eventsLost : BitVec 32
  hostFrames : BitVec 32
  mailboxRequests : Vector (BitVec 32) 4
  outUnderruns : Vector (BitVec 32) 8
  portBadFrames : Vector (BitVec 32) 2
  clipFrames : Vector (BitVec 32) 3
  gainSteps : Vector (BitVec 32) 3
  temperSwaps : Vector (BitVec 32) 3
  nandPagesProgrammed : BitVec 64
  nandPagesRead : BitVec 64
  nandCorrectedBits : BitVec 64
  nandErases : BitVec 32
  nandUncorrectable : BitVec 32
  linkSuperframesTx : BitVec 64
  linkSuperframesRx : BitVec 64
  linkRsCorrected : BitVec 32
  linkRsFailed : BitVec 32
  linkFramesLost : BitVec 32
  linkSyncFailed : BitVec 32
  slotTransitions : Vector (BitVec 32) 48
deriving DecidableEq, Repr

/-- `CounterLatch` at reset (INVENTORY.md, State). -/
def CounterLatch.reset : CounterLatch where
  latchStroke := 0
  traceWordsSent := 0
  traceWordsDropped := 0
  eventsPosted := 0
  eventsLost := 0
  hostFrames := 0
  mailboxRequests := Vector.replicate 4 0
  outUnderruns := Vector.replicate 8 0
  portBadFrames := Vector.replicate 2 0
  clipFrames := Vector.replicate 3 0
  gainSteps := Vector.replicate 3 0
  temperSwaps := Vector.replicate 3 0
  nandPagesProgrammed := 0
  nandPagesRead := 0
  nandCorrectedBits := 0
  nandErases := 0
  nandUncorrectable := 0
  linkSuperframesTx := 0
  linkSuperframesRx := 0
  linkRsCorrected := 0
  linkRsFailed := 0
  linkFramesLost := 0
  linkSyncFailed := 0
  slotTransitions := Vector.replicate 48 0

/-- State of a mailbox channel, codes 0 to 4 of `CHAN_STATE` (R86, 02_host_port_mailbox.md). -/
inductive ChanState where
  | disabled | idle | posted | active | done
deriving DecidableEq, Repr

/-- What S0 is doing on the way from reset to running firmware (R112 to R126, 03_startup_power_identity.md). -/
inductive BootPhase where
  | inReset | pllStart | otpCheck | otpFailed | hostLoad | nandBoot | linkBoot | reservedSource | authenticating | rejected | starting | running
deriving DecidableEq, Repr

/-- What is mapped to the bulk stream window (R563, 17_command_reference.md). -/
inductive Stream where
  | sideData | dbStream | exportStream | bootImage
deriving DecidableEq, Repr

/-- Bellows states, codes 0 to 5 (R157, 04_front_end_channeliser.md). -/
inductive BellowsState where
  | off | acquire | track | overload | recover | manual
deriving DecidableEq, Repr

/-- Temper states, codes 0 to 6 (R184, 05_temper_calibration.md). -/
inductive TemperState where
  | off | startup | foreground | wait | cycle | degraded | fault
deriving DecidableEq, Repr

/-- What a running background cycle is doing (R187, 05_temper_calibration.md). -/
inductive TemperPhase where
  | idle | measure | verify | lastMeasure | ended
deriving DecidableEq, Repr

/-- Slot states, codes 0 to 5 (R212, 06_slots_fm_am.md). -/
inductive SlotState where
  | free | acquiring | live | noSignal | linkLost | fault
deriving DecidableEq, Repr

/-- OFDM receiver states, codes 0 to 3 (R247, 07_dab.md). -/
inductive SyncState where
  | search | coarse | fine | track
deriving DecidableEq, Repr

/-- Lag states, codes 0 to 3 (R322, 09_programme_following.md). -/
inductive LagState where
  | searching | locked | exceeded | notFound
deriving DecidableEq, Repr

/-- Follower states, codes 0 to 5 (R334, 09_programme_following.md). -/
inductive FollowState where
  | off | single | measuring | dip | ready | fading
deriving DecidableEq, Repr

/-- TDM port states, codes 0 to 3 (R349, 10_output_chain.md). -/
inductive PortState where
  | off | starting | run | clockError
deriving DecidableEq, Repr

/-- Output states, codes 0 to 3 (R352, 10_output_chain.md). -/
inductive OutState where
  | stopped | settling | running | clockHold
deriving DecidableEq, Repr

/-- Store states, codes 0 to 5 (R417, 11_crucible_store.md). -/
inductive StoreState where
  | unmounted | mounting | mounted | quenched | fault | formatting
deriving DecidableEq, Repr

/-- Link training states, codes 0 to 7 (R489, 14_split_operation.md). -/
inductive LinkState where
  | off | beacon | handshake | echoTrain | measure | load | run | halfDuplex
deriving DecidableEq, Repr

/-- Link synthesiser states (R477, 13_link_phy.md). -/
inductive SynthState where
  | off | cal | settle | locked
deriving DecidableEq, Repr

/-- Phases of ECHO_TRAIN (R465, 13_link_phy.md). -/
inductive EchoPhase where
  | quiet | localPhase | remotePhase
deriving DecidableEq, Repr

/-- Where an aux transfer stands (R523, R527, 15_aux_bus_gpio.md). -/
inductive AuxPhase where
  | idle | waitBus | transferring | arbLost | ended
deriving DecidableEq, Repr

/-- One-time programmable items of R140; they survive every reset. -/
structure Otp where
  ok : Bool
  serial : BitVec 64
  key : Nat
  cert : List (BitVec 8)
  minSecurity : BitVec 32
  key0Revoked : Bool
deriving DecidableEq, Repr

/-- `Otp` at reset (INVENTORY.md, State). -/
def Otp.reset : Otp where
  ok := true
  serial := 0
  key := 0
  cert := []
  minSecurity := 0
  key0Revoked := false

/-- Public keys that the ROM holds (R124, R141), as points of P-256. They are the same after every reset. -/
structure Rom where
  vendorKey0 : Nat × Nat
  vendorKey1 : Nat × Nat
  caKey : Nat × Nat
deriving DecidableEq, Repr

/-- `Rom` at reset (INVENTORY.md, State). -/
def Rom.reset : Rom where
  vendorKey0 := (0, 0)
  vendorKey1 := (0, 0)
  caKey := (0, 0)

/-- Input balls that the device samples or follows. -/
structure Pins where
  resetN : Bool
  bootsel : BitVec 2
  hifsel : Bool
  haddr : BitVec 2
deriving DecidableEq, Repr

/-- `Pins` at reset (INVENTORY.md, State). -/
def Pins.reset : Pins where
  resetN := false
  bootsel := 0
  hifsel := false
  haddr := 0

/-- An I2C or SPI frame on the bus whose end has not been seen yet (R64 to R67, R79). -/
structure OpenFrame where
  write : Bool
  head : List (BitVec 8)
  ignored : Bool
  word : List (BitVec 8)
  out : List (BitVec 8)
  undef : Bool
  cycles : Nat
deriving DecidableEq, Repr

/-- `OpenFrame` at reset (INVENTORY.md, State). -/
def OpenFrame.reset : OpenFrame where
  write := true
  head := []
  ignored := false
  word := []
  out := []
  undef := false
  cycles := 0

/-- How the part of a frame that a hold stopped goes on (R69, R76): still open, a STOP, or a STOP or START where
an acknowledge was due. -/
inductive FrameClose where
  | more | stop | badAckStop | badAckStart
deriving DecidableEq, Repr

/-- The host control port and its hardware registers in PD0 (R60 to R83, 02_host_port_mailbox.md). -/
structure HostPort where
  bootsel : BitVec 2
  role : BitVec 2
  hifSpi : Bool
  i2cAddrSel : BitVec 2
  fwStage : BitVec 8
  pdOn : BitVec 8
  wrDropped : Bool
  writeRejected : Bool
  partialWord : Bool
  addrError : Bool
  fwReady : Bool
  irqStatus : BitVec 10
  irqEnable : BitVec 10
  spiRdDummy : BitVec 8
  spiWrWait : BitVec 4
  evtHead : BitVec 16
  evtTail : BitVec 16
  i2cTiming : BitVec 32
  i2cTimeout : BitVec 32
  i2cTimingNext : Option (BitVec 32)
  i2cTimeoutNext : Option (BitVec 32)
  rstartInAck : Bool
  sclTimeout : Bool
  sdaTimeout : Bool
  holdingScl : Bool
  busBusy : Bool
  regPtr : Nat
  hostqW : List (BitVec 16 × BitVec 32)
  heldWrites : List (BitVec 16 × BitVec 32)
  heldRead : Option Nat
  heldClose : FrameClose
  frame : Option OpenFrame
  hostqBusy : Nat
  hostqAt : Nat
  frameLatch : Option CounterLatch
  readOut : List (BitVec 8)
deriving DecidableEq, Repr

/-- `HostPort` at reset (INVENTORY.md, State). -/
def HostPort.reset : HostPort where
  bootsel := 0
  role := 0
  hifSpi := false
  i2cAddrSel := 0
  fwStage := 0x00
  pdOn := 0x03
  wrDropped := false
  writeRejected := false
  partialWord := false
  addrError := false
  fwReady := false
  irqStatus := 0
  irqEnable := 0
  spiRdDummy := 0x10
  spiWrWait := 0
  evtHead := 0
  evtTail := 0
  i2cTiming := 0x00300802
  i2cTimeout := 0x61A861A8
  i2cTimingNext := none
  i2cTimeoutNext := none
  rstartInAck := false
  sclTimeout := false
  sdaTimeout := false
  holdingScl := false
  busBusy := false
  regPtr := 0
  hostqW := []
  heldWrites := []
  heldRead := none
  heldClose := .stop
  frame := none
  hostqBusy := 0
  hostqAt := 0
  frameLatch := none
  readOut := []

/-- The bulk stream window (R106, R107, R563). -/
structure BulkWin where
  mapped : Option Stream
  hostToDev : Bool
  hostOwned : BitVec 2
  fillHalf : Bool
  fillUsed : Nat
  finalHalf : Option Bool
deriving DecidableEq, Repr

/-- `BulkWin` at reset (INVENTORY.md, State). -/
def BulkWin.reset : BulkWin where
  mapped := none
  hostToDev := false
  hostOwned := 0
  fillHalf := false
  fillUsed := 0
  finalHalf := none

/-- One held fault (R562, R564 `FAULT_GET`). -/
structure FaultRec where
  code : BitVec 16
  object : BitVec 16
  detail : BitVec 32
  timestamp : Nat
deriving DecidableEq, Repr

/-- `FaultRec` at reset (INVENTORY.md, State). -/
def FaultRec.reset : FaultRec where
  code := 0
  object := 0
  detail := 0
  timestamp := 0

/-- One event record (R101) with its posting order keys (R56). -/
structure Event where
  code : BitVec 16
  object : BitVec 16
  timestamp : Nat
  payload : List (BitVec 8)
deriving DecidableEq, Repr

/-- `Event` at reset (INVENTORY.md, State). -/
def Event.reset : Event where
  code := 0
  object := 0
  timestamp := 0
  payload := []

/-- One of the last 16 accepted transactions (R561). -/
structure TxnResult where
  id : BitVec 32
  commands : Nat
  applyStroke : Nat
  applied : Bool
  remoteDiscarded : Bool
deriving DecidableEq, Repr

/-- `TxnResult` at reset (INVENTORY.md, State). -/
def TxnResult.reset : TxnResult where
  id := 0
  commands := 0
  applyStroke := 0
  applied := false
  remoteDiscarded := false

/-- The transaction open on a channel (R44, R95, R96). -/
structure OpenTxn where
  id : BitVec 32
  cmds : List Cfg
deriving DecidableEq, Repr

/-- `OpenTxn` at reset (INVENTORY.md, State). -/
def OpenTxn.reset : OpenTxn where
  id := 0
  cmds := []

/-- A transaction accepted and not yet applied (R46, R561). -/
structure AcceptedTxn where
  id : BitVec 32
  cmds : List Cfg
  applyStroke : Nat
deriving DecidableEq, Repr

/-- `AcceptedTxn` at reset (INVENTORY.md, State). -/
def AcceptedTxn.reset : AcceptedTxn where
  id := 0
  cmds := []
  applyStroke := 0

/-- Version of the running image (R123, R564 `SYS_INFO`). -/
structure FwVersion where
  major : BitVec 8
  minor : BitVec 8
  patch : BitVec 16
  security : BitVec 32
deriving DecidableEq, Repr

/-- `FwVersion` at reset (INVENTORY.md, State). -/
def FwVersion.reset : FwVersion where
  major := 0
  minor := 0
  patch := 0
  security := 0

/-- The ROM's boot state (R112 to R126). -/
structure Boot where
  phase : BootPhase
  image : List (BitVec 8)
  fw : FwVersion
  slept : Bool
deriving DecidableEq, Repr

/-- `Boot` at reset (INVENTORY.md, State). -/
def Boot.reset : Boot where
  phase := .inReset
  image := []
  fw := FwVersion.reset
  slept := false

/-- Power domains (R133 to R136). -/
structure Power where
  commanded : BitVec 8
  onSince : Vector Nat 8
  switching : List (Fin 8 × Bool)
deriving DecidableEq, Repr

/-- `Power` at reset (INVENTORY.md, State). -/
def Power.reset : Power where
  commanded := 0x03
  onSince := Vector.replicate 8 0
  switching := []

/-- One converter sample after offset and gain, with what corrects it further (R153, R178). -/
structure ConvSample where
  value : Int
  skew : Int
  bandwidth : Int
  gi : Nat
  giGain : Int
  giPhase : Int
deriving DecidableEq, Repr

/-- `ConvSample` at reset (INVENTORY.md, State). -/
def ConvSample.reset : ConvSample where
  value := 0
  skew := 0
  bandwidth := 0
  gi := 0
  giGain := 0
  giPhase := 0

/-- One antenna input with its gain stages and Bellows (R147 to R163, 04_front_end_channeliser.md). -/
structure FeInput where
  enabled : Bool
  hfHighZ : Bool
  cfg : BellowsCfg
  state : BellowsState
  gi : Nat
  oldCfg : BellowsCfg
  cfgAt : Nat
  overDue : Bool
  giMove : Option Nat
  furtherDue : Bool
  noStepAt : Option Nat
  stepped : Bool
  frameNo : Nat
  acqEpochs : Nat
  epochClip : Bool
  epochWhole : Bool
  recoverFrom : Nat
  quietFrom : Option Nat
  rms : Option Int
  peak : Option Int
  clipFrames : BitVec 32
  floorClips : BitVec 32
  overloadEntries : BitVec 32
  gainSteps : BitVec 32
  holdSeen : Bool
  holdEnd : Nat
  tail : List ConvSample
  line : List Int
  sumSq : Nat
  peakCode : Nat
  reportDue : Bool
  frameTs : Nat
deriving DecidableEq, Repr

/-- `FeInput` at reset (INVENTORY.md, State). -/
def FeInput.reset : FeInput where
  enabled := false
  hfHighZ := false
  cfg := BellowsCfg.vhf
  state := .off
  gi := 7
  oldCfg := BellowsCfg.vhf
  cfgAt := 0
  overDue := false
  giMove := none
  furtherDue := false
  noStepAt := none
  stepped := false
  frameNo := 0
  acqEpochs := 0
  epochClip := false
  epochWhole := false
  recoverFrom := 0
  quietFrom := none
  rms := none
  peak := none
  clipFrames := 0
  floorClips := 0
  overloadEntries := 0
  gainSteps := 0
  holdSeen := false
  holdEnd := 0
  tail := []
  line := []
  sumSq := 0
  peakCode := 0
  reportDue := false
  frameTs := 0

/-- `HF_IN` at reset: as a VHF input, with GI 0 to 5 (R152, R156). -/
def FeInput.hfReset : FeInput :=
  { FeInput.reset with cfg := BellowsCfg.hf, oldCfg := BellowsCfg.hf, gi := 5 }

/-- One sub-converter's corrections in force (R178, R179). -/
structure TemperUnit where
  offset : Int
  gain : Int
  skew : Int
  bandwidth : Int
  retired : Bool
  pend : Option UnitValues
deriving DecidableEq, Repr

/-- `TemperUnit` at reset (INVENTORY.md, State). -/
def TemperUnit.reset : TemperUnit where
  offset := 0
  gain := 0
  skew := 0
  bandwidth := 0
  retired := false
  pend := none

/-- One level-trace point (R197, R204). -/
structure LevelPoint where
  freqKhz : Nat
  traceCdb : Int
deriving DecidableEq, Repr

/-- `LevelPoint` at reset (INVENTORY.md, State). -/
def LevelPoint.reset : LevelPoint where
  freqKhz := 0
  traceCdb := 0

/-- The values of a restored blob, which take force at epoch 0 (R198). -/
structure RestoredSet where
  units : List TemperUnit
  giComp : List (Int × Int)
  levels : List LevelPoint
  tLast : Int
deriving DecidableEq, Repr

/-- `RestoredSet` at reset (INVENTORY.md, State). -/
def RestoredSet.reset : RestoredSet where
  units := []
  giComp := []
  levels := []
  tLast := 0

/-- One converter with its Temper instance (R178 to R204, 05_temper_calibration.md). -/
structure TemperConv where
  state : TemperState
  cfg : TemperCfg
  oldCfg : TemperCfg
  cfgAt : Nat
  valid : Bool
  giValid : Bool
  units : List TemperUnit
  giComp : List (Int × Int)
  levels : List LevelPoint
  map : List Nat
  spare : Option Nat
  epoch : Nat
  startupLeft : Nat
  fgLeft : Nat
  phase : TemperPhase
  step : Nat
  phaseLeft : Nat
  verifyFails : Nat
  verifyVoid : Bool
  readings : List Int
  tLast : Int
  cycleTemp : Int
  result : Nat
  failedPos : Option Nat
  intervalFrom : Nat
  cycleCount : BitVec 32
  verifyRepeats : BitVec 32
  verifyFailures : BitVec 32
  lastStart : Nat
  lastEnd : Nat
  fgPending : Option Nat
  bgPending : Option Nat
  restored : Option RestoredSet
deriving DecidableEq, Repr

/-- `TemperConv` at reset (INVENTORY.md, State). -/
def TemperConv.reset : TemperConv where
  state := .off
  cfg := TemperCfg.reset
  oldCfg := TemperCfg.reset
  cfgAt := 0
  valid := false
  giValid := false
  units := List.replicate 9 TemperUnit.reset
  giComp := List.replicate 8 (0, 0)
  levels := []
  map := [0, 1, 2, 3, 4, 5, 6, 7]
  spare := some 8
  epoch := 0
  startupLeft := 0
  fgLeft := 0
  phase := .idle
  step := 0
  phaseLeft := 0
  verifyFails := 0
  verifyVoid := false
  readings := []
  tLast := 0
  cycleTemp := 0
  result := 0
  failedPos := none
  intervalFrom := 0
  cycleCount := 0
  verifyRepeats := 0
  verifyFailures := 0
  lastStart := 0
  lastEnd := 0
  fgPending := none
  bgPending := none
  restored := none

/-- The converter of `HF_IN` at reset: three units, of which unit 2 is the spare (R178, R187). -/
def TemperConv.hfReset : TemperConv :=
  { TemperConv.reset with
    units := List.replicate 3 TemperUnit.reset, giComp := List.replicate 6 (0, 0), map := [0, 1], spare := some 2 }

/-- One of the three quality-control drives (R228, R230), in 1/2^32. -/
structure Drive where
  d : Nat
deriving DecidableEq, Repr

/-- `Drive` at reset (INVENTORY.md, State). -/
def Drive.reset : Drive where
  d := 0

/-- One received block of a group (R276, R277). -/
structure RdsBlock where
  word : BitVec 16
  status : BitVec 8
deriving DecidableEq, Repr

/-- `RdsBlock` at reset (INVENTORY.md, State). -/
def RdsBlock.reset : RdsBlock where
  word := 0
  status := 0xFE

/-- A corrected field value that waits for confirmation (R279). -/
structure Confirm where
  group : Nat
  field : Nat
  value : Nat
  left : Nat
deriving DecidableEq, Repr

/-- `Confirm` at reset (INVENTORY.md, State). -/
def Confirm.reset : Confirm where
  group := 0
  field := 0
  value := 0
  left := 0

/-- An AF list as its codes are applied (R281). -/
structure AfList where
  wanted : Option Nat
  freqs : List Nat
  lfmf : Bool
deriving DecidableEq, Repr

/-- `AfList` at reset (INVENTORY.md, State). -/
def AfList.reset : AfList where
  wanted := none
  freqs := []
  lfmf := false

/-- RDS reception of one FM slot (R273 to R284, 08_side_data_database.md). -/
structure RdsRx where
  synced : Bool
  acquire : List (Nat × Nat × Nat)
  recent : List Bool
  group : List RdsBlock
  groupTs : Nat
  piLast : Option (BitVec 16)
  ecc : BitVec 8
  confirms : List Confirm
  psSegs : List (Option (BitVec 16))
  rtSegs : List (Option (List (BitVec 8)))
  rtAb : Option Bool
  ptynSegs : List (Option (BitVec 32))
  ptynAb : Option Bool
  longSegs : List (Option (BitVec 32))
  psHeld : List (BitVec 8)
  ptynHeld : List (BitVec 8)
  longHeld : List (BitVec 8)
  eonPs : List (BitVec 16 × List (Option (BitVec 16)) × List (BitVec 8))
  eonAf : List (BitVec 16 × AfList)
  afList : AfList
  oda : List (Nat × BitVec 16)
  groupsLost : BitVec 32
deriving DecidableEq, Repr

/-- `RdsRx` at reset (INVENTORY.md, State). -/
def RdsRx.reset : RdsRx where
  synced := false
  acquire := []
  recent := []
  group := []
  groupTs := 0
  piLast := none
  ecc := 0
  confirms := []
  psSegs := List.replicate 4 none
  rtSegs := List.replicate 16 none
  rtAb := none
  ptynSegs := List.replicate 2 none
  ptynAb := none
  longSegs := List.replicate 8 none
  psHeld := []
  ptynHeld := []
  longHeld := []
  eonPs := []
  eonAf := []
  afList := AfList.reset
  oda := []
  groupsLost := 0

/-- One CIF in the time de-interleaver area of an ensemble slot (R246, R250, R258). -/
structure CifRx where
  count : Nat
  ts : Nat
  soft : List Int
  erased : Bool
deriving DecidableEq, Repr

/-- `CifRx` at reset (INVENTORY.md, State). -/
def CifRx.reset : CifRx where
  count := 0
  ts := 0
  soft := []
  erased := false

/-- A logical frame after its Viterbi decoder and energy dispersal (R259, R260). -/
structure MscFrame where
  count : Nat
  ts : Nat
  bytes : List Byte
  bad : Bool
  erased : Bool
deriving DecidableEq, Repr

/-- `MscFrame` at reset (INVENTORY.md, State). -/
def MscFrame.reset : MscFrame where
  count := 0
  ts := 0
  bytes := []
  bad := false
  erased := false

/-- A logical frame out of the time de-interleaver, before its decoder (R258). -/
structure ReadyFrame where
  subch : Nat
  beginTs : Nat
  count : Nat
  ts : Nat
  soft : List Int
  erased : Bool
  crossed : Bool
deriving DecidableEq, Repr

/-- `ReadyFrame` at reset (INVENTORY.md, State). -/
def ReadyFrame.reset : ReadyFrame where
  subch := 0
  beginTs := 0
  count := 0
  ts := 0
  soft := []
  erased := false
  crossed := false

/-- One subchannel of the held configuration (R255, R267). -/
structure SubCh where
  id : Nat
  start : Nat
  size : Nat
  protection : BitVec 8
  bitrate : Nat
  kind : Nat
  first : Bool
  runs : List Nat
  align : Nat
  failRun : Nat
  synced : Bool
  beginTs : Nat
  endTs : Nat
  removed : Bool
  fec : Bool
  frames : List MscFrame
  lastSeen : Nat
deriving DecidableEq, Repr

/-- `SubCh` at reset (INVENTORY.md, State). -/
def SubCh.reset : SubCh where
  id := 0
  start := 0
  size := 0
  protection := 0
  bitrate := 0
  kind := 0
  first := true
  runs := [0, 0, 0, 0, 0]
  align := 0
  failRun := 0
  synced := false
  beginTs := 0
  endTs := 0
  removed := false
  fec := false
  frames := []
  lastSeen := 0

/-- The header of a completed subchannel unit (R263). -/
structure UnitHeader where
  slot : Nat
  subch : Nat
  kind : Nat
  flags : BitVec 8
  cifCount : Nat
  length : Nat
  timestamp : Nat
  generation : BitVec 32
  rsCorrected : Nat
  auCount : Nat
  auBad : BitVec 8
  bitrate : Nat
deriving DecidableEq, Repr

/-- `UnitHeader` at reset (INVENTORY.md, State). -/
def UnitHeader.reset : UnitHeader where
  slot := 0
  subch := 0
  kind := 0
  flags := 0
  cifCount := 0
  length := 0
  timestamp := 0
  generation := 0
  rsCorrected := 0
  auCount := 0
  auBad := 0
  bitrate := 0

/-- A subchannel unit, complete in Hearth (R263, R264). -/
structure DabUnit where
  header : UnitHeader
  payload : List Byte
deriving DecidableEq, Repr

/-- `DabUnit` at reset (INVENTORY.md, State). -/
def DabUnit.reset : DabUnit where
  header := UnitHeader.reset
  payload := []

/-- The ensemble receiver of one slot (R247 to R270, 07_dab.md). -/
structure DabRx where
  sync : SyncState
  freqHz : Option Int
  coarseFrom : Int
  window : Option Int
  framesIn : Nat
  prsFails : Nat
  tracked : Bool
  cif : Nat
  cifAt : Nat
  frameAt : Option Nat
  area : List CifRx
  ready : List ReadyFrame
  period : Nat
  gaps : List Nat
  lastFrameOk : Bool
  frameEnd : Nat
  snr : Nat
  berPre : Nat
  errors : Nat
  compared : Nat
  ficFail : Nat
  cirSpread : Nat
  trackedAllStroke : Bool
  eid : Option (BitVec 16)
  eidNew : Option (BitVec 16 × Nat)
  subchs : List SubCh
  subchKnown : Bool
  relearn : Bool
  comps : List CompEntry
  packets : List PacketEntry
  pastComps : List (Nat × List CompEntry)
  nextFigs : List Fig
  others : List (BitVec 32 × List (BitVec 16))
  freqInfos : List FreqInfo
  reconfAt : Option Nat
  discDue : Bool
  oldSubchs : List SubCh
  orgGens : List (Nat × Nat × Option (BitVec 32))
  candidates : List (SubCh × Nat)
  unitsBad : BitVec 32
  rsCorrected : BitVec 32
  rsFailed : BitVec 32
  units : List DabUnit
deriving DecidableEq, Repr

/-- `DabRx` at reset (INVENTORY.md, State). -/
def DabRx.reset : DabRx where
  sync := .search
  freqHz := none
  coarseFrom := 0
  window := none
  framesIn := 0
  prsFails := 0
  tracked := false
  cif := 0
  cifAt := 0
  frameAt := none
  area := []
  ready := []
  period := 58982400
  gaps := []
  lastFrameOk := false
  frameEnd := 0
  snr := 0
  berPre := 0
  errors := 0
  compared := 0
  ficFail := 12
  cirSpread := 0
  trackedAllStroke := false
  eid := none
  eidNew := none
  subchs := []
  subchKnown := false
  relearn := false
  comps := []
  packets := []
  pastComps := []
  nextFigs := []
  others := []
  freqInfos := []
  reconfAt := none
  discDue := false
  oldSubchs := []
  orgGens := []
  candidates := []
  unitsBad := 0
  rsCorrected := 0
  rsFailed := 0
  units := []

/-- One slot-rate sample (R169, R177, R220). -/
structure SlotSample where
  time : Nat
  value : Cplx
  ok : Bool
deriving DecidableEq, Repr

/-- `SlotSample` at reset (INVENTORY.md, State). -/
def SlotSample.reset : SlotSample where
  time := 0
  value := ⟨0, 0⟩
  ok := false

/-- One synthesis path with its NCO and decimators (R169 to R171, R174). Path A serves VHF_A and HF_IN, path B
VHF_B. -/
structure TunerPath where
  since : Nat
  stageSince : Nat
  nco : Nat
  bins : List (List Cplx)
  mixed : List Cplx
  half : List Cplx
  queue : List SlotSample
deriving DecidableEq, Repr

/-- `TunerPath` at reset (INVENTORY.md, State). -/
def TunerPath.reset : TunerPath where
  since := 0
  stageSince := 0
  nco := 0
  bins := []
  mixed := []
  half := []
  queue := []

/-- An AAC-LC frame of a remote slot, as the local received it (R498 to R500). -/
structure AacFrame where
  ts : Nat
  kbps : Nat
  flags : BitVec 8
  data : List Byte
deriving DecidableEq, Repr

/-- `AacFrame` at reset (INVENTORY.md, State). -/
def AacFrame.reset : AacFrame where
  ts := 0
  kbps := 0
  flags := 0
  data := []

/-- One sample of slot audio at 48 kHz (R221, R222). -/
structure SlotAudio where
  ts : Nat
  left : Int
  right : Int
  valid : Bool
deriving DecidableEq, Repr

/-- `SlotAudio` at reset (INVENTORY.md, State). -/
def SlotAudio.reset : SlotAudio where
  ts := 0
  left := 0
  right := 0
  valid := false

/-- The samples that a filter of first or second order holds. -/
structure Biquad where
  x1 : Int
  x2 : Int
  y1 : Int
  y2 : Int
deriving DecidableEq, Repr

/-- `Biquad` at reset (INVENTORY.md, State). -/
def Biquad.reset : Biquad where
  x1 := 0
  x2 := 0
  y1 := 0
  y2 := 0

/-- What one slot-rate sample of the stroke in progress brings to the metrics (R240). -/
structure StrokeSample where
  a : Cplx
  b : Cplx
  v : Cplx
  y : Cplx
  disc : Int
  err : Int
deriving DecidableEq, Repr

/-- `StrokeSample` at reset (INVENTORY.md, State). -/
def StrokeSample.reset : StrokeSample where
  a := ⟨0, 0⟩
  b := ⟨0, 0⟩
  v := ⟨0, 0⟩
  y := ⟨0, 0⟩
  disc := 0
  err := 0

/-- The FM and AM stages of a slot on the Anvils (R223 to R237); all cleared by a reset or a demodulator clear. -/
structure DemodRx where
  line : List Cplx
  lastPhase : BitVec 32
  offset : Int
  pll : Nat
  pllHz : Int
  inPhase : Int
  quadrature : Int
  mpx : List Int
  diff : List Int
  deLeft : Int
  deRight : Int
  hcLeft : Biquad
  hcRight : Biquad
  envelope : List Nat
  blanked : List Bool
  spanLeft : Nat
  spanWait : List SlotSample
  spanBefore : Cplx
  triggers : Nat
  carrier : Nat
  highPass : Biquad
  taken : List StrokeSample
deriving DecidableEq, Repr

/-- `DemodRx` at reset (INVENTORY.md, State). -/
def DemodRx.reset : DemodRx where
  line := []
  lastPhase := 0
  offset := 0
  pll := 0
  pllHz := 0
  inPhase := 0
  quadrature := 0
  mpx := []
  diff := []
  deLeft := 0
  deRight := 0
  hcLeft := Biquad.reset
  hcRight := Biquad.reset
  envelope := []
  blanked := []
  spanLeft := 0
  spanWait := []
  spanBefore := ⟨0, 0⟩
  triggers := 0
  carrier := 0
  highPass := Biquad.reset
  taken := []

/-- The combiner of a diversity slot (04 R172, 06 R209). -/
structure Diversity where
  windowAt : List (Cplx × Cplx × Cplx)
  fromA : Cplx
  fromB : Cplx
  toA : Cplx
  toB : Cplx
  newUntil : Option Nat
  windowTs : Nat
  fallDue : Option Nat
  falling : Bool
  keepB : Bool
  usedA : Bool
  usedB : Bool
  silentA : Bool
  silentB : Bool
deriving DecidableEq, Repr

/-- `Diversity` at reset (INVENTORY.md, State). -/
def Diversity.reset : Diversity where
  windowAt := []
  fromA := ⟨4294967296, 0⟩
  fromB := ⟨0, 0⟩
  toA := ⟨4294967296, 0⟩
  toB := ⟨0, 0⟩
  newUntil := none
  windowTs := 0
  fallDue := none
  falling := false
  keepB := false
  usedA := false
  usedB := false
  silentA := false
  silentB := false

/-- The metrics of R240 that the device computes itself, as they stand at the end of a stroke. -/
structure ShownMetrics where
  bwIndex : Nat
  shareA : Nat
  stereoWeight : Nat
  muteDb : Nat
  highcutHz : Option Nat
deriving DecidableEq, Repr

/-- `ShownMetrics` at reset (INVENTORY.md, State). -/
def ShownMetrics.reset : ShownMetrics where
  bwIndex := 0
  shareA := 100
  stereoWeight := 0
  muteDb := 0
  highcutHz := none

/-- One slot (R205 to R240, 06_slots_fm_am.md). -/
structure Slot where
  state : SlotState
  tune : SlotTune
  fm : FmCfg
  am : AmCfg
  reading : SlotReading
  settling : Bool
  settleEnd : Nat
  held : Bool
  holdEnd : Nat
  cleared : Bool
  clearedAt : Nat
  movedAt : Nat
  metRun : Nat
  failRun : Nat
  bwIndex : Nat
  bwFrom : Nat
  bwAt : Nat
  bwSetAt : Option Nat
  past : List (Nat × FmCfg × AmCfg)
  shown : ShownMetrics
  bwHold : Nat
  stereo : Bool
  pilotHigh : Nat
  pilotLow : Nat
  mute : Drive
  highcut : Drive
  blend : Drive
  gate : Nat
  syncDet : Bool
  detectAt : Nat
  lockRun : Nat
  blankOff : Bool
  div : Diversity
  oldTune : SlotTune
  tunedAt : Nat
  pathA : TunerPath
  pathB : TunerPath
  demod : DemodRx
  buffer : List (BitVec 16 × BitVec 16)
  audio : List SlotAudio
  aac : List AacFrame
  blockTs : Option Nat
  fadeFrom : Option Nat
  liveSpells : List (Nat × Option Nat)
  rds : RdsRx
  dab : DabRx
  area : Option (Fin 12)
  visit : Bool
deriving DecidableEq, Repr

/-- `Slot` at reset (INVENTORY.md, State). -/
def Slot.reset : Slot where
  state := .free
  tune := SlotTune.reset
  fm := FmCfg.reset
  am := AmCfg.reset
  reading := SlotReading.reset
  settling := false
  settleEnd := 0
  held := false
  holdEnd := 0
  cleared := false
  clearedAt := 0
  movedAt := 0
  metRun := 0
  failRun := 0
  bwIndex := 0
  bwFrom := 0
  bwAt := 0
  bwSetAt := none
  past := []
  shown := ShownMetrics.reset
  bwHold := 0
  stereo := false
  pilotHigh := 0
  pilotLow := 0
  mute := Drive.reset
  highcut := Drive.reset
  blend := Drive.reset
  gate := 0
  syncDet := false
  detectAt := 0
  lockRun := 0
  blankOff := false
  div := Diversity.reset
  oldTune := SlotTune.reset
  tunedAt := 0
  pathA := TunerPath.reset
  pathB := TunerPath.reset
  demod := DemodRx.reset
  buffer := []
  audio := []
  aac := []
  blockTs := none
  fadeFrom := none
  liveSpells := []
  rds := RdsRx.reset
  dab := DabRx.reset
  area := none
  visit := false

/-- A side-data record in the staging area (R291 to R294). -/
structure SideRec where
  kind : BitVec 16
  source : BitVec 16
  timestamp : Nat
  payload : List (BitVec 8)
deriving DecidableEq, Repr

/-- `SideRec` at reset (INVENTORY.md, State). -/
def SideRec.reset : SideRec where
  kind := 0
  source := 0
  timestamp := 0
  payload := []

/-- PAD reassembly of one output (R285 to R290). -/
structure PadRx where
  dlText : List (BitVec 8)
  dlSegs : Nat
  dlSeen : Option Bool
  dlToggle : Option Bool
  dlCharset : BitVec 8
  label : Option (Bool × List (BitVec 8))
  labelCharset : BitVec 8
  plusHeld : List DlPlus
  motId : Option Nat
  motHeader : Option MotHeader
  motSegs : List (Nat × List (BitVec 8))
  motLast : Option Nat
  motFrom : Nat
  motDropped : Option Nat
  directory : BitVec 32
deriving DecidableEq, Repr

/-- `PadRx` at reset (INVENTORY.md, State). -/
def PadRx.reset : PadRx where
  dlText := []
  dlSegs := 0
  dlSeen := none
  dlToggle := none
  dlCharset := 0
  label := none
  labelCharset := 0
  plusHeld := []
  motId := none
  motHeader := none
  motSegs := []
  motLast := none
  motFrom := 0
  motDropped := none
  directory := 0

/-- Side-data settings, staging area and PAD (R272 to R294). -/
structure Side where
  cfg : SideCfg
  past : List (Nat × SideCfg)
  stream : SideStreamCfg
  staging : List SideRec
  dropped : Nat
  pad : Vector PadRx 8
  padDgFailed : BitVec 32
  motAbandoned : BitVec 32
deriving DecidableEq, Repr

/-- `Side` at reset (INVENTORY.md, State). -/
def Side.reset : Side where
  cfg := SideCfg.reset
  past := []
  stream := SideStreamCfg.reset
  staging := []
  dropped := 0
  pad := Vector.replicate 8 PadRx.reset
  padDgFailed := 0
  motAbandoned := 0

/-- One database record with its common header (R296 to R299). -/
structure DbRec where
  index : Nat
  body : DbBody
  fromCensus : Bool
  eon : Bool
  rbds : Bool
  incarnation : BitVec 16
  generation : BitVec 32
  firstSeen : Nat
  confirmed : Nat
  pinned : Bool
  applied : List Nat
  used : Bool
deriving DecidableEq, Repr

/-- `DbRec` at reset (INVENTORY.md, State). -/
def DbRec.reset : DbRec where
  index := 0
  body := .free
  fromCensus := false
  eon := false
  rbds := false
  incarnation := 0
  generation := 0
  firstSeen := 0
  confirmed := 0
  pinned := false
  applied := []
  used := false

/-- An open snapshot (R309, R311). -/
structure Snapshot where
  generation : BitVec 32
  stale : Bool
deriving DecidableEq, Repr

/-- `Snapshot` at reset (INVENTORY.md, State). -/
def Snapshot.reset : Snapshot where
  generation := 0
  stale := false

/-- One copy in the copy-on-write reserve and the snapshots it serves (R311). -/
structure CowCopy where
  content : DbRec
  for1 : Bool
  for2 : Bool
deriving DecidableEq, Repr

/-- `CowCopy` at reset (INVENTORY.md, State). -/
def CowCopy.reset : CowCopy where
  content := DbRec.reset
  for1 := false
  for2 := false

/-- Progress of a DB_STREAM (R310). -/
structure DbStreamPos where
  snapshot : Nat
  nextIndex : Nat
  sent : Nat
  ended : Bool
deriving DecidableEq, Repr

/-- `DbStreamPos` at reset (INVENTORY.md, State). -/
def DbStreamPos.reset : DbStreamPos where
  snapshot := 1
  nextIndex := 0
  sent := 0
  ended := false

/-- The service database (R295 to R311). -/
structure Db where
  recs : List DbRec
  pending : List DbChange
  generation : BitVec 32
  snaps : Vector (Option Snapshot) 2
  reserve : List CowCopy
  stream : Option DbStreamPos
  steppedAt : Option Nat
  lastEvent : Option Nat
  stepsSince : Nat
  overflow : BitVec 32
  expired : BitVec 32
deriving DecidableEq, Repr

/-- `Db` at reset (INVENTORY.md, State). -/
def Db.reset : Db where
  recs := []
  pending := []
  generation := 0
  snaps := Vector.replicate 2 none
  reserve := []
  stream := none
  steppedAt := none
  lastEvent := none
  stepsSince := 0
  overflow := 0
  expired := 0

/-- A running census visit (R303 to R305). -/
structure Visit where
  slot : Nat
  dab : Bool
  freq : Nat
  start : Nat
  pass : Nat
deriving DecidableEq, Repr

/-- `Visit` at reset (INVENTORY.md, State). -/
def Visit.reset : Visit where
  slot := 0
  dab := false
  freq := 0
  start := 0
  pass := 0

/-- A pass of the census plan that is not complete (R306). -/
structure PlanPass where
  no : Nat
  start : Nat
  found : Nat
  walked : Bool
deriving DecidableEq, Repr

/-- `PlanPass` at reset (INVENTORY.md, State). -/
def PlanPass.reset : PlanPass where
  no := 0
  start := 0
  found := 0
  walked := false

/-- The census pool (R302 to R306). -/
structure Census where
  cfg : CensusCfg
  visits : List Visit
  planPos : Nat
  passNo : Nat
  passes : List PlanPass
  lastCycleMs : Nat
  found : Nat
deriving DecidableEq, Repr

/-- `Census` at reset (INVENTORY.md, State). -/
def Census.reset : Census where
  cfg := CensusCfg.reset
  visits := []
  planPos := 0
  passNo := 0
  passes := []
  lastCycleMs := 0
  found := 0

/-- A decided fade or dip of a follower (R324, R329, R330). -/
structure Fade where
  dip : Bool
  start : Nat
  decided : Nat
  reason : Nat
  toB : Bool
  unaligned : Bool
  linear : Bool
  fadeMs : Nat
  finish : Nat
  fromAt : Nat
  fromX : Nat
  mid : Nat
  latency : Nat
  tsStep : Int
  leave : Nat
  newActive : Nat
  newStandby : Nat
  dipped : Bool
  stopAfter : Bool
  keepSource : Bool
deriving DecidableEq, Repr

/-- `Fade` at reset (INVENTORY.md, State). -/
def Fade.reset : Fade where
  dip := false
  start := 0
  decided := 0
  reason := 0
  toB := false
  unaligned := false
  linear := false
  fadeMs := 0
  finish := 0
  fromAt := 0
  fromX := 0
  mid := 0
  latency := 0
  tsStep := 0
  leave := 0
  newActive := 0
  newStandby := 0
  dipped := false
  stopAfter := false
  keepSource := true

/-- One output's follower (R312 to R337, 09_programme_following.md). -/
structure Follower where
  cfg : FollowCfg
  state : FollowState
  activeB : Bool
  legA : LegRef
  legB : LegRef
  target : Option Nat
  bMatch : Nat
  lag : LagState
  lagTicks : Option Int
  agreeing : List Int
  lowRun : Nat
  searchFrom : Nat
  corr : Nat
  lagDue : Option (Nat × LagReading)
  lastMeasure : Nat
  delayA : Nat
  delayB : Nat
  need : Option Nat
  trimA : Int
  trimB : Int
  trimSet : Bool
  levelFrom : Option Nat
  hist : List (LegRef × List Nat)
  beat : List (LegRef × Nat)
  prevA : Option SlotState
  prevB : Option SlotState
  switches : BitVec 32
  onLegFrom : Nat
  fade : Option Fade
  lastFade : Option Fade
  heldSet : Option FollowCfg
deriving DecidableEq, Repr

/-- `Follower` at reset (INVENTORY.md, State). -/
def Follower.reset : Follower where
  cfg := FollowCfg.reset
  state := .off
  activeB := false
  legA := LegRef.none
  legB := LegRef.none
  target := none
  bMatch := 0
  lag := .searching
  lagTicks := none
  agreeing := []
  lowRun := 0
  searchFrom := 0
  corr := 0
  lagDue := none
  lastMeasure := 0
  delayA := 0
  delayB := 0
  need := none
  trimA := 0
  trimB := 0
  trimSet := false
  levelFrom := none
  hist := []
  beat := []
  prevA := none
  prevB := none
  switches := 0
  onLegFrom := 0
  fade := none
  lastFade := none
  heldSet := none

/-- The path that a restart or a stop replaces (R353). -/
structure OldPath where
  leg : LegRef
  cursor : Bool
  port : Fin 2
  arrival : Nat
  latency : Nat
  fadeFrom : Nat
  finish : Nat
  pre : BitVec 8
  rsm : BitVec 8
  fine : BitVec 8
  delay : Nat
  trim : Int
deriving DecidableEq, Repr

/-- `OldPath` at reset (INVENTORY.md, State). -/
def OldPath.reset : OldPath where
  leg := LegRef.none
  cursor := false
  port := 0
  arrival := 0
  latency := 0
  fadeFrom := 0
  finish := 0
  pre := 0xFF
  rsm := 0xFE
  fine := 0xFE
  delay := 0
  trim := 0

/-- One change of the host gain (R354). -/
structure GainRamp where
  target : Option Int
  start : Nat
  lengthMs : Nat
deriving DecidableEq, Repr

/-- `GainRamp` at reset (INVENTORY.md, State). -/
def GainRamp.reset : GainRamp where
  target := some 0
  start := 0
  lengthMs := 0

/-- One programme output (R339 to R375, 10_output_chain.md). -/
structure Output where
  cfg : OutCfg
  state : OutState
  active : Vector (BitVec 8) 7
  shadow : Vector (BitVec 8) 7
  heldSwap : Option (BitVec 5 × BitVec 2)
  oldPath : Option OldPath
  firstValid : Option Nat
  stopAt : Option Nat
  ramps : List GainRamp
  detect : DetectCfg
  detectPast : List (Nat × DetectCfg)
  detReset : Nat
  readings : DetReadings
  epsSrc : Int
  clockRange : Bool
  underruns : BitVec 32
  slips : BitVec 32
  concealedFrames : BitVec 32
  invalidFrames : BitVec 32
deriving DecidableEq, Repr

/-- `Output` at reset (INVENTORY.md, State). -/
def Output.reset : Output where
  cfg := OutCfg.reset
  state := .stopped
  active := Vector.replicate 7 0xFE
  shadow := Vector.replicate 7 0xFE
  heldSwap := none
  oldPath := none
  firstValid := none
  stopAt := none
  ramps := []
  detect := DetectCfg.reset
  detectPast := []
  detReset := 0
  readings := DetReadings.reset
  epsSrc := 0
  clockRange := false
  underruns := 0
  slips := 0
  concealedFrames := 0
  invalidFrames := 0

/-- A sample on its way through an output's chain (R339, R340, R346, R369). Full scale is 2^23. -/
structure Sample where
  stamp : Int
  left : Int
  right : Int
  valid : Bool
  tsValid : Bool
  concealed : Bool
  fading : Bool
  approx : Bool
deriving DecidableEq, Repr

/-- `Sample` at reset (INVENTORY.md, State). -/
def Sample.reset : Sample where
  stamp := 0
  left := 0
  right := 0
  valid := false
  tsValid := false
  concealed := false
  fading := false
  approx := false

/-- One leg's stages from its source to the delay unit (R339, R341, R357, R359), with its decoder (R266) and the
histories of the lag measurement (R321). -/
structure LegPath where
  rate : Nat
  takeFrom : Int
  line : List Sample
  taken : Nat
  position : Option Int
  step : Nat
  rsmFrom : Int
  validFrom : Int
  pastBanks : List (Nat × BitVec 8 × BitVec 8)
  drift : Int
  slipJump : Int
  slipLeft : Nat
  unit : List Sample
  lastEnd : Option Nat
  badRun : Nat
  good : List (Int × Int)
  concealAt : Option Nat
  mono : List Int
  history : List Int
  lagAt : Nat
deriving DecidableEq, Repr

/-- `LegPath` at reset (INVENTORY.md, State). -/
def LegPath.reset : LegPath where
  rate := 48000
  takeFrom := 0
  line := []
  taken := 0
  position := none
  step := 0
  rsmFrom := 0
  validFrom := 0
  pastBanks := []
  drift := 0
  slipJump := 0
  slipLeft := 0
  unit := []
  lastEnd := none
  badRun := 0
  good := []
  concealAt := none
  mono := []
  history := []
  lagAt := 0

/-- A sample of an output after its gain stage (R340, R346). -/
structure OutSample where
  stamp : Int
  left : BitVec 24
  right : BitVec 24
  valid : Bool
  settled : Bool
  tsValid : Bool
  concealed : Bool
  fading : Bool
  approx : Bool
  fine : BitVec 8
  latency : Nat
deriving DecidableEq, Repr

/-- `OutSample` at reset (INVENTORY.md, State). -/
def OutSample.reset : OutSample where
  stamp := 0
  left := 0
  right := 0
  valid := false
  settled := false
  tsValid := false
  concealed := false
  fading := false
  approx := false
  fine := 0xFE
  latency := 0

/-- One detector point (R372). -/
structure DetPoint where
  cfg : DetectCfg
  recent : List (Int × Int × Int)
  peakL : Nat
  peakR : Nat
  peakM : Nat
  holdL : Nat
  holdR : Nat
  holdM : Nat
  held : Bool
  seen : Bool
  sums : List (Nat × Nat × Nat × Nat)
  weight : List (List (Int × Int))
  envL : Nat
  envR : Nat
  envM : Nat
  envSeen : Bool
deriving DecidableEq, Repr

/-- `DetPoint` at reset (INVENTORY.md, State). -/
def DetPoint.reset : DetPoint where
  cfg := DetectCfg.reset
  recent := []
  peakL := 0
  peakR := 0
  peakM := 0
  holdL := 0
  holdR := 0
  holdM := 0
  held := false
  seen := false
  sums := []
  weight := [[], [], []]
  envL := 0
  envR := 0
  envM := 0
  envSeen := false

/-- The buffers of one output's chain (R339). -/
structure AudioPath where
  legA : LegPath
  legB : LegPath
  old : LegPath
  fine : List OutSample
  fineOld : List OutSample
  points : Vector DetPoint 3
deriving DecidableEq, Repr

/-- `AudioPath` at reset (INVENTORY.md, State). -/
def AudioPath.reset : AudioPath where
  legA := LegPath.reset
  legB := LegPath.reset
  old := LegPath.reset
  fine := []
  fineOld := []
  points := Vector.replicate 3 DetPoint.reset

/-- What a frame of a port says of one output (R346, R369, R371, R375). -/
structure FrameInfo where
  valid : Bool
  tsValid : Bool
  concealed : Bool
  fading : Bool
  approx : Bool
  stamp : Nat
  latency : Nat
deriving DecidableEq, Repr

/-- `FrameInfo` at reset (INVENTORY.md, State). -/
def FrameInfo.reset : FrameInfo where
  valid := false
  tsValid := false
  concealed := false
  fading := false
  approx := false
  stamp := 0
  latency := 0

/-- One frame of AUDQ (R22, R346). -/
structure QueueFrame where
  words : List (Option (Fin 8) × BitVec 32)
  info : Vector FrameInfo 8
deriving DecidableEq, Repr

/-- `QueueFrame` at reset (INVENTORY.md, State). -/
def QueueFrame.reset : QueueFrame where
  words := []
  info := Vector.replicate 8 FrameInfo.reset

/-- One TDM port (R343 to R349, R366, R376). -/
structure Port where
  cfg : PortCfg
  state : PortState
  eps : Int
  badFrames : BitVec 32
  badRun : Nat
  goodFrom : Option Nat
  since : Nat
  audq : List QueueFrame
  sent : Vector FrameInfo 8
  sentAt : Option Nat
  servo : Int
  nextAt : Nat
  refill : Bool
  frames : Nat
  lastFsync : Nat
  edges : List Nat
  words : List (BitVec 32)
  before : List (BitVec 32)
  packet : Vector (Nat × Nat) 8
  packetFlags : Vector (BitVec 8) 8
  past : Vector (List (Nat × MapCfg)) 16
  map : Vector MapCfg 16
deriving DecidableEq, Repr

/-- `Port` at reset (INVENTORY.md, State). -/
def Port.reset : Port where
  cfg := PortCfg.reset
  state := .off
  eps := 0
  badFrames := 0
  badRun := 0
  goodFrom := none
  since := 0
  audq := []
  sent := Vector.replicate 8 FrameInfo.reset
  sentAt := none
  servo := 0
  nextAt := 0
  refill := true
  frames := 0
  lastFsync := 0
  edges := []
  words := []
  before := []
  packet := Vector.replicate 8 (0, 0)
  packetFlags := Vector.replicate 8 0
  past := Vector.replicate 16 []
  map := Vector.replicate 16 MapCfg.reset

/-- Kinds of NAND bus operation (R540, 16_observation.md). -/
inductive NandKind where
  | read | program | erase | reset
deriving DecidableEq, Repr

/-- The commands that the Crucible issues on the NAND bus, and no others (R382, 11_crucible_store.md). -/
inductive NandCommand where
  | reset | readId | readParameterPage | setFeatures | getFeatures | readStatus | readStatusEnhanced | read | changeReadColumnEnhanced | pageProgram | blockErase
deriving DecidableEq, Repr

/-- One CE's ONFI parameter page and READ ID (R378). -/
structure Geometry where
  onfiOk : Bool
  maxMode : Nat
  bitsPerCell : Nat
  pageBytes : Nat
  spareBytes : Nat
  pagesPerBlock : Nat
  blocks : Nat
  luns : Nat
  eccBits : Nat
  tProgUs : Nat
  tResetUs : Nat
  tReadUs : Nat
  tEraseUs : Nat
  featuresOk : Bool
  factoryBad : List Nat
deriving DecidableEq, Repr

/-- `Geometry` at reset (INVENTORY.md, State). -/
def Geometry.reset : Geometry where
  onfiOk := true
  maxMode := 7
  bitsPerCell := 2
  pageBytes := 16384
  spareBytes := 2048
  pagesPerBlock := 512
  blocks := 15360
  luns := 1
  eccBits := 72
  tProgUs := 1100
  tResetUs := 500
  tReadUs := 100
  tEraseUs := 10000
  featuresOk := true
  factoryBad := []

/-- One entry of the slag table (R389, R400). -/
structure SlagEntry where
  block : Nat
  ce : Nat
  cause : Nat
deriving DecidableEq, Repr

/-- `SlagEntry` at reset (INVENTORY.md, State). -/
def SlagEntry.reset : SlagEntry where
  block := 0
  ce := 0
  cause := 0

/-- One rec's row of the index (R397). -/
structure RecEntry where
  recNo : Nat
  oldest : BitVec 32
  next : BitVec 32
  quota : Nat
  sid : BitVec 32
  ecc : BitVec 8
  bearer : BitVec 8
  scids : BitVec 8
  used : Nat
deriving DecidableEq, Repr

/-- `RecEntry` at reset (INVENTORY.md, State). -/
def RecEntry.reset : RecEntry where
  recNo := 0
  oldest := 0
  next := 0
  quota := 0
  sid := 0
  ecc := 0
  bearer := 0xFF
  scids := 0
  used := 0

/-- One record of the stream: a Billet or a gap (R391, R392). -/
structure StoredRec where
  recNo : Nat
  kind : Nat
  flags : BitVec 8
  seq : BitVec 32
  timestamp : Nat
  length : Nat
  bitrate : Nat
  unitCount : Nat
  unitBad : BitVec 8
  generation : BitVec 32
  cause : Nat
  payload : List (BitVec 8)
  offset : Nat
  origin : Nat
  block : Nat
  written : Bool
  entered : Nat
  stage : Nat
deriving DecidableEq, Repr

/-- `StoredRec` at reset (INVENTORY.md, State). -/
def StoredRec.reset : StoredRec where
  recNo := 0
  kind := 0
  flags := 0
  seq := 0
  timestamp := 0
  length := 0
  bitrate := 0
  unitCount := 0
  unitBad := 0
  generation := 0
  cause := 0
  payload := []
  offset := 0
  origin := 0
  block := 0
  written := false
  entered := 0
  stage := 0

/-- A checkpoint record (R397). -/
structure Checkpoint where
  stroke : Nat
  headSeq : Nat
  headPos : Nat
  tailPos : Nat
  recs : List RecEntry
  reloc : List (Nat × Nat)
  upTo : Nat
deriving DecidableEq, Repr

/-- `Checkpoint` at reset (INVENTORY.md, State). -/
def Checkpoint.reset : Checkpoint where
  stroke := 0
  headSeq := 0
  headPos := 0
  tailPos := 0
  recs := []
  reloc := []
  upTo := 0

/-- One block of the ring that has been opened (R394, R400, R404). -/
structure RingBlock where
  seq : Nat
  pos : Nat
  openTime : Nat
  used : Nat
  closed : Bool
  data : Nat
  checked : Bool
  failed : Bool
  weak : Bool
deriving DecidableEq, Repr

/-- `RingBlock` at reset (INVENTORY.md, State). -/
def RingBlock.reset : RingBlock where
  seq := 0
  pos := 0
  openTime := 0
  used := 0
  closed := false
  data := 0
  checked := false
  failed := false
  weak := false

/-- What the media holds of a formatted store (R388 to R398); it survives reset. -/
structure Volume where
  volumeId : List (BitVec 8)
  serial : BitVec 64
  keyCheck : List (BitVec 8)
  sysBlock : Nat
  sysPage : Nat
  sysSeq : Nat
  ceCount : Nat
  geometry : Geometry
  ringBlocks : Nat
  slag : List SlagEntry
  anchorSeq : Nat
  anchorPos : Nat
  blocks : List RingBlock
  nextSeq : Nat
  nextPos : Nat
  abandoned : List Nat
  retired : List Nat
  stream : List StoredRec
  committed : Option Checkpoint
deriving DecidableEq, Repr

/-- `Volume` at reset (INVENTORY.md, State). -/
def Volume.reset : Volume where
  volumeId := []
  serial := 0
  keyCheck := []
  sysBlock := 2
  sysPage := 0
  sysSeq := 0
  ceCount := 1
  geometry := Geometry.reset
  ringBlocks := 0
  slag := []
  anchorSeq := 0
  anchorPos := 0
  blocks := []
  nextSeq := 1
  nextPos := 0
  abandoned := []
  retired := []
  stream := []
  committed := none

/-- A page of a CE as its cells hold it (R383). -/
structure NandPage where
  ce : Nat
  block : Nat
  page : Nat
  main : List (BitVec 8)
  spare : List (BitVec 8)
deriving DecidableEq, Repr

/-- `NandPage` at reset (INVENTORY.md, State). -/
def NandPage.reset : NandPage where
  ce := 0
  block := 0
  page := 0
  main := []
  spare := []

/-- The NAND fitted to the board (R378); it survives reset. -/
structure Media where
  ce0 : Option Geometry
  ce1 : Option Geometry
  pages : List NandPage
deriving DecidableEq, Repr

/-- `Media` at reset (INVENTORY.md, State). -/
def Media.reset : Media where
  ce0 := none
  ce1 := none
  pages := []

/-- One record stream while the store is mounted (R406 to R410, R440). -/
structure Rec where
  recNo : Nat
  recording : Bool
  slot : Nat
  sid : BitVec 32
  ecc : BitVec 8
  bearer : BitVec 8
  scids : BitVec 8
  aac : Nat
  quota : Nat
  nextSeq : BitVec 32
  oldest : BitVec 32
  fromTick : Nat
  firstDue : Bool
  stopAt : Option Nat
  sourceUp : Bool
  lostSeen : Bool
  gaps : BitVec 32
  sourceBitrate : Nat
  policeKbps : Nat
  policeBurst : Nat
  tokens : Nat
  tokensAt : Nat
  dropping : Bool
  policedBillets : BitVec 32
  policedBytes : BitVec 32
deriving DecidableEq, Repr

/-- `Rec` at reset (INVENTORY.md, State). -/
def Rec.reset : Rec where
  recNo := 0
  recording := false
  slot := 0
  sid := 0
  ecc := 0
  bearer := 0xFF
  scids := 0
  aac := 0
  quota := 0
  nextSeq := 0
  oldest := 0
  fromTick := 0
  firstDue := true
  stopAt := none
  sourceUp := false
  lostSeen := false
  gaps := 0
  sourceBitrate := 0
  policeKbps := 0
  policeBurst := 32768
  tokens := 0
  tokensAt := 0
  dropping := false
  policedBillets := 0
  policedBytes := 0

/-- One playback cursor (R412 to R414). -/
structure Cursor where
  set : Bool
  recNo : Nat
  run : Bool
  position : Nat
  arrival : Nat
  clamped : Bool
  gap : Bool
  seek : Option CursorCfg
  ready : Bool
  spoiled : Bool
deriving DecidableEq, Repr

/-- `Cursor` at reset (INVENTORY.md, State). -/
def Cursor.reset : Cursor where
  set := false
  recNo := 0
  run := false
  position := 0
  arrival := 0
  clamped := false
  gap := false
  seek := none
  ready := false
  spoiled := false

/-- One export cursor (R415). -/
structure Export where
  running : Bool
  recNo : Nat
  start : Nat
  stop : Nat
  expired : Nat
  nextSeq : BitVec 32
  ending : Option (BitVec 16)
  ended : Bool
  buffer : List (BitVec 8)
  spoiled : Bool
deriving DecidableEq, Repr

/-- `Export` at reset (INVENTORY.md, State). -/
def Export.reset : Export where
  running := false
  recNo := 0
  start := 0
  stop := 0
  expired := 0
  nextSeq := 0
  ending := none
  ended := false
  buffer := []
  spoiled := false

/-- A packet that waits in a Dispatch queue (R428, R429). -/
structure Packet where
  length : Nat
  tag : Nat
  bytes : List (BitVec 8)
  ftype : Nat
  offset : Nat
  total : Nat
  retx : Bool
  seq : BitVec 16
  page : Nat
  ce : Nat
  first : Nat
  fetched : Option (List (List Nat))
deriving DecidableEq, Repr

/-- `Packet` at reset (INVENTORY.md, State). -/
def Packet.reset : Packet where
  length := 0
  tag := 0
  bytes := []
  ftype := 0
  offset := 0
  total := 0
  retx := false
  seq := 0
  page := 0
  ce := 0
  first := 0
  fetched := none

/-- A NAND operation on the bus or in an array (R380, R428). -/
structure NandOp where
  queue : Nat
  kind : NandKind
  packet : Packet
  startedAt : Nat
  commands : List NandCommand
deriving DecidableEq, Repr

/-- `NandOp` at reset (INVENTORY.md, State). -/
def NandOp.reset : NandOp where
  queue := 0
  kind := .read
  packet := Packet.reset
  startedAt := 0
  commands := []

/-- The housekeeping that NH reads for (R403 to R405, R423). -/
structure NhWork where
  kind : Nat
  block : Nat
  left : Nat
  lost : List Nat
  worst : Nat
deriving DecidableEq, Repr

/-- `NhWork` at reset (INVENTORY.md, State). -/
def NhWork.reset : NhWork where
  kind := 0
  block := 0
  left := 0
  lost := []
  worst := 0

/-- The Crucible (R377 to R425, 11_crucible_store.md). -/
structure Store where
  state : StoreState
  wpHigh : Bool
  keys : List (BitVec 8)
  features : List (Nat × Nat)
  maint : MaintCfg
  vol : Volume
  recs : List Rec
  cursors : Vector Cursor 8
  exports : Vector Export 2
  op : Option NandOp
  arrays : List NandOp
  tries : Nat
  stageNext : Nat
  expiring : List Nat
  erasing : List Nat
  ckpts : List Checkpoint
  ckptStroke : Option Nat
  reloc : List (Nat × Nat)
  relocLive : List Nat
  relocWait : List Nat
  checkQueue : List Nat
  readTable : List (Nat × Nat)
  nh : Option NhWork
  patrolPos : Nat
  patrolPass : Nat
  patrolDue : Nat
  quenching : Bool
  unmounting : Bool
  entered : List (Nat × Nat)
  overBudget : Bool
  expired : List (Nat × Nat)
  bootWriting : Bool
  correctedBits : BitVec 32
  uncorrectable : BitVec 32
  programFails : BitVec 32
  eraseFails : BitVec 32
  scrubDeferred : BitVec 32
  late : BitVec 32
  quenchCount : BitVec 32
deriving DecidableEq, Repr

/-- `Store` at reset (INVENTORY.md, State). -/
def Store.reset : Store where
  state := .unmounted
  wpHigh := false
  keys := []
  features := []
  maint := MaintCfg.reset
  vol := Volume.reset
  recs := []
  cursors := Vector.replicate 8 Cursor.reset
  exports := Vector.replicate 2 Export.reset
  op := none
  arrays := []
  tries := 0
  stageNext := 1
  expiring := []
  erasing := []
  ckpts := []
  ckptStroke := none
  reloc := []
  relocLive := []
  relocWait := []
  checkQueue := []
  readTable := []
  nh := none
  patrolPos := 0
  patrolPass := 0
  patrolDue := 0
  quenching := false
  unmounting := false
  entered := []
  overBudget := false
  expired := []
  bootWriting := false
  correctedBits := 0
  uncorrectable := 0
  programFails := 0
  eraseFails := 0
  scrubDeferred := 0
  late := 0
  quenchCount := 0

/-- One Dispatch queue (R426 to R433, R446). -/
structure DQueue where
  active : Bool
  rate : Nat
  burst : Nat
  overhead : Nat
  credit : Int
  sending : Bool
  items : List Packet
  sent : BitVec 64
  grants : BitVec 32
  drops : BitVec 32
  stallMs : BitVec 32
deriving DecidableEq, Repr

/-- `DQueue` at reset (INVENTORY.md, State). -/
def DQueue.reset : DQueue where
  active := false
  rate := 0
  burst := 0
  overhead := 0
  credit := 0
  sending := false
  items := []
  sent := 0
  grants := 0
  drops := 0
  stallMs := 0

/-- The queue ids of R426, in table order. -/
def queueIds : List Nat :=
  [0x00] ++ (List.range 8).map (0x10 + ·) ++ [0x18, 0x19, 0x1F, 0x20] ++ (List.range 48).map (0x30 + ·)
    ++ [0x60, 0x61] ++ (List.range 4).map (0x70 + ·)

/-- A shaped queue of the NAND egress at reset (R430). -/
def DQueue.nand : DQueue := { DQueue.reset with burst := 16384, overhead := 64 }
/-- A shaped queue of the link at reset (R430). -/
def DQueue.link : DQueue := { DQueue.reset with burst := 2048, overhead := 24 }
/-- A queue of the host side at reset (R430). -/
def DQueue.host : DQueue := { DQueue.reset with burst := 16384, overhead := 0 }

/-- The queue of an id of R426 at reset; NW and LC have no shaper parameters (R426). -/
def DQueue.ofId (id : Nat) : DQueue :=
  if id = 0x00 ∨ id = 0x20 then DQueue.reset
  else if id < 0x20 then DQueue.nand
  else if id < 0x70 then DQueue.link
  else DQueue.host

/-- The 67 queues of R426 at reset, each with its id. -/
def initialQueues : List (Nat × DQueue) := queueIds.map fun id => (id, DQueue.ofId id)

/-- Dispatch (R426 to R446, 12_dispatch.md). -/
structure DispatchUnit where
  queues : List (Nat × DQueue)
  lastNand : List (Nat × Nat)
  lastLink : List (Nat × Nat)
  lastHost : List (Nat × Nat)
  accruedTo : Nat
deriving DecidableEq, Repr

/-- `DispatchUnit` at reset (INVENTORY.md, State). -/
def DispatchUnit.reset : DispatchUnit where
  queues := initialQueues
  lastNand := []
  lastLink := []
  lastHost := []
  accruedTo := 0

/-- A control frame sent and not yet acknowledged (R497). -/
structure CtrlFrame where
  seq : BitVec 16
  sentSf : Nat
  packet : Packet
deriving DecidableEq, Repr

/-- `CtrlFrame` at reset (INVENTORY.md, State). -/
def CtrlFrame.reset : CtrlFrame where
  seq := 0
  sentSf := 0
  packet := Packet.reset

/-- A bit-swap in one direction (R456, R501). -/
structure Swap where
  table : List Nat
  atSf : Nat
  acked : Bool
deriving DecidableEq, Repr

/-- `Swap` at reset (INVENTORY.md, State). -/
def Swap.reset : Swap where
  table := []
  atSf := 0
  acked := false

/-- A message being joined from its segments (R496, R497). -/
structure Reassembly where
  stream : Nat
  joined : Nat
  total : Nat
  bytes : List (BitVec 8)
deriving DecidableEq, Repr

/-- `Reassembly` at reset (INVENTORY.md, State). -/
def Reassembly.reset : Reassembly where
  stream := 0
  joined := 0
  total := 0
  bytes := []

/-- A transaction part the remote holds (R505). -/
structure HeldPart where
  id : BitVec 32
  stroke : Nat
  cmds : List Cfg
deriving DecidableEq, Repr

/-- `HeldPart` at reset (INVENTORY.md, State). -/
def HeldPart.reset : HeldPart where
  id := 0
  stroke := 0
  cmds := []

/-- The AAC-LC encoder of one FM or AM slot of a remote (R499). -/
structure AacEnc where
  slot : Nat
  next : Nat
  kbps : Nat
  newKbps : Nat
  changeAt : Nat
  first : Bool
deriving DecidableEq, Repr

/-- `AacEnc` at reset (INVENTORY.md, State). -/
def AacEnc.reset : AacEnc where
  slot := 0
  next := 0
  kbps := 192
  newKbps := 192
  changeAt := 0
  first := true

/-- The records of the remote that the local answers with (R502, R503): each as its bytes after `stroke`. -/
structure Mirror where
  stroke : Nat
  slots : List (Nat × List (BitVec 8))
  inputs : List (Nat × List (BitVec 8))
  convs : List (Nat × List (BitVec 8))
  census : Option (List (BitVec 8))
deriving DecidableEq, Repr

/-- `Mirror` at reset (INVENTORY.md, State). -/
def Mirror.reset : Mirror where
  stroke := 0
  slots := []
  inputs := []
  convs := []
  census := none

/-- The pairing of a HANDSHAKE (R143, R144, 03_startup_power_identity.md). -/
structure Pairing where
  ownNonce : List (BitVec 8)
  farNonce : List (BitVec 8)
  farKey : Nat × Nat
  certOk : Bool
  sigOk : Bool
  farOk : Bool
  farHalf : Bool
  outbox : List BurstPayload
deriving DecidableEq, Repr

/-- `Pairing` at reset (INVENTORY.md, State). -/
def Pairing.reset : Pairing where
  ownNonce := []
  farNonce := []
  farKey := (0, 0)
  certOk := false
  sigOk := false
  farOk := false
  farHalf := false
  outbox := []

/-- The link layer (R487 to R510, 14_split_operation.md). -/
structure Link where
  state : LinkState
  cfg : LinkCfg
  lastReason : Nat
  since : Nat
  sfCount : Nat
  remoteSerial : BitVec 64
  downCtl : Nat
  downStream : Nat
  downBulk : Nat
  upCtl : Nat
  upBulk : Nat
  winLeft : Vector Nat 3
  runAt : Option Nat
  hdLocal : Nat
  hdRemote : Nat
  syncFails : Nat
  syncLost : Bool
  ctlSeqTx : BitVec 16
  ctlSeqRx : BitVec 16
  unacked : List CtrlFrame
  rx : List Reassembly
  swapTx : Option Swap
  swapRx : Option Swap
  parts : List HeldPart
  mirror : Mirror
  fillLast : Option (List (Nat × Nat))
  streamSeq : List (Nat × BitVec 16)
  pair : Pairing
  wantsImage : Bool
  imageAt : Option Nat
  lastTx : List (BitVec 8)
  resync : Bool
  returning : List (Nat × SlotState)
  returnAt : Nat
  rdsHeld : Option (Bool × Nat)
  framesLost : BitVec 32
  retransmissions : BitVec 32
  mirrorLate : BitVec 32
  bitswaps : BitVec 32
  outages : BitVec 32
  feed : FeedCfg
  outageDue : Option Nat
  remoteStage : BitVec 8
  mirroring : Bool
  lcOut : List Packet
  lbOut : List Packet
  cancels : List (BitVec 32 × Nat)
  aac : List AacEnc
  aacRates : List (Nat × Nat)
  ratesTold : Option (List (Nat × Nat))
  bundles : List (List (BitVec 8))
  resyncIn : List (List (BitVec 8))
  partsIn : List (List (BitVec 8))
  imageIn : Option (List (BitVec 8))
  stageReported : BitVec 8
deriving DecidableEq, Repr

/-- `Link` at reset (INVENTORY.md, State). -/
def Link.reset : Link where
  state := .off
  cfg := LinkCfg.reset
  lastReason := 0
  since := 0
  sfCount := 0
  remoteSerial := 0
  downCtl := 0
  downStream := 0
  downBulk := 0
  upCtl := 0
  upBulk := 0
  winLeft := Vector.replicate 3 0
  runAt := none
  hdLocal := 0
  hdRemote := 0
  syncFails := 0
  syncLost := false
  ctlSeqTx := 0
  ctlSeqRx := 0
  unacked := []
  rx := []
  swapTx := none
  swapRx := none
  parts := []
  mirror := Mirror.reset
  fillLast := none
  streamSeq := []
  pair := Pairing.reset
  wantsImage := false
  imageAt := none
  lastTx := []
  resync := false
  returning := []
  returnAt := 0
  rdsHeld := none
  framesLost := 0
  retransmissions := 0
  mirrorLate := 0
  bitswaps := 0
  outages := 0
  feed := FeedCfg.reset
  outageDue := none
  remoteStage := 0
  mirroring := false
  lcOut := []
  lbOut := []
  cancels := []
  aac := []
  aacRates := []
  ratesTold := none
  bundles := []
  resyncIn := []
  partsIn := []
  imageIn := none
  stageReported := 0

/-- The link PHY (R448 to R486, 13_link_phy.md). -/
structure Phy where
  cfg : PhyCfg
  remoteCfg : PhyCfg
  pending : Option PhyCfg
  synth : SynthState
  synthSince : Nat
  half : Bool
  powerNow : Nat
  beaconsSent : Nat
  targetIndex : Nat
  cableDelayNs : Option Nat
  rxLevel : Option Int
  bTx : List Nat
  bRx : List Nat
  snr : List Nat
  measured : Nat
  lowRuns : List Nat
  tonePower : List (List (Nat × Nat))
  fir : List Int
  toneCoeffs : List Cplx
  quietNoise : List Int
  residual : List Int
  trainSf : Nat
  trainRx : Nat
  phaseErr : Option Int
  txFill : Vector (List (BitVec 8)) 3
  txPayload : List (BitVec 8)
  rxWords : List (Option (List (BitVec 8)))
  rxAt : Nat
  sentPayload : List (BitVec 8)
  echo : EchoPhase
  echoSfs : Nat
  echoOk : Nat
  echoLimited : Nat
  farEchoLimited : Nat
  armed : Bool
  reception : Option Int
  commitPeak : Int
  commitEnd : Nat
  burstSeq : BitVec 16
  answerDue : Option (Nat × Nat × Nat)
  sentHeader : List (BitVec 8)
  txHeld : Option Nat
  txUntil : Nat
  nextTx : List Nat
  nextRx : List Nat
  fracPpb : Int
  fracHeld : Bool
  txHeldUs : Nat
  rsCorrected : BitVec 32
  rsFailed : BitVec 32
  syncFailed : BitVec 32
  preambleFalse : BitVec 32
  captureRestarts : BitVec 32
  captureLost : BitVec 32
  foreignBursts : BitVec 32
  txNotLocked : BitVec 32
  txAborted : BitVec 32
deriving DecidableEq, Repr

/-- `Phy` at reset (INVENTORY.md, State). -/
def Phy.reset : Phy where
  cfg := PhyCfg.reset
  remoteCfg := PhyCfg.reset
  pending := none
  synth := .off
  synthSince := 0
  half := false
  powerNow := 15
  beaconsSent := 0
  targetIndex := 5
  cableDelayNs := none
  rxLevel := none
  bTx := List.replicate 102 0
  bRx := List.replicate 102 0
  snr := List.replicate 102 0
  measured := 0
  lowRuns := List.replicate 102 0
  tonePower := []
  fir := List.replicate 96 0
  toneCoeffs := List.replicate 102 ⟨0, 0⟩
  quietNoise := []
  residual := []
  trainSf := 0
  trainRx := 0
  phaseErr := none
  txFill := Vector.replicate 3 []
  txPayload := []
  rxWords := []
  rxAt := 0
  sentPayload := []
  echo := .quiet
  echoSfs := 0
  echoOk := 0
  echoLimited := 0
  farEchoLimited := 0
  armed := false
  reception := none
  commitPeak := 0
  commitEnd := 0
  burstSeq := 0
  answerDue := none
  sentHeader := []
  txHeld := none
  txUntil := 0
  nextTx := []
  nextRx := []
  fracPpb := 0
  fracHeld := false
  txHeldUs := 0
  rsCorrected := 0
  rsFailed := 0
  syncFailed := 0
  preambleFalse := 0
  captureRestarts := 0
  captureLost := 0
  foreignBursts := 0
  txNotLocked := 0
  txAborted := 0

/-- The aux transfer in progress (R526 to R529). -/
structure AuxXfer where
  ch : Fin 4
  addr : Nat
  segs : List (Bool × Nat)
  data : List (BitVec 8)
  started : Bool
  attemptsLeft : Nat
  waitFrom : Nat
  written : Nat
  readBytes : List (BitVec 8)
  nackAt : Option Nat
  arbLost : Nat
  arbBit : Option Nat
  arbByte : Option Nat
  cause : Nat
  phase : AuxPhase
deriving DecidableEq, Repr

/-- `AuxXfer` at reset (INVENTORY.md, State). -/
def AuxXfer.reset : AuxXfer where
  ch := 0
  addr := 0
  segs := []
  data := []
  started := false
  attemptsLeft := 0
  waitFrom := 0
  written := 0
  readBytes := []
  nackAt := none
  arbLost := 0
  arbBit := none
  arbByte := none
  cause := 0
  phase := .waitBus

/-- The aux bus controller (R512 to R530, 15_aux_bus_gpio.md). -/
structure Aux where
  regs : AuxRegs
  pending : Option AuxRegs
  xfer : Option AuxXfer
  busBusy : Bool
  lastStop : Option Nat
  clearFailing : Bool
  clearRunning : Bool
  afterTimeout : Bool
  transfers : BitVec 32
  nacks : BitVec 32
  arbLosses : BitVec 32
  startInAck : BitVec 32
  sclTimeouts : BitVec 32
  sdaTimeouts : BitVec 32
  busClears : BitVec 32
deriving DecidableEq, Repr

/-- `Aux` at reset (INVENTORY.md, State). -/
def Aux.reset : Aux where
  regs := AuxRegs.reset
  pending := none
  xfer := none
  busBusy := false
  lastStop := none
  clearFailing := false
  clearRunning := false
  afterTimeout := false
  transfers := 0
  nacks := 0
  arbLosses := 0
  startInAck := 0
  sclTimeouts := 0
  sdaTimeouts := 0
  busClears := 0

/-- One GPIO (R531 to R536). -/
structure Gpio where
  cfg : GpioCfg
  function : Nat
  pin : Bool
  driven : Option Bool
  taken : Bool
  candidate : Option (Bool × Nat)
  edges : Nat
  firstEdge : Nat
deriving DecidableEq, Repr

/-- `Gpio` at reset (INVENTORY.md, State). -/
def Gpio.reset : Gpio where
  cfg := GpioCfg.reset
  function := 0
  pin := false
  driven := none
  taken := false
  candidate := none
  edges := 0
  firstEdge := 0

/-- The trace port (R537 to R545, 16_observation.md). -/
structure Trace where
  cfg : TraceCfg
  queue : List (List (BitVec 32))
  headSent : Nat
  dropped : Nat
  restartAt : Option Nat
  clockFrom : Nat
  wordsDone : Nat
  word : BitVec 32
  own : List (BitVec 32)
  happened : List (Nat × List (BitVec 32))
deriving DecidableEq, Repr

/-- `Trace` at reset (INVENTORY.md, State). -/
def Trace.reset : Trace where
  cfg := TraceCfg.reset
  queue := []
  headSent := 0
  dropped := 0
  restartAt := none
  clockFrom := 0
  wordsDone := 0
  word := 0xFFFFFFFF
  own := []
  happened := []

/-- What an ACTIVE channel waits for (R86, R94, R560). -/
inductive LongOp where
  /-- `BOOT_END`: the ROM authenticates the image (R118, R124). -/
  | bootEnd
  /-- `TEMPER_LEVEL_TRACE` of a converter: point, frequency in kHz, reference level in 0.01 dBm, and the
  epoch boundaries to come, none once the input has been disabled (R204). -/
  | levelTrace (conv : Fin 3) (point freqKhz : Nat) (level : Int) (left : Option Nat)
  /-- `FOLLOW_SWITCH` of an output, with the stroke on which S0 evaluates it (R333). -/
  | followSwitch (out : Fin 8) (unaligned : Bool) (stroke : Nat)
  /-- `STORE_FORMAT` (R418, R419). -/
  | storeFormat
  /-- `STORE_MOUNT` with the drive and timing it was given (R381, R420). -/
  | storeMount (maxMode odt drive : Nat)
  /-- `STORE_BOOT_WRITE`: image length, and the bytes drained from the bulk window so far (R121, R416). -/
  | bootWrite (length : Nat) (image : List (BitVec 8))
  /-- `AUX_XFER` (R526, R527). -/
  | auxXfer
  /-- `ID_CHALLENGE` with its nonce (R142). -/
  | idChallenge (nonce : List (BitVec 8))
  /-- A commit whose remote part waits for its reply (R505), with its local commands. -/
  | splitCommit (id : BitVec 32) (stroke : Nat) (cmds : List Cfg)
  /-- A request that S0 has forwarded to the remote (R502). -/
  | forwarded (opcode : BitVec 16) (payload : List (BitVec 8))
deriving DecidableEq, Repr

/-- The operation of an ACTIVE channel, and whether its commit point has passed (R93, R560). -/
structure ActiveOp where
  op : LongOp
  committed : Bool
  since : Nat
deriving DecidableEq, Repr

/-- The ways a step of the block stops with a fault. No meaning of the model raises one: the spec gives every
command an effect, and a command that is not due in the state leaves it unchanged. -/
inductive Fault where
  /-- Raised by no meaning; it stands for a command whose operands no row of the table can carry. Safe. -/
  | illFormedCommand
deriving DecidableEq, Repr

/-- The ways a command is refused. -/
inductive Refusal where
  /-- Raised by `exec` for a command that has no meaning in the model yet, by its mnemonic. Safe. -/
  | notModelled (mnemonic : String)
deriving DecidableEq, Repr

/-- The status records latched at one stroke boundary (R49). -/
structure Latch where
  stroke : Nat
  inputs : Vector FeInput 3
  convs : Vector TemperConv 3
  slots : Vector Slot 48
  census : Census
  db : Db
  side : Side
  follow : Vector Follower 8
  outs : Vector Output 8
  ports : Vector Port 2
  store : Store
  dispatch : DispatchUnit
  link : Link
  phy : Phy
  aux : Aux
  gpio : Vector Gpio 8
  faults : List FaultRec
  faultsLost : Nat
deriving DecidableEq, Repr

/-- `Latch` at reset (INVENTORY.md, State). -/
def Latch.reset : Latch where
  stroke := 0
  inputs := #v[FeInput.reset, FeInput.reset, FeInput.hfReset]
  convs := #v[TemperConv.reset, TemperConv.reset, TemperConv.hfReset]
  slots := Vector.replicate 48 Slot.reset
  census := Census.reset
  db := Db.reset
  side := Side.reset
  follow := Vector.replicate 8 Follower.reset
  outs := Vector.replicate 8 Output.reset
  ports := Vector.replicate 2 Port.reset
  store := Store.reset
  dispatch := DispatchUnit.reset
  link := Link.reset
  phy := Phy.reset
  aux := Aux.reset
  gpio := Vector.replicate 8 Gpio.reset
  faults := []
  faultsLost := 0

/-- Entries that stand in the dual-clock queues of R22 between two steps of the block; AUDQ, HOSTQ_W and TRCQ
stand with their owners. -/
structure CrossQueues where
  binqV0 : Nat
  binqV1 : Nat
  binqH : Nat
  anqWrite : Vector Nat 16
  anqRead : Vector Nat 16
  nandqW : Nat
  nandqR : Nat
  linkqT : Nat
  linkqR : Nat
  hostqM : Nat
deriving DecidableEq, Repr

/-- `CrossQueues` at reset (INVENTORY.md, State). -/
def CrossQueues.reset : CrossQueues where
  binqV0 := 0
  binqV1 := 0
  binqH := 0
  anqWrite := Vector.replicate 16 0
  anqRead := Vector.replicate 16 0
  nandqW := 0
  nandqR := 0
  linkqT := 0
  linkqR := 0
  hostqM := 0

/-- The whole device. -/
structure State where
  now : Nat
  pd1 : Bool
  pins : Pins
  otp : Otp
  rom : Rom
  host : HostPort
  mem : List Host.Cell
  bulk : BulkWin
  chan : Vector ChanState 4
  abortPending : BitVec 4
  ringOrder : List (Fin 4)
  ops : Vector (Option ActiveOp) 4
  txns : Vector (Option OpenTxn) 4
  nextTxn : BitVec 32
  accepted : List AcceptedTxn
  history : List TxnResult
  faults : List FaultRec
  faultsLost : Nat
  evq : List Event
  evSeq : BitVec 32
  resetAt : Option Nat
  boot : Boot
  power : Power
  counters : CounterLatch
  counterLatch : CounterLatch
  inputs : Vector FeInput 3
  convs : Vector TemperConv 3
  slots : Vector Slot 48
  side : Side
  db : Db
  census : Census
  follow : Vector Follower 8
  outs : Vector Output 8
  ports : Vector Port 2
  audio : Vector AudioPath 8
  media : Media
  store : Store
  dispatch : DispatchUnit
  link : Link
  phy : Phy
  aux : Aux
  gpio : Vector Gpio 8
  trace : Trace
  latch : Latch
  xq : CrossQueues
  freeNext : Nat
  pending : List Instr
deriving DecidableEq, Repr

/-- `State` at reset (INVENTORY.md, State). -/
def State.reset : State where
  now := 0
  pd1 := false
  pins := Pins.reset
  otp := Otp.reset
  rom := Rom.reset
  host := HostPort.reset
  mem := []
  bulk := BulkWin.reset
  chan := #v[.idle, .disabled, .disabled, .disabled]
  abortPending := 0
  ringOrder := []
  ops := Vector.replicate 4 none
  txns := Vector.replicate 4 none
  nextTxn := 1
  accepted := []
  history := []
  faults := []
  faultsLost := 0
  evq := []
  evSeq := 0
  resetAt := none
  boot := Boot.reset
  power := Power.reset
  counters := CounterLatch.reset
  counterLatch := CounterLatch.reset
  inputs := #v[FeInput.reset, FeInput.reset, FeInput.hfReset]
  convs := #v[TemperConv.reset, TemperConv.reset, TemperConv.hfReset]
  slots := Vector.replicate 48 Slot.reset
  side := Side.reset
  db := Db.reset
  census := Census.reset
  follow := Vector.replicate 8 Follower.reset
  outs := Vector.replicate 8 Output.reset
  ports := Vector.replicate 2 Port.reset
  audio := Vector.replicate 8 AudioPath.reset
  media := Media.reset
  store := Store.reset
  dispatch := DispatchUnit.reset
  link := Link.reset
  phy := Phy.reset
  aux := Aux.reset
  gpio := Vector.replicate 8 Gpio.reset
  trace := Trace.reset
  latch := Latch.reset
  xq := CrossQueues.reset
  freeNext := 0
  pending := []

end Sys2Proof.Machine
end

