-- ==== Sys2Proof/Machine/Ops.lean ====
section
/-! DEFINITION. The named operations every family uses: bytes and numbers, the window memory, device time and
strokes, events, and the small updates of vectors and lists. -/

namespace Sys2Proof.Machine

/-- What a command answers. -/
abbrev Out := Host.Outcome State Fault Refusal

/-! ### Bytes and numbers (R12, R591) -/

/-- The `k` bytes of a number, little-endian (R12). -/
def leBytes : Nat → Nat → List Byte
  | 0, _ => []
  | k + 1, n => BitVec.ofNat 8 n :: leBytes k (n / 256)

def u8 (n : Nat) : List Byte := leBytes 1 n
def u16 (n : Nat) : List Byte := leBytes 2 n
def u32 (n : Nat) : List Byte := leBytes 4 n
def u64 (n : Nat) : List Byte := leBytes 8 n
/-- A two's-complement number of `k` bytes. -/
def sBytes (k : Nat) (i : Int) : List Byte := leBytes k (i % (256 ^ k : Nat)).toNat
def s8 (i : Int) : List Byte := sBytes 1 i
def s16 (i : Int) : List Byte := sBytes 2 i
def s32 (i : Int) : List Byte := sBytes 4 i
/-- A Bool as one byte. -/
def uBool (b : Bool) : List Byte := u8 (if b then 1 else 0)
/-- A value or the sentinel of its width (R591). -/
def opt8 (o : Option Nat) : List Byte := u8 (o.getD 0xFF)
def opt16 (o : Option Nat) : List Byte := u16 (o.getD 0xFFFF)
def opt32 (o : Option Nat) : List Byte := u32 (o.getD 0xFFFFFFFF)
def opt64 (o : Option Nat) : List Byte := u64 (o.getD 0xFFFFFFFFFFFFFFFF)
def optS16 (o : Option Int) : List Byte := s16 (o.getD (-32768))
def optS32 (o : Option Int) : List Byte := s32 (o.getD (-2147483648))
/-- `k` zero bytes (reserved, R13). -/
def zeros (k : Nat) : List Byte := List.replicate k 0

/-- The number that little-endian bytes spell (R12). -/
def leNat : List Byte → Nat
  | [] => 0
  | b :: bs => b.toNat + 256 * leNat bs

/-- `k` bytes at an offset of a payload, as an unsigned number. -/
def getU (k off : Nat) (p : List Byte) : Nat := leNat ((p.drop off).take k)
/-- `k` bytes at an offset of a payload, as a signed number. -/
def getS (k off : Nat) (p : List Byte) : Int :=
  let n := getU k off p
  if n < 256 ^ k / 2 then n else (n : Int) - (256 ^ k : Nat)
/-- Whether `k` bytes from an offset are all zero (R13). -/
def zeroAt (k off : Nat) (p : List Byte) : Bool := getU k off p == 0

/-- A number held to a range. -/
def clampNat (lo hi n : Nat) : Nat := max lo (min hi n)
def clampInt (lo hi n : Int) : Int := max lo (min hi n)
/-- Division rounded up. -/
def ceilDiv (a b : Nat) : Nat := (a + b - 1) / b

/-- The index a number names, if it lies in the range. -/
def finOf (n k : Nat) : Option (Fin n) := if h : k < n then some ⟨k, h⟩ else none

/-- The four bytes of a word, little-endian (R65). -/
def wordBytes (w : Word) : List Byte := leBytes 4 w.toNat
/-- The word of four bytes. -/
def bytesWord (bs : List Byte) : Word := BitVec.ofNat 32 (leNat bs)

/-! ### Vectors and lists -/

/-- One element of a vector replaced by a function of it. -/
def vmod {α : Type} {n : Nat} (v : Vector α n) (i : Fin n) (f : α → α) : Vector α n := v.set i (f v[i])

/-- The elements of a vector with their indices. -/
def indexed {α : Type} {n : Nat} (v : Vector α n) : List (Fin n × α) :=
  (List.finRange n).map fun i => (i, v[i])

/-- A bounded append: the newest `k` of a list that grows at its end. -/
def keepLast {α : Type} (k : Nat) (l : List α) : List α := l.drop (l.length - k)

/-- Insertion by a key order (used to post events in order, R56). -/
def insertBy {α : Type} (le : α → α → Bool) (x : α) : List α → List α
  | [] => [x]
  | y :: ys => if le x y then x :: y :: ys else y :: insertBy le x ys

/-- A stable sort by insertion. -/
def sortBy {α : Type} (le : α → α → Bool) : List α → List α
  | [] => []
  | x :: xs => insertBy le x (sortBy le xs)

/-- Replaces the first element that matches, or appends. -/
def upsert {α : Type} (same : α → Bool) (x : α) : List α → List α
  | [] => [x]
  | y :: ys => if same y then x :: ys else y :: upsert same x ys

/-- A wrapping counter stepped by a number. -/
def bump {w : Nat} (c : BitVec w) (n : Nat) : BitVec w := c + BitVec.ofNat w n

/-! ### The window memory (canonical list of cells; unlisted bytes read 0, log entry 5) -/

/-- One byte of the window memory. -/
def memRead (m : List Host.Cell) (a : Nat) : Byte :=
  match m.find? (fun c => c.1 == a) with
  | some c => c.2
  | none => 0

/-- The cells of a run of bytes from an address; a zero byte lists no cell. -/
def cellsOf : Nat → List Byte → List Host.Cell
  | _, [] => []
  | a, b :: bs => if b = 0 then cellsOf (a + 1) bs else (a, b) :: cellsOf (a + 1) bs

/-- The window memory with a run of bytes written from an address. -/
def memWrite (m : List Host.Cell) (a : Nat) (bs : List Byte) : List Host.Cell :=
  m.filter (fun c => c.1 < a) ++ cellsOf a bs ++ m.filter (fun c => a + bs.length ≤ c.1)

/-- `k` bytes of the window memory from an address. -/
def memBytes (m : List Host.Cell) (a k : Nat) : List Byte :=
  (List.range k).map fun i => memRead m (a + i)

/-- The canonical form: addresses rise strictly and no listed byte is 0. -/
def memWf (m : List Host.Cell) : Bool :=
  decide (m.Pairwise (fun x y => x.1 < y.1)) && m.all (fun c => c.2 != 0)

/-! ### Device time and strokes (R27, R28) -/

/-- Ticks of one stroke (R28). -/
def strokeTicks : Nat := 24576
/-- Ticks of one microsecond times 1000: device time of a count of nanoseconds, rounded up. -/
def ticksOfMs (ms : Nat) : Nat := ms * 24576
/-- The stroke number of a device time (R28). -/
def strokeOf (t : Nat) : Nat := t / 24576
/-- The first boundary at or after a device time, as a stroke number. -/
def strokeFrom (t : Nat) : Nat := ceilDiv t 24576
/-- The stroke the device is in. -/
def curStroke (s : State) : Nat := strokeOf s.now
/-- The apply stroke of a transaction accepted now: the first boundary at least 6,144 ticks later (R46). -/
def applyStrokeFrom (now : Nat) : Nat := strokeFrom (now + 6144)

/-- The boundary at which a status read first observes a change made now (R55): the next one to be latched. -/
def stampOf (s : State) : Nat := max (strokeFrom s.now) (s.latch.stroke + 1) * 24576

/-! ### Interrupts and error flags of the hardware registers (R83, R84) -/

/-- Sets bits of `IRQ_STATUS`. -/
def raiseIrq (s : State) (bits : BitVec 10) : State :=
  { s with host := { s.host with irqStatus := s.host.irqStatus ||| bits } }

def irqEvt : BitVec 10 := 0x010
def irqEvtOverflow : BitVec 10 := 0x020
def irqBoot : BitVec 10 := 0x040
def irqI2cError : BitVec 10 := 0x080
def irqWrError : BitVec 10 := 0x100
def irqFault : BitVec 10 := 0x200

/-- `write_rejected`, with `wr_error` when it rises (R83). -/
def setWriteRejected (s : State) : State :=
  let s1 := if s.host.writeRejected then s else raiseIrq s irqWrError
  { s1 with host := { s1.host with writeRejected := true } }
/-- `wr_dropped`, with `wr_error` when it rises (R83). -/
def setWrDropped (s : State) : State :=
  let s1 := if s.host.wrDropped then s else raiseIrq s irqWrError
  { s1 with host := { s1.host with wrDropped := true } }
/-- `partial_word`, with `wr_error` when it rises (R83). -/
def setPartialWord (s : State) : State :=
  let s1 := if s.host.partialWord then s else raiseIrq s irqWrError
  { s1 with host := { s1.host with partialWord := true } }
/-- `addr_error`, with `wr_error` when it rises (R83). -/
def setAddrError (s : State) : State :=
  let s1 := if s.host.addrError then s else raiseIrq s irqWrError
  { s1 with host := { s1.host with addrError := true } }
/-- `rstart_in_ack`, with `i2c_error` when it rises (R83). -/
def setRstartInAck (s : State) : State :=
  let s1 := if s.host.rstartInAck then s else raiseIrq s irqI2cError
  { s1 with host := { s1.host with rstartInAck := true } }
/-- `scl_timeout`, with `i2c_error` when it rises (R83). -/
def setSclTimeout (s : State) : State :=
  let s1 := if s.host.sclTimeout then s else raiseIrq s irqI2cError
  { s1 with host := { s1.host with sclTimeout := true } }
/-- `sda_timeout`, with `i2c_error` when it rises (R83). -/
def setSdaTimeout (s : State) : State :=
  let s1 := if s.host.sdaTimeout then s else raiseIrq s irqI2cError
  { s1 with host := { s1.host with sdaTimeout := true } }

/-- `fw_stage` takes a new value; a change sets `boot` (R83). -/
def setFwStage (s : State) (v : Byte) : State :=
  let s1 := if s.host.fwStage = v then s else raiseIrq s irqBoot
  { s1 with host := { s1.host with fwStage := v } }

/-! ### Events and faults (R54 to R56, R101 to R103, R562, R565) -/

/-- An event waits for posting, with the boundary it reports as its timestamp (R55). -/
def queueEventAt (s : State) (ts code object : Nat) (payload : List Byte) : State :=
  { s with evq := s.evq ++ [⟨BitVec.ofNat 16 code, BitVec.ofNat 16 object, ts, payload ++ zeros (16 - payload.length)⟩] }

/-- An event that reports a change made now. -/
def queueEvent (s : State) (code object : Nat) (payload : List Byte) : State :=
  queueEventAt s (stampOf s) code object payload

/-- The bytes of an event entry (R101). -/
def entryBytes (e : Event) (seq : Word) : List Byte :=
  u16 e.code.toNat ++ u16 e.object.toNat ++ u32 seq.toNat ++ u64 e.timestamp ++ (e.payload ++ zeros 16).take 16

/-- The event codes of R565. -/
def evLinkState : Nat := 1
def evFrontEnd : Nat := 2
def evTemperDone : Nat := 3
def evFault : Nat := 4
def evDbGeneration : Nat := 5
def evSlotState : Nat := 6
def evStoreState : Nat := 7
def evStoreExpired : Nat := 8
def evFollowState : Nat := 9
def evFollowSwitch : Nat := 10
def evPortState : Nat := 11
def evOutputState : Nat := 12
def evGpio : Nat := 13

/-! ### What the trace port reports (R539, R540, R543) -/

/-- A header word (R539). -/
def traceHeader (type count now : Nat) : Word :=
  BitVec.ofNat 32 (type * 2 ^ 28 + count * 2 ^ 24 + now % 2 ^ 24)

/-- A packet passes the filters (R543): its type, the level of an FW packet, and the slot of an EVENT or STATE packet. -/
def traceWanted (c : TraceCfg) (ws : List Word) : Bool :=
  match ws with
  | [] => false
  | h :: rest =>
    let type := h.toNat / 2 ^ 28
    let w := (rest.headD 0).toNat
    let slotOk (k : Nat) : Bool := c.slotMask.getLsbD k
    let slotEvent := type == 2 && w / 65536 == evSlotState
    let slotState := type == 3 && w / 16777216 == 0
    c.typeMask.getLsbD type && (type != 4 || w / 2 ^ 29 ≤ c.fwLevel)
      && (!slotEvent || slotOk (w % 65536)) && (!slotState || slotOk (w / 65536 % 256))

/-- A happening at a device time makes a packet of a type, while the port is enabled and the filters let it pass (R539, R543). -/
def noteTrace (time type : Nat) (payload : List Word) (s : State) : State :=
  let ws := traceHeader type payload.length time :: payload
  { s with trace := { s.trace with happened :=
      if s.trace.cfg.enable && traceWanted s.trace.cfg ws then s.trace.happened ++ [(time, ws)] else s.trace.happened } }

/-- A word of four bytes, the first the most significant. -/
def traceWord (a b c d : Nat) : Word := BitVec.ofNat 32 (a % 256 * 2 ^ 24 + b % 256 * 2 ^ 16 + c % 256 * 2 ^ 8 + d % 256)

/-- A STATE packet (R540): class, object, old state and new state; none where the state stays. -/
def noteState (time cls obj old new : Nat) (s : State) : State :=
  { s with trace := if old = new then s.trace else (noteTrace time 3 [traceWord cls obj old new] s).trace }

/-- Posts one event: a full ring loses it, its `seq` is consumed, and `evt_overflow` is set (R103); otherwise the
entry is written whole and `head` advances (R102), and an EVENT packet reports it (R540). `events_posted` counts the sequence
numbers consumed (R546). -/
def postEvent (s : State) (e : Event) : State :=
  if (s.host.evtHead - s.host.evtTail) = 64 then
    let s1 := raiseIrq s irqEvtOverflow
    { s1 with
      evSeq := s1.evSeq + 1
      counters := { s1.counters with
        eventsPosted := bump s1.counters.eventsPosted 1, eventsLost := bump s1.counters.eventsLost 1 } }
  else
    let s1 := noteTrace s.now 2 [BitVec.ofNat 32 (e.code.toNat * 65536 + e.object.toNat), BitVec.ofNat 32 s.evSeq.toNat] (raiseIrq s irqEvt)
    { s1 with
      mem := memWrite s1.mem (0x2000 + 32 * (s1.host.evtHead.toNat % 64)) (entryBytes e s1.evSeq)
      host := { s1.host with evtHead := s1.host.evtHead + 1 }
      evSeq := s1.evSeq + 1
      counters := { s1.counters with eventsPosted := bump s1.counters.eventsPosted 1 } }

/-- The order of posting: by boundary, then code, then object (R56, R565). -/
def eventLe (a b : Event) : Bool :=
  if a.timestamp ≠ b.timestamp then a.timestamp < b.timestamp
  else if a.code ≠ b.code then a.code.toNat < b.code.toNat
  else a.object.toNat ≤ b.object.toNat

/-- Posts every waiting event whose boundary has been latched (R55, R56). -/
def postDueEvents (s : State) : State :=
  let b := s.latch.stroke * 24576
  let due := sortBy eventLe (s.evq.filter fun e => e.timestamp ≤ b)
  due.foldl postEvent { s with evq := s.evq.filter fun e => !(e.timestamp ≤ b) }


/-- A fault arises (R562): posted as `EV_FAULT` once; held while fewer than 8 are held, else `lost` steps;
`HW_STATUS.fault` rising sets the `fault` interrupt. -/
def raiseFault (s : State) (code object detail : Nat) : State :=
  let s1 := queueEvent s evFault object (u16 code ++ zeros 2 ++ u32 detail)
  if s1.faults.length < 8 then
    let s2 := if s1.faults.isEmpty then raiseIrq s1 irqFault else s1
    { s2 with faults := s2.faults ++ [⟨BitVec.ofNat 16 code, BitVec.ofNat 16 object, BitVec.ofNat 32 detail, stampOf s⟩] }
  else { s1 with faultsLost := min 255 (s1.faultsLost + 1) }

/-- `HW_STATUS.fault` (R562). -/
def faultHeld (s : State) : Bool := !s.faults.isEmpty

/-! ### Free values -/

end Sys2Proof.Machine
end

