-- ==== Sys2Proof/Machine/Codes.lean ====
section
/-! DEFINITION. The checksums and the hash that the spec names: CRC-32 of R197 and R496, CRC-16 of R470, and
SHA-256 of R123, R124 and R142 (FIPS 180-4, PRESUMED: the spec names the function and leaves its text to the
standard; notes/assumptions/13.md). -/

namespace Sys2Proof.Machine

/-- One bit of the reflected CRC-32 (R197). -/
def crc32Bit (c : Word) : Word := if c.getLsbD 0 then (c >>> 1) ^^^ 0xEDB88320 else c >>> 1

/-- One byte of the CRC-32 (R197). -/
def crc32Byte (c : Word) (b : Byte) : Word :=
  let c1 := c ^^^ b.zeroExtend 32
  crc32Bit (crc32Bit (crc32Bit (crc32Bit (crc32Bit (crc32Bit (crc32Bit (crc32Bit c1)))))))

/-- CRC-32 of a run of bytes (R197). -/
def crc32 (bs : List Byte) : Word := bs.foldl crc32Byte 0xFFFFFFFF ^^^ 0xFFFFFFFF

/-- One bit of the CRC-16 of polynomial 0x1021 (R470). -/
def crc16Bit (c : Half) : Half := if c.getLsbD 15 then (c <<< 1) ^^^ 0x1021 else c <<< 1

/-- One byte of the CRC-16 (R470). -/
def crc16Byte (c : Half) (b : Byte) : Half :=
  let c1 := c ^^^ (b.zeroExtend 16 <<< 8)
  crc16Bit (crc16Bit (crc16Bit (crc16Bit (crc16Bit (crc16Bit (crc16Bit (crc16Bit c1)))))))

/-- CRC-16 of a run of bytes, from 0xFFFF (R470). -/
def crc16 (bs : List Byte) : Half := bs.foldl crc16Byte 0xFFFF

/-! ### SHA-256

The standard defines its constants by what they are: the first 32 bits of the fractional parts of square and cube roots of
the first primes. They are computed here so, and a test compares the digest of the standard's example. -/

/-- The largest number, built from `bits` bits downwards, whose power `e` does not exceed `n`. -/
def rootBits (e n : Nat) : Nat → Nat → Nat
  | 0, r => r
  | b + 1, r => rootBits e n b (if (r + 2 ^ b) ^ e ≤ n then r + 2 ^ b else r)

/-- The first 32 bits of the fractional part of the root of degree `e` of a prime below 512. -/
def rootFraction (e p : Nat) : Word := BitVec.ofNat 32 (rootBits e (p * 2 ^ (32 * e)) 40 0)

/-- A number has no divisor from 2 up to itself. -/
def isPrime (n : Nat) : Bool := 2 ≤ n && (List.range n).all fun d => d < 2 || n % d != 0

/-- The first 64 primes. -/
def primes64 : List Nat := (List.range 312).filter isPrime

/-- The additive constant of each of the 64 rounds. -/
def roundWords : List Word := primes64.map (rootFraction 3)

/-- The chaining value before the first block: the newest word first in each half, as the rounds hold it. -/
def shaStart : List Word := (primes64.take 8).map (rootFraction 2)

/-- The exclusive or of a word rotated by each of a list of amounts. -/
def rotations (x : Word) (l : List Nat) : Word := l.foldl (fun acc k => acc ^^^ x.rotateRight k) 0

/-- A big-endian word of four bytes. -/
def beWord (bs : List Byte) : Word := BitVec.ofNat 32 (leNat bs.reverse)
/-- The four bytes of a word, big-endian. -/
def beBytes (w : Word) : List Byte := (leBytes 4 w.toNat).reverse
/-- `k` bytes of a number, big-endian. -/
def beNat (k n : Nat) : List Byte := (leBytes k n).reverse

/-- The message with its end mark, filled to whole blocks, its length in bits in the last 8 bytes. -/
def shaFill (bs : List Byte) : List Byte :=
  bs ++ [0x80] ++ zeros ((119 - bs.length % 64) % 64) ++ beNat 8 (8 * bs.length)

/-- The next word of the expanded block from the 16 before it, the newest first. -/
def expandWord (recent : List Word) : Word :=
  let near := recent.getD 1 0
  let far := recent.getD 14 0
  (rotations near [17, 19] ^^^ (near >>> 10)) + recent.getD 6 0 + (rotations far [7, 18] ^^^ (far >>> 3)) + recent.getD 15 0

/-- What the rounds hold: the last four values of the upper and of the lower half, newest first, and the last 16 words of
the expanded block, newest first. -/
structure ShaWork where
  upper : List Word
  lower : List Word
  recent : List Word

/-- One round with its constant and its word of the block. -/
def shaStep (st : ShaWork) (k w : Word) : ShaWork :=
  let u (i : Nat) : Word := st.upper.getD i 0
  let l (i : Nat) : Word := st.lower.getD i 0
  let choice := l 2 ^^^ (l 0 &&& (l 1 ^^^ l 2))
  let majority := (u 0 &&& (u 1 ||| u 2)) ||| (u 1 &&& u 2)
  let inner := l 3 + rotations (l 0) [6, 11, 25] + choice + k + w
  { upper := (inner + rotations (u 0) [2, 13, 22] + majority) :: st.upper.take 3
    lower := (u 3 + inner) :: st.lower.take 3
    recent := (w :: st.recent).take 16 }

/-- The rounds whose words the block gives, then those whose words are expanded. -/
def shaRounds : List Word → List Word → ShaWork → ShaWork
  | [], _, st => st
  | k :: ks, w :: ws, st => shaRounds ks ws (shaStep st k w)
  | k :: ks, [], st => shaRounds ks [] (shaStep st k (expandWord st.recent))

/-- The chaining value after one block of 64 bytes. -/
def shaAbsorb (h : List Word) (block : List Byte) : List Word :=
  let words := (List.range 16).map fun i => beWord ((block.drop (4 * i)).take 4)
  let st := shaRounds roundWords words ⟨h.take 4, h.drop 4, []⟩
  List.zipWith (· + ·) h (st.upper ++ st.lower)

/-- The blocks of a filled message, one after the other. -/
def shaBlocks : Nat → List Byte → List Word → List Word
  | 0, _, h => h
  | n + 1, m, h => shaBlocks n (m.drop 64) (shaAbsorb h (m.take 64))

/-- The SHA-256 of a message, 32 bytes. -/
def sha256 (bs : List Byte) : List Byte :=
  let m := shaFill bs
  (shaBlocks (m.length / 64) m shaStart).flatMap beBytes

end Sys2Proof.Machine
end

