-- ==== Sys2Proof/Machine/Fixed.lean ====
section
/-! DEFINITION. Fixed-point arithmetic of the signal chapters: rounding, exponentials, roots, decibels, cosines, complex numbers.
One is 2³² unless a definition says otherwise (notes/assumptions/21.md). -/

namespace Sys2Proof.Machine

/-- One in the fixed-point unit. -/
def unitOne : Nat := 4294967296

/-- A number divided and rounded to the nearest, halves up. -/
def roundDiv (a : Int) (b : Nat) : Int := (2 * a + b).fdiv (2 * b)

/-! ### Exponentials and roots -/

/-- The terms of the exponential series of -n/d from the k-th on, added to what has been summed, in 1/2^48. -/
def expRatioSeries (n d : Nat) : Nat → Nat → Int → Int → Int
  | 0, _, _, acc => acc
  | fuel + 1, k, term, acc => expRatioSeries n d fuel (k + 1) (Int.tdiv (-(term * n)) (((k + 1) * d : Nat) : Int)) (acc + term)

/-- e^(-n/d) in 1/2^48. -/
def expRatio (n d : Nat) : Int := expRatioSeries n d 18 0 281474976710656 0

/-- e^(-1/t) in 1/2^48. -/
def expNeg (t : Nat) : Int := expRatio 1 t

/-- Square root of a number below 2^(2k), by bits. -/
def isqrt : Nat → Nat → Nat → Nat
  | 0, _, r => r
  | k + 1, n, r =>
    let r1 := r + 2 ^ k
    isqrt k n (if r1 * r1 ≤ n then r1 else r)

/-- base^d for a base and exponent in 0 to 1, from the bits of the exponent: the factor of bit 2^-k is the k-fold square
root of the base. -/
def powFrac : Nat → Nat → Nat → Nat → Nat
  | 0, _, _, acc => acc
  | k + 1, root, d, acc =>
    let root1 := isqrt 32 (root * unitOne) 0
    powFrac k root1 d (if d / 2 ^ k % 2 = 1 then acc * root1 / unitOne else acc)

/-- A base in 0 to 1 to the exponent d in 0 to 1. -/
def powUnit (base d : Nat) : Nat := if unitOne ≤ d then base else powFrac 32 base d unitOne

/-- The amplitude factor of n tenths of a decibel of attenuation: 10^(-n/200). -/
def tenthDb : Nat → Nat
  | 0 => unitOne
  | n + 1 => tenthDb n * 4245803212 / unitOne

/-! ### Decibels -/

/-- The amplitude factors of 2^k hundredths of a decibel of attenuation, 10^(-2^k/2000), in 1/2^48. -/
def centiSteps : List Nat :=
  [281151103140331, 280827602228673, 280181716666682, 278894398612866, 276337479397285, 271293751977611, 261480792083865,
    242906866634504, 209623415010869, 156113259637959, 86584427928886, 26634208295819, 2520227765306, 22565231422]

/-- The amplitude factor of n hundredths of a decibel of attenuation, in 1/2^48 (n below 16,384). -/
def attenuation (n : Nat) : Nat :=
  ((centiSteps.zip (List.range 14)).foldl (fun acc e => if n / 2 ^ e.2 % 2 = 1 then acc * e.1 / 281474976710656 else acc) 281474976710656)

/-- The amplitude factor of a gain in 0.01 dB, in the fixed-point unit. -/
def gainUnit (g : Int) : Nat :=
  if g ≤ 0 then attenuation g.natAbs / 65536 else 2 ^ 80 / attenuation g.natAbs

/-- The greatest attenuation in 0.01 dB whose factor is not below x/2^48. -/
def attenuationOf (x : Nat) : Nat :=
  ((centiSteps.zip (List.range 14)).foldr (fun e (acc : Nat × Nat) =>
    let a := acc.2 * e.1 / 281474976710656
    if x ≤ a then (acc.1 + 2 ^ e.2, a) else acc) (0, 281474976710656)).1

/-- The level of an amplitude against a full scale, in 0.01 dB, at the floor of R374 or above. -/
def levelOf (a full : Nat) : Int :=
  if a = 0 then -15000
  else if a ≤ full then max (-15000) (-(attenuationOf (a * 281474976710656 / full) : Int))
  else attenuationOf (full * 281474976710656 / a)

/-! ### Cosines -/

/-- The terms of the cosine series from the k-th on, for the square of the angle in 1/2^48, in 1/2^48. -/
def cosSeries (sq : Int) : Nat → Nat → Int → Int → Int
  | 0, _, _, acc => acc
  | fuel + 1, k, term, acc =>
    cosSeries sq fuel (k + 1) (Int.tdiv (-(term * sq)) (281474976710656 * ((2 * k + 1) * (2 * k + 2)))) (acc + term)

/-- cos(πu), by the series of the cosine on 0 to π. -/
def cosPi (u : Nat) : Int :=
  let r := u % (2 * unitOne)
  let x : Int := ((if r ≤ unitOne then r else 2 * unitOne - r) * 884279719003555 / unitOne : Nat)
  Int.tdiv (cosSeries (Int.tdiv (x * x) 281474976710656) 16 0 281474976710656 0) 65536

/-- sin(πu). -/
def sinPi (u : Nat) : Int := cosPi (u + 3 * (unitOne / 2))

/-- A raised-cosine fade after `k` of `n` steps, from 0 to one. -/
def raisedCosine (k n : Nat) : Nat :=
  if n ≤ k then unitOne else ((unitOne - cosPi (k * unitOne / n)) / 2).toNat

/-! ### Complex numbers -/

/-- The product, both factors and the result in the fixed-point unit. -/
def cMul (a b : Cplx) : Cplx :=
  ⟨Int.tdiv (a.re * b.re - a.im * b.im) unitOne, Int.tdiv (a.re * b.im + a.im * b.re) unitOne⟩

/-- The sum. -/
def cAdd (a b : Cplx) : Cplx := ⟨a.re + b.re, a.im + b.im⟩

/-- The sum of a list. -/
def cplxSum (l : List Cplx) : Cplx := l.foldl cAdd ⟨0, 0⟩

/-- A real number times a complex one. -/
def cScale (k : Int) (a : Cplx) : Cplx := ⟨k * a.re, k * a.im⟩

/-- The square of the magnitude. -/
def cNormSq (a : Cplx) : Nat := (a.re * a.re + a.im * a.im).toNat

/-- The magnitude. -/
def cAbs (a : Cplx) : Nat := isqrt 64 (cNormSq a) 0

/-- e^(jπu). -/
def cTurn (u : Nat) : Cplx := ⟨cosPi u, sinPi u⟩

/-- A complex number divided, towards zero. -/
def cDiv (a : Cplx) (n : Nat) : Cplx := ⟨Int.tdiv a.re n, Int.tdiv a.im n⟩

/-- The conjugate. -/
def cConj (a : Cplx) : Cplx := ⟨a.re, -a.im⟩

/-- The product as it stands, in the square of the unit. -/
def cFullMul (a b : Cplx) : Cplx := ⟨a.re * b.re - a.im * b.im, a.re * b.im + a.im * b.re⟩

/-- A fixed-point FIR sum: the taps, in the fixed-point unit, against samples newest first. -/
def firSum (taps : Nat → Int) (xs : List Cplx) : Cplx :=
  cDiv (cplxSum (((List.range xs.length).zip xs).map fun e => cScale (taps e.1) e.2)) unitOne

/-- The same of real samples. -/
def firReal (taps : Nat → Int) (xs : List Int) : Int :=
  Int.tdiv ((((List.range xs.length).zip xs).map fun e => taps e.1 * e.2).sum) unitOne

/-- The angles whose tangents are 2^-k, in 2^-32 of a turn. -/
def atanSteps : List Nat :=
  [536870912, 316933406, 167458907, 85004756, 42667331, 21354465, 10679838, 5340245] ++
   [2670163, 1335087, 667544, 333772, 166886, 83443, 41722, 20861] ++
   [10430, 5215, 2608, 1304, 652, 326, 163, 81] ++
   [41, 20, 10, 5, 3, 1, 1, 0]

/-- Turns a vector of the right half-plane onto the real axis and adds up the angles. -/
def turnDown : List Nat → Nat → Int → Int → Int → Int
  | [], _, _, _, acc => acc
  | a :: rest, k, x, y, acc =>
    if 0 < y then turnDown rest (k + 1) (x + y / 2 ^ k) (y - x / 2 ^ k) (acc + a)
    else if y < 0 then turnDown rest (k + 1) (x - y / 2 ^ k) (y + x / 2 ^ k) (acc - a)
    else acc

/-- The phase of a complex number, in 2^-32 of a turn; that of zero is zero. -/
def cArg (a : Cplx) : Int :=
  let x := a.re * 281474976710656
  let y := a.im * 281474976710656
  if 0 ≤ x then turnDown atanSteps 0 x y 0
  else if 0 ≤ y then 2147483648 + turnDown atanSteps 0 (-x) (-y) 0
  else turnDown atanSteps 0 (-x) (-y) 0 - 2147483648

/-- A phase as it wraps, from minus half a turn up to half a turn. -/
def wrapPhase (p : Int) : Int := (p + 2147483648) % 4294967296 - 2147483648

/-! ### Power in a band -/

/-- Component k of the discrete Fourier transform of a run of samples. -/
def dftAt (xs : List Cplx) (k : Int) : Cplx :=
  let n := xs.length
  cplxSum (((List.range n).zip xs).map fun e =>
    cMul e.2 (cTurn ((2 * unitOne - 2 * ((k * e.1) % (n : Int)).toNat * unitOne / n) % (2 * unitOne))))

/-- The mean power of a run of samples at `rate` Hz in a band from `lo` to `hi` Hz: its components there, each of width
rate / n (log entry 123). -/
def bandPower (xs : List Cplx) (rate : Nat) (lo hi : Int) : Nat :=
  let n := xs.length
  let ks := (List.range n).filterMap fun k =>
    let s : Int := if 2 * k < n then k else (k : Int) - n
    if lo * n ≤ s * rate ∧ s * rate ≤ hi * n then some s else none
  ((ks.map fun k => cNormSq (dftAt xs k)).sum) / (max 1 (n * n))

/-- A complex number on its way from one value to another, after `k` of `n` equal steps. -/
def cBetween (a b : Cplx) (k n : Nat) : Cplx :=
  if n ≤ k then b else ⟨a.re + (b.re - a.re) * k / n, a.im + (b.im - a.im) * k / n⟩

end Sys2Proof.Machine
end

