-- ==== Sys2Proof/Machine/Flags.lean ====
section
/-! DEFINITION. The words of the hardware registers as a read returns them (R83), and the fields that follow from
other state: role and stage, `link_up`, `store_mounted`, `fault`, HOST_IRQ_N (R62). -/

namespace Sys2Proof.Machine

/-- Codes 0 to 4 of a mailbox channel (R83 `CHAN_STATE`). -/
def chanCode : ChanState → Nat
  | .disabled => 0 | .idle => 1 | .posted => 2 | .active => 3 | .done => 4

/-- The Coax Link is in RUN (`HW_STATUS.link_up`). -/
def linkUp (s : State) : Bool := s.link.state == .run
/-- The Crucible is mounted (`HW_STATUS.store_mounted`). -/
def storeMounted (s : State) : Bool := s.store.state == .mounted

/-- A Bool as a bit at a position. -/
def bitAt (b : Bool) (k : Nat) : Nat := if b then 2 ^ k else 0

/-- `HW_ID` (R83). -/
def hwId (s : State) : Word := BitVec.ofNat 32 <|
  0x4848B000 + s.host.bootsel.toNat * 64 + s.host.role.toNat * 16 + bitAt s.host.hifSpi 3 + s.host.i2cAddrSel.toNat * 2

/-- `HW_STATUS` (R83). -/
def hwStatus (s : State) : Word := BitVec.ofNat 32 <|
  s.host.fwStage.toNat * 2 ^ 24 + s.host.pdOn.toNat * 2 ^ 16
  + bitAt s.host.wrDropped 7 + bitAt s.host.writeRejected 6 + bitAt s.host.partialWord 5 + bitAt s.host.addrError 4
  + bitAt (linkUp s) 3 + bitAt (storeMounted s) 2 + bitAt (faultHeld s) 1 + bitAt s.host.fwReady 0

/-- `CHAN_STATE` (R83). -/
def chanStateWord (s : State) : Word := BitVec.ofNat 32 <|
  bitAt s.bulk.hostToDev 27 + bitAt s.bulk.mapped.isSome 26 + s.bulk.hostOwned.toNat * 2 ^ 24
  + s.abortPending.toNat * 2 ^ 16
  + chanCode s.chan[3] * 4096 + chanCode s.chan[2] * 256 + chanCode s.chan[1] * 16 + chanCode s.chan[0]

/-- `HOST_CFG` (R83). -/
def hostCfgWord (s : State) : Word := BitVec.ofNat 32 <| s.host.spiRdDummy.toNat * 256 + s.host.spiWrWait.toNat

/-- `I2C_TIMING` as read: the last value written (R14, R73). -/
def i2cTimingWord (s : State) : Word := s.host.i2cTimingNext.getD s.host.i2cTiming
/-- `I2C_TIMEOUT` as read: the last value written (R14, R73). -/
def i2cTimeoutWord (s : State) : Word := s.host.i2cTimeoutNext.getD s.host.i2cTimeout

/-- `I2C_STATUS` (R83). -/
def i2cStatusWord (s : State) : Word := BitVec.ofNat 32 <|
  bitAt s.host.rstartInAck 7 + bitAt s.host.sclTimeout 5 + bitAt s.host.sdaTimeout 4
  + bitAt s.host.holdingScl 1 + bitAt s.host.busBusy 0

/-- HOST_IRQ_N is driven low (R62). -/
def irqAsserted (s : State) : Bool := (s.host.irqStatus &&& s.host.irqEnable) != 0

/-- The role numbers of `HW_ID.role` (R83). -/
def roleNone : BitVec 2 := 0
def roleIntegrated : BitVec 2 := 1
def roleRemote : BitVec 2 := 2
def roleLocal : BitVec 2 := 3

/-- The device is confirmed as a local. -/
def isLocal (s : State) : Bool := s.host.role == roleLocal
/-- The device is confirmed as a remote. -/
def isRemote (s : State) : Bool := s.host.role == roleRemote
/-- The device is confirmed as integrated. -/
def isIntegrated (s : State) : Bool := s.host.role == roleIntegrated

/-- Bit of a power domain in `pd_on`. -/
def pdBit (n : Nat) : Byte := BitVec.ofNat 8 (2 ^ n)
/-- The domain is powered (`HW_STATUS.pd_on`). -/
def pdIsOn (s : State) (n : Nat) : Bool := s.host.pdOn.getLsbD n

end Sys2Proof.Machine
end

