-- ==== Sys2Proof/Machine/Operands.lean ====
section
/-! DEFINITION. The operand forms of the mailbox: the request header and payload in a channel's request buffer
(R90), the status codes (R555), and the checks S0 makes before a command's own (R553). -/

namespace Sys2Proof.Machine

/-- Status codes of a response (R555). -/
inductive Status where
  | ok | pending | aborted | alreadyDone | busy | badParam | badState | noResource | loadExceeded | badOpcode
  | notLocked | timeout | nack | staleSnapshot | authFail | mediaFault
deriving DecidableEq, Repr

/-- The values of R555. -/
def statusCode : Status → Nat
  | .ok => 0x0000 | .pending => 0x0001 | .aborted => 0x0002 | .alreadyDone => 0x0003 | .busy => 0x0010
  | .badParam => 0x0011 | .badState => 0x0012 | .noResource => 0x0013 | .loadExceeded => 0x0014
  | .badOpcode => 0x0015 | .notLocked => 0x0020 | .timeout => 0x0021 | .nack => 0x0022 | .staleSnapshot => 0x0030
  | .authFail => 0x0040 | .mediaFault => 0x0050

/-- A request as it stands in a request buffer (R90). -/
structure Req where
  opcode : Nat
  tag : Nat
  length : Nat
  flags : Nat
  txnId : Nat
  reserved : Nat
  payload : List Byte
deriving DecidableEq, Repr

/-- The address of a channel's request buffer. -/
def reqBase (ch : Fin 4) : Nat := 0x1000 + ch.val * 0x400
/-- The address of a channel's response buffer. -/
def respBase (ch : Fin 4) : Nat := 0x1200 + ch.val * 0x400

/-- The request in a channel's request buffer. -/
def reqOf (s : State) (ch : Fin 4) : Req :=
  let h := memBytes s.mem (reqBase ch) 16
  { opcode := getU 2 0 h, tag := getU 2 2 h, length := getU 2 4 h, flags := getU 2 6 h
    txnId := getU 4 8 h, reserved := getU 4 12 h
    payload := memBytes s.mem (reqBase ch + 16) (min 496 (getU 2 4 h)) }

/-- `dry_run` (R91). -/
def Req.dry (r : Req) : Bool := r.flags % 2 == 1

/-- Kinds of R552. -/
inductive Kind where
  | config | immediate | long | read
deriving DecidableEq, Repr

/-- Check 1: the header (R92). -/
def headerBad (r : Req) : Bool := 496 < r.length || 2 ≤ r.flags || r.reserved != 0

/-- The opcodes that the ROM serves (R554). -/
def romOpcodes : List Nat := [0x0101, 0x0201, 0x0202, 0x0203, 0x0C01]
/-- The boot opcodes (R554). -/
def bootOpcodes : List Nat := [0x0201, 0x0202, 0x0203]

/-- Commands of blocks that are off in the confirmed role (R19): the link in the integrated role, following, outputs
and the store in the remote role, with the link-layer commands that only a local accepts (R487) and `PWR_SLEEP`
(R138). -/
def offInRole (role : BitVec 2) (opcode : Nat) : Bool :=
  if role = roleIntegrated then opcode / 256 == 0x0A
  else if role = roleRemote then
    [0x06, 0x07, 0x08].contains (opcode / 256) || [0x0230, 0x0A01, 0x0A02, 0x0A03, 0x0A04].contains opcode
  else false

/-- Check 3: the firmware stage and the role (R114, R115, R127, R19, R554). -/
def stageStatus (s : State) (opcode : Nat) : Option Status :=
  if s.host.fwStage.toNat < 0x20 then
    if s.boot.phase = .otpFailed then some .authFail
    else if s.boot.phase = .hostLoad ∨ s.boot.phase = .authenticating ∨ s.boot.phase = .rejected then
      if romOpcodes.contains opcode then none else some .badState
    else if s.boot.phase = .nandBoot ∨ s.boot.phase = .linkBoot then
      if romOpcodes.contains opcode && !bootOpcodes.contains opcode then none else some .badState
    else some .badState
  else if bootOpcodes.contains opcode then some .badState
  else if s.host.role = roleNone then
    if [0x01, 0x02, 0x0C].contains (opcode / 256) then none else some .badState
  else if offInRole s.host.role opcode then some .badState
  else none

/-- The id of the transaction open on a channel, 0 when none is. -/
def openId (s : State) (ch : Fin 4) : Nat :=
  match s.txns[ch] with
  | some t => t.id.toNat
  | none => 0

/-- Check 4: the `txn_id` (R95, R552). `owns` is set for TXN_CANCEL and TXN_COMMIT. -/
def txnStatus (s : State) (ch : Fin 4) (k : Kind) (owns : Bool) (r : Req) : Option Status :=
  if owns then
    if s.txns[ch].isSome && r.txnId == openId s ch then none else some .badState
  else match k with
    | .config | .read => if r.txnId == 0 || (s.txns[ch].isSome && r.txnId == openId s ch) then none else some .badState
    | .immediate | .long => if r.txnId == 0 then none else some .badParam

end Sys2Proof.Machine
end

