-- ==== Sys2Proof/Machine/Mailbox.lean ====
section
/-! DEFINITION. The mailbox: taking a request in the order of the rings, the checks of R553, the response and the
entry to DONE (R86 to R94), and the frame that every mailbox command shares. -/

namespace Sys2Proof.Machine

/-- The header and payload of a response, padded with zeros to the whole buffer (R88, R90). -/
def responseBytes (r : Req) (st : Status) (payload : List Byte) : List Byte :=
  u16 r.opcode ++ u16 r.tag ++ u16 payload.length ++ u16 (statusCode st) ++ u32 r.txnId ++ u32 0
    ++ payload ++ zeros (496 - payload.length)

/-- A MAILBOX packet (R540): the channel, the phase, the opcode and the tag of its request, and the status. -/
def noteMail (ch : Fin 4) (phase status : Nat) (s : State) : State :=
  let r := reqOf s ch
  noteTrace s.now 5
    [BitVec.ofNat 32 (ch.val * 2 ^ 24 + phase * 2 ^ 16 + r.opcode % 65536), BitVec.ofNat 32 (r.tag % 65536 * 65536 + status)] s

/-- The commit mark of the request on a channel is traced (R93, R540). -/
def noteMark (ch : Fin 4) (s : State) : State := noteMail ch 1 0 s

/-- The opcodes of the long operations (R552, R560). -/
def longOpcodes : List Nat := [0x0111, 0x0203, 0x0315, 0x0602, 0x0801, 0x0802, 0x080C, 0x0B02]

/-- Entry to DONE (R86, R88): the whole response takes its place, `resp` is set, `abort_pending` is cleared, the
channel's operation is over and the request counter steps (R546). -/
def respond (ch : Fin 4) (st : Status) (payload : List Byte) (s : State) : State :=
  let r := reqOf s ch
  let s1 := raiseIrq s (BitVec.ofNat 10 (2 ^ ch.val))
  noteMail ch 2 (statusCode st) { s1 with
    mem := memWrite s1.mem (respBase ch) (responseBytes r st (payload.take 496))
    chan := s1.chan.set ch .done
    abortPending := s1.abortPending &&& ~~~(BitVec.ofNat 4 (2 ^ ch.val))
    ringOrder := s1.ringOrder.filter (· != ch)
    ops := s1.ops.set ch none
    counters := { s1.counters with mailboxRequests := vmod s1.counters.mailboxRequests ch (bump · 1) } }

/-- How S0 serves a request it has taken: an answer at once, or an operation that keeps the channel ACTIVE. `dry` is the
status and the payload that a `dry_run` of the operation answers with, every check of the request made (R91, R550). A request that goes to the
remote is held, `dry_run` or not: the remote answers it (R502, R505). -/
inductive Served where
  | answer (st : Status) (payload : List Byte) (s : State)
  | wait (op : ActiveOp) (dry : Status × List Byte) (s : State)
  | hold (op : ActiveOp) (s : State)

/-- An answer that changes nothing. -/
def refuse (st : Status) (s : State) : Served := .answer st [] s

/-- Whether S0 runs something that takes requests: the ROM on channel 0, or the firmware (R86, R126, R127). -/
def servesChannel (s : State) (ch : Fin 4) : Bool :=
  s.pd1 && (if s.host.fwStage.toNat < 0x20 then ch == 0 && (s.host.fwStage == 0x10 || s.host.fwStage == 0x1E)
    else 0x30 ≤ s.host.fwStage.toNat)

/-- The request on a channel is the one S0 takes next (R89). -/
def isNext (s : State) (ch : Fin 4) : Bool :=
  s.chan[ch] == .posted && s.ringOrder.head? == some ch && servesChannel s ch

/-- The request on a channel is the one S0 takes next, and carries this opcode. -/
def taken (s : State) (ch : Fin 4) (opcode : Nat) : Bool := isNext s ch && (reqOf s ch).opcode == opcode

/-- S0 takes the request: the channel becomes ACTIVE (R86). Of a request that is no long operation this is the commit point
(R93, R560). -/
def takeOut (s : State) (ch : Fin 4) : State :=
  let s1 := noteMail ch 0 0 s
  { s with
    chan := s.chan.set ch .active
    ringOrder := s.ringOrder.filter (· != ch)
    trace := if longOpcodes.contains (reqOf s ch).opcode then s1.trace else (noteMark ch s1).trace }

/-- Payload bytes whose values the spec does not state: free values (log entry 12). -/
def freeBytes (s : State) (n : Nat) : List Byte := (List.range n).map fun i => Config.freeByte (s.freeNext + i)

/-- A `dry_run` of a request that would succeed with a payload whose values only the operation itself gives. -/
def dryOk (s : State) (n : Nat) : Status × List Byte := (.ok, freeBytes s n)

/-- The checks before the payload's own, in the order of R553: header, stage and role, `txn_id`. -/
def preCheck (s : State) (ch : Fin 4) (k : Kind) (owns : Bool) (r : Req) : Option Status :=
  if headerBad r then some .badParam
  else match stageStatus s r.opcode with
    | some st => some st
    | none => txnStatus s ch k owns r

/-- Completes a request that S0 has served; a `dry_run` changes nothing but the response (R91). -/
def settle (ch : Fin 4) (dry : Bool) (s0 : State) : Served → State
  | .answer st payload s1 => respond ch st payload (if dry then s0 else s1)
  | .wait op d s1 =>
    if dry then respond ch d.1 d.2 { s0 with freeNext := s0.freeNext + d.2.length }
    else { s1 with ops := s1.ops.set ch (some op) }
  | .hold op s1 => { s1 with ops := s1.ops.set ch (some op) }

/-- Serves a request by its opcode: the checks of R553 in order, then the command's body on the parsed payload.
`errPayload` is what a refusal carries (empty but for TXN_COMMIT, R550). -/
def serveWith {α : Type} (ch : Fin 4) (opcode : Nat) (k : Kind) (owns : Bool) (errPayload : List Byte)
    (parse : List Byte → Option α) (body : α → Req → State → Served) (s : State) : State :=
  if taken s ch opcode then
    let r := reqOf s ch
    let s0 := takeOut s ch
    match preCheck s ch k owns r with
    | some st => respond ch st errPayload s0
    | none =>
      match parse r.payload with
      | none => respond ch .badParam errPayload s0
      | some a => settle ch r.dry s0 (body a r s0)
  else s

/-- `serveWith` for a command that is neither TXN_CANCEL nor TXN_COMMIT. -/
def serve {α : Type} (ch : Fin 4) (opcode : Nat) (k : Kind) (parse : List Byte → Option α)
    (body : α → Req → State → Served) (s : State) : State :=
  serveWith ch opcode k false [] parse body s

/-- A request with no payload (R549). -/
def noPayload (p : List Byte) : Option Unit := if p.length = 0 then some () else none

/-- A request whose payload is one index below a bound (R549). -/
def indexPayload (n : Nat) (p : List Byte) : Option (Fin n) :=
  if p.length = 1 then finOf n (getU 1 0 p) else none

/-- The operation of an ACTIVE channel. -/
def opOf (s : State) (ch : Fin 4) : Option ActiveOp := if s.chan[ch] == .active then s.ops[ch] else none

/-- Whether an abort has landed on an ACTIVE channel (R93). -/
def abortLanded (s : State) (ch : Fin 4) : Bool := s.abortPending.getLsbD ch.val

/-- The end of a long operation that passed its commit point: `ST_OK`, or `ST_ALREADY_DONE` with the full result when
an abort landed with or after the mark (R94). -/
def completeOp (ch : Fin 4) (payload : List Byte) (s : State) : State :=
  respond ch (if abortLanded s ch then .alreadyDone else .ok) payload s

/-- The commit mark of the operation on a channel (R93). -/
def markCommitted (s : State) (ch : Fin 4) : State :=
  match s.ops[ch] with
  | some o => noteMark ch { s with ops := s.ops.set ch (some { o with committed := true }) }
  | none => s

/-- The commit mark of the operation on a channel has passed. -/
def committed (s : State) (ch : Fin 4) : Bool := match s.ops[ch] with | some o => o.committed | none => false

/-- The opcodes of the command tables (R556). -/
def knownOpcodes : List Nat :=
  [0x0101, 0x0102, 0x0110, 0x0111, 0x0112, 0x0113, 0x0120, 0x0121, 0x0130,
   0x0201, 0x0202, 0x0203, 0x0210, 0x0220, 0x0230,
   0x0301, 0x0302, 0x0303, 0x0310, 0x0311, 0x0312, 0x0313, 0x0314, 0x0315,
   0x0401, 0x0402, 0x0403, 0x0404, 0x0405, 0x0410, 0x0420] ++
  [0x0501, 0x0502, 0x0503, 0x0504, 0x0505, 0x0510, 0x0511, 0x0520, 0x0521,
   0x0601, 0x0602, 0x0603, 0x0604,
   0x0701, 0x0702, 0x0703, 0x0704, 0x0705, 0x0706, 0x0707, 0x0708, 0x0709] ++
  [0x0801, 0x0802, 0x0803, 0x0804, 0x0805, 0x0806, 0x0807, 0x0808, 0x0809, 0x080A, 0x080B, 0x080C,
   0x0901, 0x0902, 0x0903, 0x0904,
   0x0A01, 0x0A02, 0x0A03, 0x0A04, 0x0A05, 0x0A10, 0x0A11, 0x0A12,
   0x0B01, 0x0B02, 0x0B03, 0x0B10, 0x0B11, 0x0C01, 0x0C02, 0x0D01, 0x0D02]

/-- A request with an opcode that no table lists, when it is the next to be taken: the header is checked first, then
`ST_BAD_OPCODE` (R553). -/
def takeUnknown (s : State) : State :=
  match s.ringOrder.head? with
  | none => s
  | some ch =>
    if isNext s ch && !(knownOpcodes.contains (reqOf s ch).opcode) then
      respond ch (if headerBad (reqOf s ch) then .badParam else .badOpcode) [] (takeOut s ch)
    else s

end Sys2Proof.Machine
end

