-- ==== Sys2Proof/Machine/Queues.lean ====
section
/-! DEFINITION. Dispatch: the queues of R426, their credits (R431 to R433), the choice of a queue at a grant
(R434, R435), the limits of R444 and the status entry of R446. -/

namespace Sys2Proof.Machine

/-- A queue of R426 has shaper parameters unless it is NW or LC. -/
def isShaped (id : Nat) : Bool := id != 0x00 && id != 0x20

/-- The priority of a queue within its egress (R426). -/
def queuePriority (id : Nat) : Nat :=
  if id = 0x00 ∨ id = 0x20 then 0
  else if id < 0x18 then 1 else if id < 0x1F then 2 else if id = 0x1F then 3
  else if id < 0x60 then 1 else if id = 0x60 then 2 else if id = 0x61 then 3 else 0

/-- The queues of the NAND egress, of a window of the link, and of the host egress (R426, R434). -/
def isNandQueue (id : Nat) : Bool := id < 0x20
def isHostQueue (id : Nat) : Bool := 0x70 ≤ id
def windowQueue (w : Window) (id : Nat) : Bool :=
  match w with
  | .control => id == 0x20
  | .stream => 0x30 ≤ id && id ≤ 0x60
  | .bulk => id == 0x61

/-- The queue of an id; an id that R426 does not list reads as an idle queue. -/
def queueOf (d : DispatchUnit) (id : Nat) : DQueue :=
  match d.queues.find? (fun e => e.1 == id) with
  | some e => e.2
  | none => DQueue.reset

/-- One queue replaced by a function of it. -/
def modQueue (d : DispatchUnit) (id : Nat) (f : DQueue → DQueue) : DispatchUnit :=
  { d with queues := d.queues.map fun e => if e.1 = id then (e.1, f e.2) else e }

/-- The counted length of a packet (R429). -/
def countedLength (q : DQueue) (p : Packet) : Nat := p.length + q.overhead

/-- The units of a byte in which credit is kept (R431). -/
def creditUnit : Nat := 24576000

/-- The cap of a queue's credit in bytes (R431). -/
def creditCap (q : DQueue) : Nat :=
  match q.items with
  | [] => q.burst
  | p :: _ => q.burst + countedLength q p

/-- The credit of one queue after a number of ticks (R431): frozen at rate zero, still while a packet is sent, else
raised tick by tick and held to its cap, which over the span is the same as once at its end. -/
def accrueQueue (ticks : Nat) (id : Nat) (q : DQueue) : DQueue :=
  if ticks = 0 ∨ q.rate = 0 ∨ q.sending ∨ !q.active ∨ !isShaped id then q
  else { q with credit := min (q.credit + (ticks * q.rate * 125 : Nat)) ((creditCap q * creditUnit : Nat) : Int) }

/-- Every credit brought up to the device time. -/
def accrue (s : State) : State :=
  let n := s.now - s.dispatch.accruedTo
  { s with dispatch :=
      { s.dispatch with
        queues := s.dispatch.queues.map fun e => (e.1, accrueQueue n e.1 e.2)
        accruedTo := s.now } }

/-- Whether a queue may be granted (R431). -/
def eligible (id : Nat) (q : DQueue) : Bool :=
  q.active && !q.items.isEmpty && (!isShaped id || (0 < q.rate && 0 ≤ q.credit))

/-- Whether a queue's producer exists (R427) in the role of the device (R19). -/
def queueWanted (s : State) (id : Nat) : Bool :=
  if isNandQueue id then
    (s.store.state == .mounted) &&
      (if id = 0x00 ∨ id = 0x1F then true
       else if id < 0x18 then
         match finOf 8 (id - 0x10) with | some c => s.store.cursors[c].set && s.store.cursors[c].run | none => false
       else match finOf 2 (id - 0x18) with | some c => s.store.exports[c].running | none => false)
  else if isHostQueue id then
    match s.bulk.mapped with
    | some .sideData => id == 0x70
    | some .dbStream => id == 0x71
    | some .exportStream =>
      (match finOf 2 (id - 0x72) with | some c => 0x72 ≤ id && s.store.exports[c].running | none => false)
    | _ => false
  else
    linkUp s && (if id = 0x20 ∨ id = 0x61 then isRemote s || isLocal s else isRemote s)

/-- A queue as it becomes active or stops being active (R427, R432). -/
def activateQueue (on : Bool) (q : DQueue) : DQueue :=
  if on = q.active then q
  else { q with active := on, credit := 0, sending := false, items := [], sent := 0 }

/-- Every queue active exactly while its producer exists (R427). -/
def refreshQueues (s : State) : State :=
  let s1 := accrue s
  { s1 with dispatch :=
      { s1.dispatch with queues := s1.dispatch.queues.map fun e => (e.1, activateQueue (queueWanted s1 e.1) e.2) } }

/-- The bytes of counted length that wait in a queue (R446 `backlog`). -/
def backlog (q : DQueue) : Nat := (q.items.map (countedLength q)).sum

/-- The limit of a queue that a producer fills (R444). -/
def queueLimit (id : Nat) : Option Nat :=
  if id = 0x20 then some 65536
  else if 0x30 ≤ id ∧ id < 0x60 then some 16384
  else if id = 0x60 then some 65536
  else if id = 0x61 then some 131072
  else if id = 0x70 then some 262144
  else none

/-- Whether a packet would take its queue above its limit (R444). -/
def overLimit (id : Nat) (q : DQueue) (p : Packet) : Bool :=
  match queueLimit id with
  | some l => l < (q.items.map (·.length)).sum + p.length
  | none => false

/-- The queue last granted at a priority. -/
def lastGranted (l : List (Nat × Nat)) (prio : Nat) : Nat :=
  match l.find? (fun e => e.1 == prio) with
  | some e => e.2
  | none => 0xFFFF

/-- The first candidate of one priority in round-robin order, starting after the queue last granted (R434). -/
def roundRobin (last : Nat) (ids : List Nat) : Option Nat :=
  match ids.find? (fun i => last < i) with
  | some i => some i
  | none => ids.head?

/-- The queue that R434 selects among candidate ids in table order. -/
def pickQueue (last : List (Nat × Nat)) (ids : List Nat) : Option Nat :=
  [0, 1, 2, 3].findSome? fun p => roundRobin (lastGranted last p) (ids.filter fun i => queuePriority i == p)

/-- The ids of the queues that satisfy a condition, in table order. -/
def queueIdsWith (d : DispatchUnit) (f : Nat → DQueue → Bool) : List Nat :=
  (d.queues.filter fun e => f e.1 e.2).map (·.1)

/-- The grant of a queue's head (R431, R432): it is charged, counted and leaves the queue. `hold` keeps the queue
from accruing while its packet is in transmission, as on the NAND bus (log entry 134). -/
def grantHead (hold : Bool) (id : Nat) (q : DQueue) : DQueue :=
  match q.items with
  | [] => q
  | p :: rest =>
    { q with
      items := rest
      credit := if isShaped id then q.credit - (countedLength q p * creditUnit : Nat) else q.credit
      sent := bump q.sent (countedLength q p)
      grants := bump q.grants 1
      sending := hold }

/-- A DISPATCH packet of a grant (R540): the queue, the counted length, and the credit after it. -/
def noteGrantOf (id : Nat) (p : Packet) (s : State) : State :=
  let q := queueOf s.dispatch id
  noteTrace s.now 11 [BitVec.ofNat 32 (id % 256 * 2 ^ 24 + countedLength q p % 2 ^ 24), BitVec.ofInt 32 (q.credit / (creditUnit : Nat))] s

/-- A grant of a queue's head, told to the trace port; `s0` is the state before it. -/
def noteHeadGrant (id : Nat) (s0 s : State) : State :=
  { s with trace := match (queueOf s0.dispatch id).items with
    | p :: _ => (noteGrantOf id p s).trace
    | [] => s.trace }

/-- `DISPATCH_SET` on one shaped queue (R433): the credit up to now has accrued at the old rate, a credit above the
new cap falls to it, a debt is unchanged. -/
def setShaper (c : ShaperCfg) (q : DQueue) : DQueue :=
  let q1 := { q with rate := c.rate, burst := c.burst, overhead := c.overhead }
  { q1 with credit := min q.credit ((creditCap q1 * creditUnit : Nat) : Int) }

/-- `DISPATCH_SET` applies (R430, R433). -/
def applyDispatchSet (c : ShaperCfg) (s : State) : State :=
  let s1 := accrue s
  { s1 with dispatch :=
      { s1.dispatch with
        queues := s1.dispatch.queues.map fun e =>
          if c.first ≤ e.1 ∧ e.1 ≤ c.last then (e.1, setShaper c e.2) else e } }

/-- The range, order and values of `DISPATCH_SET` (R430); unlisted ids in the range name no queue. -/
def shaperOk (c : ShaperCfg) : Bool :=
  c.first ≤ c.last && queueIds.contains c.first && queueIds.contains c.last
    && (queueIds.filter fun i => c.first ≤ i ∧ i ≤ c.last).all isShaped
    && c.rate ≤ 1600000 && c.burst ≤ 1048576 && c.overhead ≤ 4095

/-- Parses `DISPATCH_SET`: `device`, `first`, `last`, `rate_kbps`, `burst`, `overhead` (R430). -/
def parseDispatchSet (p : List Byte) : Option (Bool × ShaperCfg) :=
  if p.length = 13 ∧ getU 1 0 p ≤ 1 then
    let c : ShaperCfg := ⟨getU 1 1 p, getU 1 2 p, getU 4 3 p, getU 4 7 p, getU 2 11 p⟩
    if shaperOk c then some (getU 1 0 p == 1, c) else none
  else none

/-- The credit of a shaped queue in whole bytes, toward minus infinity and saturated (R446). -/
def creditBytes (q : DQueue) : Int := clampInt (-2147483647) 2147483647 (q.credit.fdiv creditUnit)

/-- One entry of `DISPATCH_STATUS_GET` (R446). -/
def queueEntry (id : Nat) (q : DQueue) : List Byte :=
  if !q.active then zeros 32
  else
    u8 id ++ u8 (1 + bitAt (eligible id q) 1 + bitAt (isShaped id && q.rate == 0) 2 + bitAt q.sending 3) ++ zeros 2
      ++ (if isShaped id then s32 (creditBytes q) else u32 0x80000000)
      ++ u32 (backlog q) ++ u64 q.sent.toNat ++ u32 q.grants.toNat ++ u32 q.drops.toNat ++ u32 q.stallMs.toNat

/-- `stall_ms` at a stroke boundary (R446): a queue that held work and was not eligible. -/
def stallQueue (id : Nat) (q : DQueue) : DQueue :=
  if q.active && !q.items.isEmpty && !eligible id q then { q with stallMs := bump q.stallMs 1 } else q

/-- What Dispatch does at a stroke boundary: credits are brought up to it and stalls are counted. -/
def strokeDispatch (s : State) : State :=
  let s1 := refreshQueues s
  { s1 with dispatch := { s1.dispatch with queues := s1.dispatch.queues.map fun e => (e.1, stallQueue e.1 e.2) } }

/-! ### Messages of the link (R494, R496, R498) -/

/-- The longest frame of a link queue: 2,048 bytes or the window that carries it (R494). -/
def frameMax (s : State) (id : Nat) : Nat :=
  min 2048 <|
    if id = 0x20 then (if isLocal s then s.link.upCtl else s.link.downCtl)
    else if id = 0x61 then (if isLocal s then s.link.upBulk else s.link.downBulk)
    else s.link.downStream

/-- The frames of a message (R494, R496): `total` bytes, of which the first are `known` to the model. -/
def framesOf (maxFrame ftype stream total : Nat) (known : List Byte) : List Packet :=
  let chunk := max 1 (maxFrame - 24)
  (List.range (max 1 (ceilDiv total chunk))).map fun k =>
    let n := min chunk (total - k * chunk)
    { Packet.reset with
      length := 24 + n, tag := stream, bytes := (known.drop (k * chunk)).take n
      ftype := ftype, offset := k * chunk, total := total }

/-- The frames of a message go to their queue together; LS and LD drop a message above the limit and step `drops`
(R444). The producers of LC and LB look at `roomFor` first and wait. -/
def enqueueAll (s : State) (id : Nat) (ps : List Packet) : State :=
  let s1 := accrue s
  let q := queueOf s1.dispatch id
  let have_ := (q.items.map (·.length)).sum
  let fits : Bool := match queueLimit id with | some l => decide (have_ + (ps.map (·.length)).sum ≤ l) | none => true
  if !q.active then s1
  else { s1 with dispatch := modQueue s1.dispatch id fun q =>
    if fits then { q with items := q.items ++ ps } else { q with drops := bump q.drops 1 } }

/-- A queue takes a message of this many frame bytes without going above its limit (R444). -/
def roomFor (s : State) (id : Nat) (ps : List Packet) : Bool :=
  match queueLimit id with
  | some l => ((queueOf s.dispatch id).items.map (·.length)).sum + (ps.map (·.length)).sum ≤ l
  | none => true

/-- A control message on stream 0x0300 (R498). -/
def controlFrames (s : State) (msg : List Byte) : List Packet := framesOf (frameMax s 0x20) 1 0x0300 msg.length msg

/-- The bytes of a forwarded request: the request as it stands in the buffer (log entry 23). -/
def requestBytes (r : Req) : List Byte :=
  u16 r.opcode ++ u16 r.tag ++ u16 r.length ++ u16 r.flags ++ u32 r.txnId ++ u32 0 ++ r.payload

/-- A request that S0 forwards to the remote (R502): refused with `ST_BAD_STATE` while the link is not in RUN and
with `ST_BUSY` when LC is full (R444), else sent, and the channel stays ACTIVE until the remote's response comes. -/
def forwardRequest (r : Req) (s : State) : Served :=
  if !linkUp s then refuse .badState s
  else
    let ps := controlFrames s (requestBytes r)
    if !roomFor s 0x20 ps then refuse .busy { s with dispatch := modQueue s.dispatch 0x20 fun q => { q with drops := bump q.drops 1 } }
    else .hold ⟨.forwarded (BitVec.ofNat 16 r.opcode) r.payload, true, s.now⟩ (enqueueAll s 0x20 ps)

end Sys2Proof.Machine
end

