-- ==== Sys2Proof/Machine/FrontEnd.lean ====
section
/-! DEFINITION. Antenna inputs, gain stages and the Bellows (04_front_end_channeliser.md, R147 to R177). -/

namespace Sys2Proof.Machine

/-! ### Gain stages (R151, R152, R156) -/

/-- One gain index: what it names and what it gives, in 0.1 dB and 0.1 dBm (R151, R152). -/
structure GainIndex where
  attenuator : Nat
  lna : Nat
  gain : Int
  noiseFigure : Nat
  iip3 : Int
  fullScale : Int
deriving DecidableEq, Repr

/-- The gain indices of VHF_A and VHF_B (R151). -/
def vhfGains : List GainIndex :=
  [⟨0, 300, 300, 35, -120, -280⟩, ⟨0, 240, 240, 40, -60, -220⟩, ⟨0, 180, 180, 50, 0, -160⟩, ⟨0, 120, 120, 70, 60, -100⟩,
   ⟨60, 120, 60, 130, 120, -40⟩, ⟨120, 120, 0, 190, 180, 20⟩, ⟨180, 120, -60, 250, 240, 80⟩, ⟨240, 120, -120, 310, 280, 140⟩]

/-- The gain indices of HF_IN (R152). -/
def hfGains : List GainIndex :=
  [⟨0, 240, 240, 60, 20, -200⟩, ⟨0, 180, 180, 70, 80, -140⟩, ⟨0, 120, 120, 90, 140, -80⟩, ⟨0, 60, 60, 120, 200, -20⟩,
   ⟨100, 60, -40, 220, 300, 80⟩, ⟨200, 60, -140, 320, 360, 180⟩]

/-- The gain indices of an input. -/
def gainTable (i : Fin 3) : List GainIndex := if i = 2 then hfGains else vhfGains

/-- The attenuator and LNA settings that a GI of an input names (R151, R152), none beyond its table. -/
def gainStage (i : Fin 3) (gi : Nat) : Option (Nat × Nat) := (gainTable i)[gi]?.map fun g => (g.attenuator, g.lna)

/-- The level at the ball that reaches full scale, in 0.1 dBm (R151, R152, last column). -/
def ballFullScale (i : Fin 3) (gi : Nat) : Int :=
  match (gainTable i)[gi]? with
  | some g => g.fullScale
  | none => if i = 2 then 180 else 140

/-- The lowest gain of an input (R151, R152). -/
def maxGi (i : Fin 3) : Nat := if i = 2 then 5 else 7

/-- The gain difference between a GI and the next higher gain, in 0.1 dB. -/
def stepBelow (i : Fin 3) (gi : Nat) : Int := ballFullScale i gi - ballFullScale i (gi - 1)

/-- S of R156: the largest gain difference between adjacent GIs of a span, in 0.1 dB. -/
def largestStep (i : Fin 3) (hi lo : Nat) : Int :=
  ((List.range (lo - hi)).map fun k => stepBelow i (hi + k + 1)).foldl max 0

/-- The ranges and relations of `FE_BELLOWS_SET` (R156). -/
def bellowsOk (i : Fin 3) (c : BellowsCfg) : Bool :=
  c.manualGi ≤ maxGi i && c.giHigh ≤ maxGi i && c.giLow ≤ maxGi i
    && -300 ≤ c.target && c.target ≤ -60 && -250 ≤ c.upper && c.upper ≤ -40 && -400 ≤ c.lower && c.lower ≤ -100
    && 10 ≤ c.upHoldMs && c.upHoldMs ≤ 10000 && 10 ≤ c.recoverMs && c.recoverMs ≤ 60000
    && 1 ≤ c.clipLimit && c.clipLimit ≤ 64
    && c.lower < c.target && c.target < c.upper
    && c.giHigh ≤ c.manualGi && c.manualGi ≤ c.giLow
    && largestStep i c.giHigh c.giLow + 20 ≤ c.upper - c.lower

/-- Parses `FE_BELLOWS_SET`: `input`, then R156 (16 bytes). -/
def parseBellows (p : List Byte) : Option (Fin 3 × BellowsCfg) :=
  match finOf 3 (getU 1 0 p) with
  | none => none
  | some i =>
    let c : BellowsCfg := ⟨getU 1 1 p == 1, getU 1 2 p, getU 1 3 p, getU 1 4 p, getS 2 5 p, getS 2 7 p, getS 2 9 p,
      getU 2 11 p, getU 2 13 p, getU 1 15 p⟩
    if p.length = 16 ∧ getU 1 1 p ≤ 1 ∧ bellowsOk i c then some (i, c) else none

/-- Parses `FE_INPUT_SET`: `input`, `enable`, `hf_term`, one reserved byte (R556). -/
def parseFeInput (p : List Byte) : Option (Fin 3 × Bool × Bool) :=
  match finOf 3 (getU 1 0 p) with
  | none => none
  | some i =>
    if p.length = 4 ∧ getU 1 1 p ≤ 1 ∧ getU 1 2 p ≤ (if i = 2 then 1 else 0) ∧ getU 1 3 p = 0 then
      some (i, getU 1 1 p == 1, getU 1 2 p == 1)
    else none

/-! ### Times of the front end, in 1/25 tick (R166) -/

/-- One epoch: 65,536 VHF samples or 8,192 HF samples, each in 1/25 tick (R155, R181). -/
def epochUnits : Nat := 65536
/-- One channeliser frame of an input: 256 VHF samples, or 64 HF samples of 8/25 tick (R155, R166). -/
def frameUnits (i : Fin 3) : Nat := if i = 2 then 512 else 256
/-- Frames of one epoch (R155). -/
def framesPerEpoch (i : Fin 3) : Nat := if i = 2 then 128 else 256
/-- The first tick at or after a time in 1/25 tick. -/
def tickUp (t : Nat) : Nat := (t + 24) / 25

/-! ### The Bellows -/

/-- Codes of R163. -/
def bellowsCode : BellowsState → Nat
  | .off => 0 | .acquire => 1 | .track => 2 | .overload => 3 | .recover => 4 | .manual => 5

/-- The device time of a change of an input: the frame boundary that it falls on, else now (R539). -/
def inputTime (now : Nat) (x : FeInput) : Nat :=
  if x.frameTs ≤ 25 * now ∧ 25 * now < x.frameTs + 25 then x.frameTs / 25 else now

/-- The cause of a GI change in a GAIN packet (R540): 0 a fall, 1 a rise, 2 an overload step, 3 the acquire rule, 4 what the host set.
The GI of a foreground calibration counts as set by the host (DESIGN CHOICE, log entry 133). -/
def gainCause (old new : FeInput) : Nat :=
  if (old.giMove.isSome && new.giMove.isNone) || new.state == .manual || (old.state == .off && new.state == .off) then 4
  else if new.state == .acquire then 3
  else if new.stepped then 2
  else if old.gi < new.gi then 0 else 1

/-- The packets that a change of an input brings (R540): STATE of the Bellows, and GAIN. -/
def noteInput (i : Fin 3) (old new : FeInput) (s : State) : State :=
  let t := inputTime s.now new
  let s1 := noteState t 1 i.val (bellowsCode old.state) (bellowsCode new.state) s
  if old.gi = new.gi then s1 else noteTrace t 7 [traceWord i.val old.gi new.gi (gainCause old new)] s1

/-- One input replaced by a function of it. -/
def modInput (s : State) (i : Fin 3) (f : FeInput → FeInput) : State :=
  { s with inputs := vmod s.inputs i f, trace := (noteInput i s.inputs[i] (f s.inputs[i]) s).trace }

/-- One input replaced by a function of it, its GI changes counted in the hardware counter too (R546). -/
def stepInput (s : State) (i : Fin 3) (f : FeInput → FeInput) : State :=
  { modInput s i f with counters := { s.counters with
      gainSteps := vmod s.counters.gainSteps i fun c => c + ((f s.inputs[i]).gainSteps - s.inputs[i].gainSteps) } }

/-- The parameters in force at a time: a change acts from the first frame stamped at or after its stroke (R30). -/
def cfgFor (x : FeInput) (t : Nat) : BellowsCfg := if x.cfgAt * 25 ≤ t then x.cfg else x.oldCfg

/-- Entry to OFF (R157, R183): levels are not measured, steps and timers are discarded, and the slots on the input
are held (R213). -/
def bellowsOff (x : FeInput) : FeInput :=
  { x with state := .off, holdSeen := true, overDue := false, furtherDue := false, giMove := none, noStepAt := none, quietFrom := none, rms := none
           peak := none, acqEpochs := 0, stepped := false }

/-- A gain change takes effect; it counts when the GI moves (R163 `gain_steps`). -/
def setGi (gi : Nat) (x : FeInput) : FeInput :=
  if gi = x.gi then x else { x with gi := gi, gainSteps := bump x.gainSteps 1 }

/-- Entry to ACQUIRE on an epoch boundary, or to MANUAL, when the input counts as enabled (R157, R158, R183). -/
def bellowsEnter (x : FeInput) : FeInput :=
  if x.cfg.manual then { setGi x.cfg.manualGi x with state := .manual, holdEnd := tickUp x.frameTs }
  else { setGi x.cfg.giLow x with state := .acquire, acqEpochs := 1, epochClip := false, holdSeen := true }

/-- Entry to TRACK reports `EV_FRONT_END` (R163); the hold interval starts anew (R159). -/
def enterTrack (quiet : Option Nat) (x : FeInput) : FeInput :=
  { x with state := .track, quietFrom := quiet, reportDue := true }

/-- The Bellows leaves OFF or ACQUIRE for a state that holds no slot, at a device time (R213, R215). -/
def endHold (now : Nat) (x : FeInput) : FeInput := { x with holdEnd := now }

/-- The GI that the acquire rule chooses (R158, step 2), from the levels measured at `gi_low`. -/
def acquireChoice (i : Fin 3) (c : BellowsCfg) (rms peak : Int) : Nat :=
  let ok := fun g =>
    let d := ballFullScale i c.giLow - ballFullScale i g
    rms + d ≤ c.target && peak + d ≤ -70
  match ((List.range (c.giLow + 1 - c.giHigh)).map (c.giHigh + ·)).find? ok with
  | some g => g
  | none => c.giLow

/-- The clipped samples of a frame: those at the top or bottom code of the 14-bit range (R155). -/
def clippedIn (codes : List Int) : Nat := codes.countP fun c => c == 8191 || c == -8192

/-- Whether a frame meets the clip condition (R155): the limit is the one in force when the frame began (R30). -/
def clipMet (clipped : Nat) (x : FeInput) : Bool := x.state != .off && (cfgFor x x.frameTs).clipLimit ≤ clipped

/-- The clip condition's effect at the end of a frame, at time `t` (R157, R160): entry to OVERLOAD with a step of two
due, or a further step where no step waits; at `gi_low` no step is possible, and `floor_clips` counts. -/
def clipFrame (t : Nat) (x : FeInput) : FeInput :=
  let floor := (cfgFor x x.frameTs).giLow ≤ x.gi
  let x1 := { x with
    clipFrames := bump x.clipFrames 1, epochClip := true
    floorClips := if floor then bump x.floorClips 1 else x.floorClips }
  match x1.state with
  | .acquire | .track | .recover =>
    { x1 with state := .overload, holdEnd := if x.state = .acquire then tickUp t else x.holdEnd, overDue := !floor
              furtherDue := false, quietFrom := none, epochWhole := false, reportDue := true, overloadEntries := bump x1.overloadEntries 1 }
  | .overload => { x1 with overDue := x.overDue || !floor, furtherDue := true }
  | _ => x1

/-- Automatic steps that fall due on a frame boundary are discarded: it is the first at or after a stroke on which a
transaction changed the mode, `manual_gi` or a bound (R161). -/
def stepsDiscarded (i : Fin 3) (t : Nat) (x : FeInput) : Bool :=
  match x.noStepAt with
  | some b => b * 25 ≤ t && t < b * 25 + frameUnits i
  | none => false

/-- The gain change that waits for the frame boundary at time `t` (R153, R160, R161): the GI a transaction set, or the
overload step of two, clamped at `gi_low` and counted from the GI in force there. A change restarts the hold interval,
from the next epoch boundary (R159, log entry 81). -/
def takeDueStep (i : Fin 3) (t : Nat) (x : FeInput) : FeInput :=
  let x1 := { x with stepped := false, overDue := false }
  match x.giMove with
  | some g =>
    if x.cfgAt * 25 ≤ t then { setGi g x1 with giMove := none, quietFrom := none }
    else if x.overDue then { setGi (min (x.gi + 2) (cfgFor x t).giLow) x1 with stepped := true, quietFrom := none } else x1
  | none =>
    if x.overDue && !stepsDiscarded i t x then
      { setGi (min (x.gi + 2) (cfgFor x t).giLow) x1 with stepped := true, quietFrom := none }
    else x1

/-- The levels of an epoch, from the samples of one more frame (R155). -/
def countLevels (codes : List Int) (x : FeInput) : FeInput :=
  { x with
    sumSq := x.sumSq + (codes.map fun c => c.natAbs * c.natAbs).sum
    peakCode := (codes.map Int.natAbs).foldl max x.peakCode }

/-- A frame of an input ends (R155, R160, R166). It was taken at the old GI, so that it is tested first; a step that it
makes due waits for the end of the next frame. A further step is none when the GI changes on the boundary on which the
frame ends: the frame was taken wholly before that change (R160). -/
def frameInput (i : Fin 3) (codes : List Int) (x : FeInput) : FeInput :=
  let t := x.frameTs + frameUnits i
  let x1 := if clipMet (clippedIn codes) x then clipFrame t x else x
  let x2 := takeDueStep i t { x1 with overDue := x.overDue }
  let due := x1.overDue && !x.overDue && !(x1.furtherDue && x2.gi != x.gi)
  countLevels codes { x2 with overDue := due, frameNo := x2.frameNo + 1, frameTs := t }

/-- A level of an amplitude in 2^-12 of a code against full scale, in 0.1 dBFS to the nearest (R155, log entry 124). -/
def dbfsOf (a : Nat) : Int := roundDiv (levelOf a 33554432) 10

/-- The wideband RMS of an epoch against a full-scale sine (R155). -/
def epochRms (i : Fin 3) (x : FeInput) : Int :=
  dbfsOf (isqrt 40 (2 * x.sumSq * 16777216 / (if i = 2 then 8192 else 65536)) 0)

/-- The epoch peak (R155). -/
def epochPeak (x : FeInput) : Int := dbfsOf (4096 * x.peakCode)

/-- The end of an epoch at the Bellows, on the boundary at `frameTs` (R155, R158, R159): levels, the acquire rule, the
fall of the track rules, the end of OVERLOAD and the hold interval. A fall gives way to an overload step on the same
boundary (R161), and does away with a further step that the frame just ended made due (R160). -/
def epochInput (i : Fin 3) (x : FeInput) : FeInput :=
  let t := x.frameTs
  let c := cfgFor x t
  let rms := epochRms i x
  let peak := epochPeak x
  let x0 := { x with frameNo := 0, sumSq := 0, peakCode := 0 }
  if x.state = .off then x0
  else
    let x1 := { x0 with rms := some rms, peak := some peak, epochClip := false }
    let fall := c.upper < rms && x.gi < c.giLow && !x.stepped && !stepsDiscarded i t x
    let x2 := if fall then { setGi (x1.gi + 1) x1 with quietFrom := none, overDue := x1.overDue && !x1.furtherDue } else x1
    match x.state with
    | .acquire =>
      if x.acqEpochs = 0 then { setGi c.giLow x1 with acqEpochs := 1 }
      else if x.acqEpochs = 1 then { setGi (acquireChoice i c rms peak) x1 with acqEpochs := 2 }
      else { x1 with acqEpochs := 3 }
    | .track =>
      let quiet := rms < c.lower && peak ≤ -(stepBelow i x.gi + 10)
      { x2 with quietFrom := if fall || !quiet || x.quietFrom.isNone then some t else x.quietFrom }
    | .overload =>
      if x.epochWhole && !x.epochClip then { x2 with state := .recover, recoverFrom := t, epochWhole := false }
      else { x2 with epochWhole := true }
    | .recover => x2
    | _ => x1

/-- ACQUIRE has run its two measured epochs (R158). -/
def acquireDone (x : FeInput) : Bool := x.state == .acquire && x.acqEpochs == 3 && x.frameNo == 0

/-- BELLOWS_ACQUIRE_DONE (R157, R158): after the two measured epochs of ACQUIRE. -/
def execBellowsAcquireDone (i : Fin 3) (s : State) : Out :=
  if acquireDone s.inputs[i] then
    .next (modInput s i fun x => endHold (tickUp x.frameTs) (enterTrack (some x.frameTs) x)) else .next s

/-- The rise of R159 is due on this epoch boundary: the hold interval has lasted `up_hold_ms`, the GI is above
`gi_high`, and no transaction has discarded the step (R161). -/
def riseDue (i : Fin 3) (x : FeInput) : Bool :=
  let c := cfgFor x x.frameTs
  x.state == .track && x.frameNo == 0 && c.giHigh < x.gi && !stepsDiscarded i x.frameTs x &&
    (match x.quietFrom with | some t => t + 25 * ticksOfMs c.upHoldMs ≤ x.frameTs | none => false)

/-- BELLOWS_RISE (R159): on an epoch boundary the GI falls by one, and the hold interval restarts there. -/
def execBellowsRise (i : Fin 3) (s : State) : Out :=
  if riseDue i s.inputs[i] then
    .next (stepInput s i fun x => { setGi (x.gi - 1) x with quietFrom := some x.frameTs })
  else .next s

/-- RECOVER has lasted `recover_ms` (R157). -/
def recoverDue (now : Nat) (x : FeInput) : Bool :=
  x.state == .recover && x.recoverFrom + 25 * ticksOfMs x.cfg.recoverMs ≤ 25 * now

/-- BELLOWS_RECOVER_EXPIRY (R157): to TRACK; the hold interval counts from the next epoch boundary (R159). -/
def execBellowsRecoverExpiry (i : Fin 3) (s : State) : Out :=
  if recoverDue s.now s.inputs[i] then .next (modInput s i (enterTrack none)) else .next s

/-! ### Configuration -/

/-- The end of a hold when a change takes the Bellows out of ACQUIRE. -/
def endHoldIf (now : Nat) (old new : FeInput) : FeInput :=
  if old.state = .acquire ∧ new.state = .manual then endHold now new else new

/-- The four values whose change discards a step that is due (R161) differ. -/
def gainCfgChanged (o n : BellowsCfg) : Bool :=
  o.manual != n.manual || o.manualGi != n.manualGi || o.giHigh != n.giHigh || o.giLow != n.giLow

/-- The GI that new parameters move to (R157, R161): `manual_gi`, or the nearest bound. -/
def movedGi (c : BellowsCfg) (gi : Nat) : Option Nat :=
  if c.manual then some c.manualGi else if gi < c.giHigh then some c.giHigh else if c.giLow < gi then some c.giLow else none

/-- `FE_BELLOWS_SET` applies (R157, R161). The GI moves at the first frame at or after the apply stroke (R153). -/
def applyBellows (i : Fin 3) (c : BellowsCfg) (s : State) : State :=
  modInput s i fun x => endHoldIf s.now x <|
    let changed := gainCfgChanged x.cfg c
    let x1 := { x with cfg := c, oldCfg := cfgFor x (25 * s.now), cfgAt := s.now }
    if x.state = .off then x1
    else
      let x2 := if changed then { x1 with noStepAt := some s.now, giMove := movedGi c x.gi } else x1
      if c.manual then { x2 with state := .manual, overDue := false, quietFrom := none, acqEpochs := 0 }
      else if x.state = .manual then { x2 with state := .acquire, acqEpochs := 0, holdSeen := true }
      else x2

/-- A host slot uses an input: its own, or both VHF inputs for a diversity slot (R172); a census visit is none. -/
def slotOnInput (x : Slot) (i : Fin 3) : Bool :=
  x.state != .free && !x.visit && (if x.tune.type = .fmDiversity then i != 2 else x.tune.input == i)

/-- Some slot of the state uses an input. -/
def inputInUse (s : State) (i : Fin 3) : Bool := s.slots.toList.any (slotOnInput · i)

/-- A diversity slot exists. -/
def diversityExists (s : State) : Bool :=
  s.slots.toList.any fun x => x.state != .free && x.tune.type == .fmDiversity

/-- The domain counts as on for a transaction that applies now (R136): commanded on, by an earlier stroke. -/
def domainUsable (s : State) (n : Fin 8) : Bool :=
  s.power.commanded.getLsbD n.val && (s.power.onSince[n] == 0 || s.power.onSince[n] < curStroke s)

/-- The domain is on as commanded (R136). -/
def domainOn (s : State) (n : Fin 8) : Bool := s.power.commanded.getLsbD n.val

/-- The LNA of an input is powered (R157, R183): not in OFF, where the Bellows stands until epoch 0 of an enable, but for
the foreground, in which Temper sets the gain stages. -/
def lnaOn (s : State) (i : Fin 3) : Bool :=
  s.inputs[i].enabled && (s.inputs[i].state != .off || s.convs[i].state == .foreground)

/-- The domain that holds an input: PD2 for VHF, PD3 for HF (R32). -/
def inputDomain (i : Fin 3) : Fin 8 := if i = 2 then 3 else 2

/-- The refusals of `FE_INPUT_SET` on the state the transaction produces (R148, R149). -/
def judgeFeInput (i : Fin 3) (enable highZ : Bool) (before after : State) : Option Status :=
  if enable && !before.inputs[i].enabled && !domainUsable after (inputDomain i) then some .badState
  else if enable && !domainOn after (inputDomain i) then some .badState
  else if !enable && inputInUse after i then some .badState
  else if !enable && i != 2 && diversityExists after then some .badState
  else if i = 2 && highZ != before.inputs[i].hfHighZ && inputInUse after 2 then some .badState
  else none

/-! ### Status (R163) -/

/-- The 22 bytes of one input in `FE_STATUS_GET` (R163). -/
def feEntry (x : FeInput) : List Byte :=
  u8 (bellowsCode x.state) ++ u8 x.gi ++ optS16 x.rms ++ optS16 x.peak ++ u32 x.clipFrames.toNat
    ++ u32 x.floorClips.toNat ++ u32 x.overloadEntries.toNat ++ u32 x.gainSteps.toNat

/-- The payload of `EV_FRONT_END` (R566). -/
def frontEndEvent (x : FeInput) : List Byte :=
  u8 (bellowsCode x.state) ++ u8 x.gi ++ zeros 2 ++ optS16 x.rms ++ optS16 x.peak ++ u32 x.clipFrames.toNat
    ++ u32 x.overloadEntries.toNat

/-- At a stroke boundary each input whose report is due queues one event with its state there (R163). -/
def strokeFrontEnd (s : State) : State :=
  (List.finRange 3).foldl (fun s i =>
    if s.inputs[i].reportDue then
      modInput (queueEvent s evFrontEnd i.val (frontEndEvent s.inputs[i])) i fun x => { x with reportDue := false }
    else s) s

/-- Parses the request of `FE_STATUS_GET`: one input, or all three (R556). -/
def parseFeStatus (p : List Byte) : Option (List (Fin 3)) :=
  if p.length = 1 then
    if getU 1 0 p = 0xFF then some [0, 1, 2] else (finOf 3 (getU 1 0 p)).map fun i => [i]
  else none

end Sys2Proof.Machine
end

