-- ==== Sys2Proof/Machine/Temper.lean ====
section
/-! DEFINITION. Temper: start-up, foreground calibration, background cycles, save and restore, level tracing
(05_temper_calibration.md, R178 to R204). -/

namespace Sys2Proof.Machine

/-- Units of a converter: nine in V0 and V1, three in H0 (R178). -/
def unitCount (i : Fin 3) : Nat := if i = 2 then 3 else 9
/-- Positions of a converter (R178). -/
def posCount (i : Fin 3) : Nat := unitCount i - 1
/-- Gain indices that the foreground measures (R195). -/
def giCount (i : Fin 3) : Nat := if i = 2 then 6 else 8

/-- Codes of R201. -/
def temperCode : TemperState → Nat
  | .off => 0 | .startup => 1 | .foreground => 2 | .wait => 3 | .cycle => 4 | .degraded => 5 | .fault => 6

/-- One converter replaced by a function of it; a change of its state brings a STATE packet (R540). -/
def modConv (s : State) (i : Fin 3) (f : TemperConv → TemperConv) : State :=
  { s with
    convs := vmod s.convs i f
    trace := (noteState (inputTime s.now s.inputs[i]) 2 i.val (temperCode s.convs[i].state) (temperCode (f s.convs[i]).state) s).trace }

/-- The converter temperature in 0.01 °C: the mean of the readings held, each in 0.125 °C (R191), rounded to the
nearest with halves up; before the first reading of an enable, T_last (DESIGN CHOICE, log entry 82). -/
def convTemp (v : TemperConv) : Int :=
  if v.readings.isEmpty then v.tLast else roundDiv (v.readings.sum * 25) (2 * v.readings.length)

/-- A measured value lies in the range in service (R179). -/
def inService (u : UnitValues) : Bool :=
  u.offset.natAbs ≤ 1024 && u.gain.natAbs ≤ 7864 && u.skew.natAbs ≤ 10000 && u.bandwidth.natAbs ≤ 13107

/-- The range in which `gi_phase` is accepted (R179); the other fields are accepted in the whole range of an s16. -/
def giAccepted (phase : Int) : Bool := -18000 ≤ phase && phase ≤ 18000

/-- The active set of a unit takes new values (R182). -/
def withValues (t : TemperUnit) (u : UnitValues) : TemperUnit :=
  { t with offset := u.offset, gain := u.gain, skew := u.skew, bandwidth := u.bandwidth }

/-- The active set of a unit as values. -/
def activeSet (t : TemperUnit) : UnitValues := ⟨t.offset, t.gain, t.skew, t.bandwidth⟩

/-- The last completed measurement of a unit: its pending set, or the active set where none waits (R182, R196). -/
def lastMeasured (t : TemperUnit) : UnitValues := t.pend.getD (activeSet t)

/-- The numbers of the retired units. -/
def retiredUnits (v : TemperConv) : List Nat := ((List.range v.units.length).zip v.units).filterMap fun e => if e.2.retired then some e.1 else none

/-- The retired units as a mask (R197 `retired_units`, R566 `detail`). -/
def retiredMask (v : TemperConv) : Nat := ((retiredUnits v).map (2 ^ ·)).sum

/-- The number that stands for a position no unit serves, which FAULT alone leaves (log entry 83). -/
def noUnit : Nat := 15

/-- Units placed as after a foreground (R195, R198): those not retired serve positions 0 upwards in ascending number,
and the highest-numbered is the spare; with one retired there is no spare; with more, positions stay empty. -/
def placeUnits (i : Fin 3) (v : TemperConv) : TemperConv :=
  let good := (List.range (unitCount i)).filter fun u => !(retiredUnits v).contains u
  { v with
    map := good.take (posCount i) ++ List.replicate (posCount i - good.length) noUnit, spare := good[posCount i]? }

/-! ### Corrections applied to samples (R178, R153) -/

/-- The unit that took converter sample n, by the position n mod 8 or n mod 2 (R178). -/
def unitAt (i : Fin 3) (v : TemperConv) (n : Nat) : TemperUnit :=
  v.units.getD (v.map.getD (n % posCount i) noUnit) TemperUnit.reset

/-- Offset and gain act first (R178): x' = (x − offset/16) × (1 + gain × 2⁻¹⁸), here in units of 2⁻²². -/
def offsetGain (t : TemperUnit) (x : Int) : Int := (16 * x - t.offset) * (262144 + t.gain)

/-- The compensation values of a GI (R153, R195): `gi_gain` in 0.001 dB and `gi_phase` in 0.01 degrees. -/
def giValues (v : TemperConv) (gi : Nat) : Int × Int := v.giComp.getD gi (0, 0)

/-- The samples of a frame after offset and gain, each with the values of the unit that took it and of the GI in force,
which change on the same sample (R153, R178, R182). A frame begins at position 0. -/
def tagSamples (i : Fin 3) (v : TemperConv) (gi : Nat) (codes : List Int) : List ConvSample :=
  let g := giValues v gi
  ((List.range codes.length).zip codes).map fun e =>
    let t := unitAt i v e.1
    ⟨offsetGain t e.2, t.skew, t.bandwidth, gi, g.1, g.2⟩

/-- The 15th of 31 samples through the correction filter and the GI compensation (R153, R178): skew and bandwidth of the
unit that took it set the 31 weights, for which the spec has no formula, and the nominal step of the GI and its measured
values bring the sample to the level of GI 0, where full scale is 2^32. -/
def correctSample (i : Fin 3) (w : List ConvSample) : Int :=
  let c := w.getD 15 ConvSample.reset
  let y := Int.tdiv ((((List.range 31).zip w).map fun e => Config.correctionTap c.skew c.bandwidth (30 - e.1) * e.2.value).sum)
    (8 * unitOne)
  Config.giCompensation c.giGain c.giPhase
    (Int.tdiv (y * gainUnit (10 * (ballFullScale i c.gi - ballFullScale i 0))) unitOne)

/-- The corrected samples of a run, oldest first: one for each sample that has 15 others on either side (R178). -/
def correctRun (i : Fin 3) (l : List ConvSample) : List Int :=
  (List.range (l.length - 30)).map fun k => correctSample i ((l.drop k).take 31)

/-- The samples that the analysis response of an input's bank reaches (R174). -/
def lineLength (i : Fin 3) : Nat := if i = 2 then 1024 else 4096

/-- The samples of a frame enter the correction and then the line ahead of the channeliser (R153, R178); the filter looks
15 samples ahead. -/
def takeSamples (i : Fin 3) (v : TemperConv) (codes : List Int) (x : FeInput) : FeInput :=
  let l := List.replicate (30 - x.tail.length) ConvSample.reset ++ x.tail ++ tagSamples i v x.gi codes
  { x with tail := l.drop (l.length - 30), line := ((correctRun i l).reverse ++ x.line).take (lineLength i) }

/-! ### Triggers and starts -/

/-- The parameters in force on the epoch boundary at time `t` (R192). -/
def temperCfgFor (v : TemperConv) (t : Nat) : TemperCfg := if v.cfgAt * 25 ≤ t then v.cfg else v.oldCfg

/-- A request that applied on a stroke counts on the epoch boundary at time `t` (R191, R193). -/
def requestIn (req : Option Nat) (t : Nat) : Bool := req.any fun b => b * 25 ≤ t

/-- Whether a trigger of R191 stands on the epoch boundary at time `t`, apart from the state. -/
def triggerMet (t : Nat) (v : TemperConv) : Bool :=
  let c := temperCfgFor v t
  c.background &&
    (c.tempDelta ≤ (convTemp v - v.tLast).natAbs
      || (c.maxIntervalS != 0 && v.intervalFrom + c.maxIntervalS * 614400000 ≤ t)
      || requestIn v.bgPending t)

/-- The pending sets of the units discarded (R182, R185). -/
def dropPending (v : TemperConv) : TemperConv := { v with units := v.units.map fun t => { t with pend := none } }

/-- A background cycle starts on the boundary at time `t` (R187, R191). -/
def startCycle (t : Nat) (v : TemperConv) : TemperConv :=
  { v with state := .cycle, phase := .measure, step := 0, phaseLeft := 64, verifyFails := 0, verifyVoid := false
           lastStart := t, cycleTemp := convTemp v, bgPending := none, result := 0, failedPos := none }

/-- Epochs of the first part of a foreground (R195). -/
def unitsPart (i : Fin 3) : Nat := if i = 2 then 1300 else 800

/-- The GI that Temper sets for the measurement in progress after `done` epochs of a foreground (R183, R195): none
while the units are measured, then each GI in turn for 250 epochs. -/
def foregroundGi (i : Fin 3) (done : Nat) : Option Nat :=
  if done < unitsPart i then none
  else if (done - unitsPart i) / 250 < giCount i then some ((done - unitsPart i) / 250) else none

/-- A foreground calibration starts on this boundary (R183, R195): the Bellows enters OFF. -/
def startForeground (i : Fin 3) (s : State) : State :=
  let s1 := modConv s i fun v =>
    { dropPending v with state := .foreground, fgLeft := 2800, fgPending := none, lastStart := s.inputs[i].frameTs }
  modInput s1 i bellowsOff

/-- The state a converter with corrections enters when it has no cycle to run (R184, R190). -/
def restState (v : TemperConv) : TemperState :=
  match (retiredUnits v).length with
  | 0 => .wait
  | 1 => .degraded
  | _ => .fault

/-- Milliseconds between two times in 1/25 tick, rounded to the nearest, halves up (R202). -/
def msBetween (a b : Nat) : Nat := (2 * (b - a) + 614400) / (2 * 614400)

/-- `EV_TEMPER_DONE` (R202, R566), followed by `EV_FAULT` for a result of FAULT. -/
def temperDone (i : Fin 3) (kind result : Nat) (s : State) : State :=
  let v := s.convs[i]
  let s1 := queueEvent s evTemperDone i.val
    (u8 result ++ u8 kind ++ u8 (temperCode v.state) ++ opt8 (retiredUnits v).head? ++ s16 (convTemp v)
      ++ opt8 v.failedPos ++ zeros 1 ++ u32 v.cycleCount.toNat ++ u32 (msBetween v.lastStart v.lastEnd))
  if result = 3 then raiseFault s1 1 i.val (retiredMask v) else s1

/-! ### Boundaries and the ends of phases -/

/-- The count of epochs left in what the converter is doing, at one epoch boundary (R181, R187, R195). -/
def epochConv (reading : Int) (v : TemperConv) : TemperConv :=
  let v1 := { v with readings := (reading :: v.readings).take 64 }
  match v.state with
  | .startup => { v1 with startupLeft := v.startupLeft - 1 }
  | .foreground => { v1 with fgLeft := v.fgLeft - 1, epoch := v.epoch + 1 }
  | .cycle => { v1 with phaseLeft := v.phaseLeft - 1, epoch := v.epoch + 1 }
  | _ => { v1 with epoch := v.epoch + 1 }

/-- One epoch of a level trace on an input has passed (R204). -/
def countTrace (i : Fin 3) : Option ActiveOp → Option ActiveOp
  | some ⟨.levelTrace j point freq level left, b, t⟩ =>
    some ⟨.levelTrace j point freq level (if j = i then left.map (· - 1) else left), b, t⟩
  | o => o

/-- Whether an epoch has ended (R155, R181): its frames have, or in start-up its 106.67 µs have passed. -/
def epochEnded (i : Fin 3) (s : State) : Bool :=
  let x := s.inputs[i]
  match s.convs[i].state with
  | .off => false
  | .startup => 0 < s.convs[i].startupLeft && x.frameTs + epochUnits ≤ 25 * s.now
  | _ => x.frameNo == framesPerEpoch i

/-- Temper sets the gain stages for the measurement of a foreground that begins on this boundary (R183, R195). -/
def foregroundGain (i : Fin 3) (s : State) : State :=
  match s.convs[i].state, foregroundGi i (2800 - s.convs[i].fgLeft) with
  | .foreground, some g => stepInput s i (setGi g)
  | _, _ => s

/-- EPOCH_BOUNDARY (R155, R159, R181, R182, R191, R193, R204): the Bellows measures the epoch that ended, the
temperature is read, and a foreground request is served in WAIT. -/
def execEpochBoundary (i : Fin 3) (temperature : Int) (s : State) : Out :=
  if epochEnded i s then
    let s1 := if s.convs[i].state = .startup then modInput s i fun x => { x with frameTs := x.frameTs + epochUnits }
      else stepInput s i (epochInput i)
    let s2 := foregroundGain i { modConv s1 i (epochConv temperature) with ops := s.ops.map (countTrace i) }
    .next (if s.convs[i].state = .wait ∧ requestIn s.convs[i].fgPending s2.inputs[i].frameTs then startForeground i s2 else s2)
  else .next s

/-- The restored values take force at epoch 0 (R198): units, arrangement, GI compensation, level points and T_last. -/
def takeRestored (i : Fin 3) (v : TemperConv) : TemperConv :=
  match v.restored with
  | none => v
  | some b => placeUnits i { v with
      units := b.units, giComp := b.giComp, levels := b.levels, tLast := b.tLast, restored := none }

/-- The converter begins to serve its input: the Bellows counts as enabled from this boundary (R183). -/
def beginFrames (i : Fin 3) (s : State) : State := stepInput s i bellowsEnter

/-- The converter has run its 8 epochs of start-up (R181). -/
def startupDone (v : TemperConv) : Bool := v.state == .startup && v.startupLeft == 0

/-- TEMPER_STARTUP_DONE (R184, R190, R198, R199): epoch 0 begins at `frameTs`. Restored values take force there. -/
def execTemperStartupDone (i : Fin 3) (s : State) : Out :=
  let t := s.inputs[i].frameTs
  if startupDone s.convs[i] then
    let v := s.convs[i]
    let v1 := { takeRestored i v with epoch := 0, intervalFrom := if v.restored.isSome then t else v.intervalFrom }
    let s1 := modConv (modInput s i fun x => { x with frameNo := 0 }) i fun _ => v1
    if !v.valid || requestIn v.fgPending t then .next (startForeground i s1)
    else
      let rest := restState v1
      let v2 := if rest = .wait ∧ triggerMet t v1 then startCycle t v1 else { v1 with state := rest }
      let s2 := beginFrames i (modConv s1 i fun _ => v2)
      .next (if rest = .fault then raiseFault s2 1 i.val (retiredMask v2) else s2)
  else .next s

/-- The values of a foreground calibration taken into the units (R195). A unit is retired when its new measurement lies
outside the range in service, and returns to service when it does not (R190; DESIGN CHOICE, log entry 83). -/
def foregroundUnits (units : List UnitValues) (v : TemperConv) : List TemperUnit :=
  (List.range v.units.length).map fun k =>
    match units[k]? with
    | some u => { withValues (v.units.getD k TemperUnit.reset) u with retired := !inService u, pend := none }
    | none => v.units.getD k TemperUnit.reset

/-- What a foreground measures: every unit and every GI (R195). -/
def measuresAll (i : Fin 3) (units : List UnitValues) (gi : List (Int × Int)) : Bool :=
  units.length == unitCount i && gi.length == giCount i

/-- A foreground has run its 2,800 epochs (R195). -/
def foregroundOver (v : TemperConv) : Bool := v.state == .foreground && v.fgLeft == 0

/-- FOREGROUND_DONE (R183, R184, R190, R195): 2,800 epochs have passed. T_last is the temperature at the end, as R195
has it (DEDUCED, log entry 84). -/
def execForegroundDone (i : Fin 3) (units : List UnitValues) (gi : List (Int × Int)) (s : State) : Out :=
  let v := s.convs[i]
  if foregroundOver v && measuresAll i units gi then
    let v1 := placeUnits i { v with
      units := foregroundUnits units v, giComp := gi, valid := true, giValid := true
      tLast := convTemp v, lastEnd := s.inputs[i].frameTs, intervalFrom := v.lastStart, failedPos := none }
    let v2 := { v1 with state := restState v1 }
    let result := match restState v1 with | .wait => 0 | .degraded => 2 | _ => 3
    .next (temperDone i 1 result (stepInput (modConv s i fun _ => v2) i bellowsEnter))
  else .next s

/-- A cycle starts on this epoch boundary (R191): in WAIT, with no foreground request to serve first (R193). -/
def cycleDue (i : Fin 3) (s : State) : Bool :=
  let t := s.inputs[i].frameTs
  s.convs[i].state == .wait && s.inputs[i].frameNo == 0 && !requestIn s.convs[i].fgPending t && triggerMet t s.convs[i]

/-- TEMPER_CYCLE_START (R191): a trigger is met on an epoch boundary in WAIT. -/
def execTemperCycleStart (i : Fin 3) (s : State) : Out :=
  if cycleDue i s then .next (modConv s i (startCycle s.inputs[i].frameTs)) else .next s

/-- One unit replaced in the list of units. -/
def setUnit (k : Nat) (f : TemperUnit → TemperUnit) (v : TemperConv) : TemperConv :=
  { v with units := (List.range v.units.length).map fun j =>
      let u := v.units.getD j TemperUnit.reset
      if j = k then f u else u }

/-- A unit retires (R190): the cycle ends with `UNIT_RETIRED`, its measurement discarded. -/
def retireUnit (k : Nat) (v : TemperConv) : TemperConv :=
  { setUnit k (fun t => { t with retired := true, pend := none }) v with
    spare := none, phase := .ended, phaseLeft := 0, result := 2 }

/-- A measurement of 64 epochs has ended (R187). -/
def measureOver (v : TemperConv) : Bool :=
  v.state == .cycle && (v.phase == .measure || v.phase == .lastMeasure) && v.phaseLeft == 0

/-- TEMPER_MEASURE_DONE (R187, R190): the spare's 64 epochs end. Its values go into its pending set for the verify, or,
at the last measurement, take force as the cycle ends. -/
def execTemperMeasureDone (i : Fin 3) (u : UnitValues) (s : State) : Out :=
  let v := s.convs[i]
  if measureOver v then
    match v.spare with
    | none => .next s
    | some k =>
      if !inService u then .next (modConv s i (retireUnit k))
      else if v.phase = .measure then
        .next (modConv s i fun v =>
          { setUnit k (fun t => { t with pend := some u }) v with phase := .verify, phaseLeft := 1, verifyVoid := false })
      else .next (modConv s i fun v =>
        { setUnit k (fun t => { withValues t u with pend := none }) v with phase := .ended, result := 0 })
  else .next s

/-- The gate of R188: offset ±2 LSB, gain ±0.01 dB (in 10⁻⁶ dB here), skew ±100 fs. -/
def verifyPasses (offset gainUdb skew : Int) : Bool :=
  offset.natAbs ≤ 32 && gainUdb.natAbs ≤ 10000 && skew.natAbs ≤ 100

/-- The swap of R187, on an epoch boundary (R182): the spare takes position `step` with its pending set in force, the
unit it replaces becomes the spare, and the next step begins, or the last measurement after the last position. -/
def swapUnits (i : Fin 3) (v : TemperConv) : TemperConv :=
  match v.spare with
  | none => v
  | some k =>
    let v1 := setUnit k (fun t => { withValues t (lastMeasured t) with pend := none }) v
    let v2 := { v1 with map := v.map.set v.step k, spare := v.map[v.step]?, verifyFails := 0, phaseLeft := 64 }
    if v.step + 1 < posCount i then { v2 with step := v.step + 1, phase := .measure } else { v2 with phase := .lastMeasure }

/-- A verify epoch has ended (R188). -/
def verifyOver (v : TemperConv) : Bool := v.state == .cycle && v.phase == .verify && v.phaseLeft == 0

/-- A TEMPER packet of a swap (R540): the position, the unit in and the unit out, and the epoch. -/
def noteSwap (i : Fin 3) (before : TemperConv) (s : State) : State :=
  noteTrace (inputTime s.now s.inputs[i]) 8
    [traceWord i.val before.step (before.spare.getD 0xFF) (before.map.getD before.step 0xFF), BitVec.ofNat 32 before.epoch] s

/-- TEMPER_VERIFY (R188): a void epoch is repeated; a pass swaps; a failure cancels the swap, and the third failure
at one position ends the cycle with `VERIFY_FAILED`. The measurement stays the spare's last one (R196). -/
def execTemperVerify (i : Fin 3) (offset gainUdb skew : Int) (s : State) : Out :=
  let v := s.convs[i]
  if verifyOver v then
    if v.verifyVoid then
      .next (modConv s i fun v => { v with verifyVoid := false, phaseLeft := 1, verifyRepeats := bump v.verifyRepeats 1 })
    else if verifyPasses offset gainUdb skew then
      .next (noteSwap i v { modConv s i (swapUnits i) with
        counters := { s.counters with temperSwaps := vmod s.counters.temperSwaps i (bump · 1) } })
    else if v.verifyFails + 1 < 3 then
      .next (modConv s i fun v =>
        { v with verifyFails := v.verifyFails + 1, verifyFailures := bump v.verifyFailures 1, phase := .measure
                 phaseLeft := 64 })
    else
      .next (modConv s i fun v =>
        { v with verifyFailures := bump v.verifyFailures 1, phase := .ended, result := 1, failedPos := some v.step })
  else .next s

/-- A cycle has run to its end (R187, R188, R190). -/
def cycleOver (v : TemperConv) : Bool := v.state == .cycle && v.phase == .ended

/-- TEMPER_CYCLE_END (R184, R187, R191, R193, R202): the cycle counts, T_last is its start's temperature, and a
foreground request that waits is served on this boundary, or discarded by DEGRADED or FAULT. -/
def execTemperCycleEnd (i : Fin 3) (s : State) : Out :=
  let v := s.convs[i]
  if cycleOver v then
    let v1 := { v with
      cycleCount := bump v.cycleCount 1, tLast := v.cycleTemp, intervalFrom := v.lastStart, lastEnd := s.inputs[i].frameTs
      phase := .idle, state := restState v }
    let v2 := if restState v = .wait then v1 else { v1 with fgPending := none }
    let s1 := temperDone i 0 v.result (modConv s i fun _ => v2)
    .next (if requestIn v2.fgPending s.inputs[i].frameTs then startForeground i s1 else s1)
  else .next s

/-- Something that the epoch boundary just reached brings has not happened yet; the next frame begins after it (R182). -/
def boundaryWork (i : Fin 3) (s : State) : Bool :=
  let v := s.convs[i]
  startupDone v || foregroundOver v || measureOver v || verifyOver v || cycleOver v || cycleDue i s
    || acquireDone s.inputs[i] || riseDue i s.inputs[i]

/-- A frame of an input can end (R155, R166, R181): frames are produced, the epoch has one to come, its time has come,
and what the boundary brings is in force. -/
def frameOpen (i : Fin 3) (s : State) : Bool :=
  let x := s.inputs[i]
  x.enabled && s.convs[i].state != .off && s.convs[i].state != .startup && x.frameNo < framesPerEpoch i
    && x.frameTs + frameUnits i ≤ 25 * s.now && !boundaryWork i s

/-- A frame inside a verify epoch voids it (R188): a GI change takes effect at its end, short of the epoch's own, or it
meets the clip condition. -/
def voidsVerify (i : Fin 3) (codes : List Int) (x new : FeInput) : Bool :=
  clipMet (clippedIn codes) x || (new.gi != x.gi && new.frameNo < framesPerEpoch i)

/-- What a frame does to its input and its converter (R155, R160, R166, R178, R188). -/
def frameEnds (i : Fin 3) (codes : List Int) (s : State) : State :=
  let x := s.inputs[i]
  let s1 := stepInput s i fun x => frameInput i codes (takeSamples i s.convs[i] codes x)
  let s2 := { s1 with counters := { s1.counters with
    clipFrames := vmod s1.counters.clipFrames i fun c => if clipMet (clippedIn codes) x then bump c 1 else c } }
  if s.convs[i].state = .cycle ∧ s.convs[i].phase = .verify ∧ voidsVerify i codes x s1.inputs[i] then
    modConv s2 i fun v => { v with verifyVoid := true }
  else s2

/-! ### Enabling and disabling an input (R148, R181, R185) -/

/-- An input is enabled: its converter starts up, its counters start at zero (R163, R181, R191, R201). -/
def enableInput (i : Fin 3) (s : State) : State :=
  let s1 := modInput s i fun x =>
    { bellowsOff x with enabled := true, clipFrames := 0, floorClips := 0, overloadEntries := 0, gainSteps := 0
                        frameNo := 0, frameTs := 25 * s.now
                        tail := [], line := [], sumSq := 0, peakCode := 0 }
  modConv s1 i fun v => { v with state := .startup, startupLeft := 8, readings := [], cycleCount := 0, epoch := 0, phase := .idle }

/-- A foreground request that applied on an earlier stroke is discarded (R193). -/
def dropRequest (now : Nat) (v : TemperConv) : TemperConv :=
  { v with fgPending := if v.fgPending.any (· < now) then none else v.fgPending }

/-- The level trace of an input that is disabled has nothing more to measure (R204). -/
def voidTrace (i : Fin 3) : Option ActiveOp → Option ActiveOp
  | some ⟨.levelTrace j point freq level left, b, t⟩ => some ⟨.levelTrace j point freq level (if j = i then none else left), b, t⟩
  | o => o

/-- An input is disabled (R157, R184, R185, R193): cycle or foreground abandoned, pending values discarded. A report of
R163 that an entry earlier in the stroke made due stays due. -/
def disableInput (i : Fin 3) (s : State) : State :=
  let s1 := modInput { s with ops := s.ops.map (voidTrace i) } i fun x => { bellowsOff x with enabled := false }
  modConv s1 i fun v => { dropRequest s.now (dropPending v) with state := .off, phase := .idle, phaseLeft := 0, fgLeft := 0 }

/-- `FE_INPUT_SET` applies (R148, R149). -/
def applyFeInput (i : Fin 3) (enable highZ : Bool) (s : State) : State :=
  let s1 := modInput s i fun x => { x with hfHighZ := highZ }
  if enable && !s.inputs[i].enabled then enableInput i s1
  else if !enable && s.inputs[i].enabled then disableInput i s1
  else s1

/-! ### Commands -/

/-- Parses `TEMPER_SET`: `converter`, then R192 (6 bytes). -/
def parseTemperSet (p : List Byte) : Option (Fin 3 × TemperCfg) :=
  match finOf 3 (getU 1 0 p) with
  | none => none
  | some i =>
    if p.length = 6 ∧ getU 1 1 p ≤ 1 ∧ 50 ≤ getU 2 2 p ∧ getU 2 2 p ≤ 1000 ∧ getU 2 4 p ≤ 3600 then
      some (i, ⟨getU 1 1 p == 1, getU 2 2 p, getU 2 4 p⟩)
    else none

/-- `TEMPER_SET` applies (R192): the values are used from the first epoch boundary at or after the stroke. -/
def applyTemperSet (i : Fin 3) (c : TemperCfg) (s : State) : State :=
  modConv s i fun v => { v with cfg := c, oldCfg := temperCfgFor v (25 * s.now), cfgAt := s.now }

/-- Parses `TEMPER_RUN`: `converter`, `kind` (R556). -/
def parseTemperRun (p : List Byte) : Option (Fin 3 × Bool) :=
  match finOf 3 (getU 1 0 p) with
  | none => none
  | some i => if p.length = 2 ∧ getU 1 1 p ≤ 1 then some (i, getU 1 1 p == 1) else none

/-- The refusals of a foreground request on the state the transaction produces (R193). -/
def judgeTemperRun (i : Fin 3) (foreground : Bool) (after : State) : Option Status :=
  if foreground && (inputInUse after i || [.foreground, .cycle, .degraded, .fault].contains after.convs[i].state) then
    some .badState
  else none

/-- `TEMPER_RUN` applies: the request is pending from this stroke; a second one changes nothing (R191, R193). -/
def applyTemperRun (i : Fin 3) (foreground : Bool) (s : State) : State :=
  modConv s i fun v =>
    if foreground then { v with fgPending := v.fgPending.or (some s.now) }
    else { v with bgPending := v.bgPending.or (some s.now) }

/-- The entry of one unit in the blob (R197). -/
def unitBytes (u : UnitValues) : List Byte := s16 u.offset ++ s16 u.gain ++ s16 u.skew ++ s16 u.bandwidth

/-- The values of the units that a blob carries (R196): those in force, and for the spare its last completed
measurement. -/
def blobUnits (v : TemperConv) : List UnitValues :=
  (List.range v.units.length).map fun k =>
    let t := v.units.getD k TemperUnit.reset
    if v.spare = some k then lastMeasured t else activeSet t

/-- The first 0xBC bytes of the blob of a converter (R196, R197). -/
def blobBody (i : Fin 3) (serial : Nat) (v : TemperConv) : List Byte :=
  let units := blobUnits v
  u32 0x31504D54 ++ u16 1 ++ u8 i.val ++ u8 (unitCount i) ++ u64 serial ++ s16 v.tLast
    ++ u16 (bitAt v.valid 0 + bitAt v.giValid 1 + 4 * v.levels.length) ++ u32 v.cycleCount.toNat ++ u16 (retiredMask v)
    ++ zeros 6 ++ ((units.take 9).flatMap unitBytes) ++ zeros (8 * (9 - units.length))
    ++ ((v.giComp.take 8).flatMap fun g => s16 g.1 ++ s16 g.2) ++ zeros (4 * (8 - v.giComp.length))
    ++ ((v.levels.take 4).flatMap fun l => u32 l.freqKhz ++ s16 l.traceCdb ++ zeros 2) ++ zeros (8 * (4 - v.levels.length))
    ++ zeros 20

/-- The 192-byte blob (R197). -/
def blobBytes (i : Fin 3) (serial : Nat) (v : TemperConv) : List Byte :=
  let b := blobBody i serial v
  b ++ u32 (crc32 b).toNat

/-- `TEMPER_SAVE` is refused in OFF without valid corrections, in STARTUP and in FOREGROUND (R196). -/
def saveRefused (v : TemperConv) : Bool :=
  v.state == .startup || v.state == .foreground || (v.state == .off && !v.valid)

/-- The checks of a blob that do not depend on the state of the converter (R198). -/
def blobOk (i : Fin 3) (serial : Nat) (b : List Byte) : Bool :=
  let flags := getU 2 0x12 b
  let points := flags / 4 % 8
  b.length == 192 && getU 4 0 b == 0x31504D54 && getU 2 4 b == 1 && getU 4 0xBC b == (crc32 (b.take 0xBC)).toNat
    && getU 1 6 b == i.val && getU 1 7 b == unitCount i && getU 8 8 b == serial
    && flags % 4 == 3 && flags / 32 == 0 && points ≤ 4
    && zeroAt 6 0x1A b && zeroAt (8 * (9 - unitCount i)) (0x20 + 8 * unitCount i) b
    && zeroAt (4 * (8 - giCount i)) (0x68 + 4 * giCount i) b
    && zeroAt (8 * (4 - points)) (0x88 + 8 * points) b && zeroAt 20 0xA8 b
    && ((List.range points).all fun k => zeroAt 2 (0x88 + 8 * k + 6) b)
    && ((List.range (giCount i)).all fun k => giAccepted (getS 2 (0x6A + 4 * k) b))

/-- Parses `TEMPER_RESTORE`: `converter`, 3 reserved bytes, the blob; `serial` is that of this unit (R198). -/
def parseTemperRestore (serial : Nat) (p : List Byte) : Option (Fin 3 × TemperBlob) :=
  match finOf 3 (getU 1 0 p) with
  | none => none
  | some i =>
    if p.length = 196 ∧ zeroAt 3 1 p ∧ blobOk i serial (p.drop 4) then some (i, ⟨p.drop 4⟩) else none

/-- Accepted while the input is disabled in the state in force, or in the transaction that enables it (R198). -/
def judgeTemperRestore (i : Fin 3) (before : State) : Option Status :=
  if before.inputs[i].enabled then some .badState else none

/-- The values that a blob holds for a converter (R197). -/
def blobValues (i : Fin 3) (b : List Byte) : RestoredSet :=
  { units := (List.range (unitCount i)).map fun k =>
      { offset := getS 2 (0x20 + 8 * k) b, gain := getS 2 (0x22 + 8 * k) b, skew := getS 2 (0x24 + 8 * k) b
        bandwidth := getS 2 (0x26 + 8 * k) b, retired := (getU 2 0x18 b) / 2 ^ k % 2 == 1, pend := none }
    giComp := (List.range (giCount i)).map fun k => (getS 2 (0x68 + 4 * k) b, getS 2 (0x6A + 4 * k) b)
    levels := (List.range (getU 2 0x12 b / 4 % 8)).map fun k => ⟨getU 4 (0x88 + 8 * k) b, getS 2 (0x8C + 8 * k) b⟩
    tLast := getS 2 0x10 b }

/-- `TEMPER_RESTORE` applies (R186, R198): the converter has valid corrections, which take force at epoch 0. Until then the
blob of R196 carries the values in force before, with both flags valid (DESIGN CHOICE, log entry 113). -/
def applyTemperRestore (i : Fin 3) (blob : TemperBlob) (s : State) : State :=
  modConv s i fun v => { v with restored := some (blobValues i blob.bytes), valid := true, giValid := true }

/-- The nibbles of `map` (R201): the units at the positions, then the spare or 0xF. -/
def mapNibbles (v : TemperConv) : Nat :=
  (v.map ++ [v.spare.getD 0xF]).foldr (fun u acc => u + 16 * acc) 0

/-- `TEMPER_STATUS_GET` after `stroke` (R201): times are in whole ticks. During the last measurement of a cycle, when no
i is current, `step` keeps the last one (DESIGN CHOICE, log entry 85). -/
def temperStatus (v : TemperConv) : List Byte :=
  u8 (temperCode v.state) ++ u64 (mapNibbles v) ++ opt8 (if v.state = .cycle then some v.step else none)
    ++ optS16 (if v.state = .off then none else some (convTemp v)) ++ s16 v.tLast ++ u32 v.cycleCount.toNat
    ++ u32 v.verifyRepeats.toNat ++ u32 v.verifyFailures.toNat ++ u64 (v.lastStart / 25) ++ u64 (v.lastEnd / 25)

/-- Parses `TEMPER_LEVEL_TRACE`: `input`, `point`, `freq_khz`, `level_cdbm` (R204). -/
def parseLevelTrace (p : List Byte) : Option (Fin 3 × Nat × Nat × Int) :=
  match finOf 3 (getU 1 0 p) with
  | none => none
  | some i => if p.length = 8 ∧ getU 1 1 p ≤ 3 then some (i, getU 1 1 p, getU 4 2 p, getS 2 6 p) else none

/-- The epoch boundaries that the measurement of a level trace takes (R204): 64 whole epochs, the first of which begins
on the boundary reached, or on the next one. -/
def traceEpochs (x : FeInput) : Nat := if x.frameNo = 0 then 64 else 65

/-- When `TEMPER_LEVEL_TRACE` is accepted (R204). -/
def levelTraceOk (i : Fin 3) (s : State) : Bool :=
  s.convs[i].state == .wait && !inputInUse s i && s.inputs[i].state == .manual

/-- A level-trace point written into the converter's values (R204); points below it that no trace has written are held
as zero entries (log entry 20). -/
def setLevel (point : Nat) (l : LevelPoint) (v : TemperConv) : TemperConv :=
  { v with levels := (v.levels ++ List.replicate (point + 1 - v.levels.length) LevelPoint.reset).set point l }

/-- TEMPER_LEVEL_TRACE_DONE (R204, R94): the tone measurement ends after its 64 epochs. One whose input has been disabled
meanwhile finds no tone (DESIGN CHOICE, log entry 122). -/
def execTemperLevelTraceDone (ch : Fin 4) (t : ToneReading) (s : State) : Out :=
  match opOf s ch with
  | some ⟨.levelTrace i point freq level left, _, _⟩ =>
    let corr := level - t.cdbm
    if left.any (0 < ·) then .next s
    else if abortLanded s ch then .next (respond ch .aborted [] s)
    else if left.isNone || !t.found || t.dbfs < -600 then .next (respond ch .timeout [] s)
    else if -60 < t.dbfs || 1000 < corr.natAbs then .next (respond ch .badParam [] s)
    else .next (completeOp ch (s16 corr) (noteMark ch (modConv s i (setLevel point ⟨freq, corr⟩))))
  | _ => .next s

end Sys2Proof.Machine
end

