-- ==== Sys2Proof/Machine/Tuner.lean ====
section
/-! DEFINITION. The coarse channeliser, the slot tuners, the slot-chain ROM and the diversity combiner
(04_front_end_channeliser.md, R166 to R177; 06_slots_fm_am.md, R209, R222). Times are in 1/25 tick. -/

namespace Sys2Proof.Machine

/-- Plain FM and FM diversity are one class; AM and DAB are the others (R208). -/
def classOf : SlotType → Nat
  | .fm => 0 | .fmDiversity => 0 | .am => 1 | .dab => 2

def isFm (t : SlotType) : Bool := classOf t == 0

/-! ### The channeliser plan (R167) -/

/-- The plan of a bank: bins, spacing in Hz, samples of one hop, rate per bin in Hz, and the bins that lie within the
input range. -/
structure BankPlan where
  bins : Nat
  spacing : Nat
  hop : Nat
  binRate : Nat
  firstBin : Nat
  lastBin : Nat
deriving DecidableEq, Repr

/-- The two plans of R167: the HF bank, and the VHF bank of either converter. -/
def bankPlan (hf : Bool) : BankPlan :=
  if hf then ⟨64, 600000, 64, 1200000, 0, 50⟩ else ⟨256, 1200000, 256, 2400000, 53, 200⟩

/-- The bank a slot reads: AM slots stand on HF_IN, all others on a VHF input (R206). -/
def onHf (t : SlotTune) : Bool := t.type == .am

/-! ### The slot-chain ROM (R174) -/

/-- The responses of R174; SC06 is reserved. -/
inductive ScId
  | sc00 | sc01 | sc02 | sc03 | sc04 | sc05 | sc07 | sc08 | sc09 | sc10 | sc11
deriving DecidableEq, Repr

/-- One response: taps, whether it is linear-phase, input and output rates in kHz, passband half-width and stopband edge
in Hz with its attenuation in dB, group delay at 0 Hz, and settle in its own output samples (0: runs without reset).
The spec's stopband of an analysis response is stated in bins; it is 1.0 bin here. -/
structure ScResponse where
  taps : Nat
  linear : Bool
  inKhz : Nat
  outKhz : Nat
  passHz : Nat
  stopHz : Nat
  stopDb : Nat
  delay : Nat
  settle : Nat
deriving DecidableEq, Repr

/-- The table of R174. -/
def scResponse : ScId → ScResponse
  | .sc00 => ⟨4096, true, 614400, 2400, 600000, 1200000, 90, 2048, 0⟩
  | .sc01 => ⟨1024, true, 76800, 1200, 300000, 600000, 95, 4096, 0⟩
  | .sc02 => ⟨64, true, 2400, 9600, 2000000, 0, 0, 2048, 64⟩
  | .sc03 => ⟨64, true, 1200, 4800, 1000000, 0, 0, 4096, 64⟩
  | .sc04 => ⟨61, true, 9600, 1920, 160000, 1728000, 90, 1920, 13⟩
  | .sc05 => ⟨121, true, 1920, 384, 160000, 224000, 90, 19200, 25⟩
  | .sc07 => ⟨769, true, 9600, 2048, 768000, 1280000, 80, 1536, 11⟩
  | .sc08 => ⟨41, true, 4800, 480, 20000, 456000, 95, 2560, 5⟩
  | .sc09 => ⟨241, true, 480, 48, 20000, 28000, 90, 153600, 25⟩
  | .sc10 => ⟨101, false, 480, 48, 20000, 28000, 85, 48640, 11⟩
  | .sc11 => ⟨61, false, 1920, 384, 160000, 224000, 85, 5760, 13⟩

/-- One sample at a rate in kHz, in 1/25 tick: the tick is 24.576 MHz. -/
def sampleUnits (khz : Nat) : Nat := 614400 / khz

/-! ### Chains (R175, R176) -/

/-- The responses of a slot's chain (R175). -/
def chainOf (t : SlotTune) : List ScId :=
  match t.type with
  | .fm | .fmDiversity => [.sc00, .sc02, .sc04, if t.minChain then .sc11 else .sc05]
  | .am => [.sc01, .sc03, .sc08, if t.minChain then .sc10 else .sc09]
  | .dab => [.sc00, .sc02, .sc07]

/-- The slot rate in kHz (R169). -/
def slotKhz (t : SlotTune) : Nat :=
  match t.type with
  | .fm | .fmDiversity => 384
  | .am => 48
  | .dab => 2048

/-- The pipeline latency of the converter: 64 VHF samples, or 16 HF samples of 8/25 tick (R164). -/
def pipelineUnits (t : SlotTune) : Nat := if onHf t then 128 else 64

/-- The delay from the ball to the slot-rate output (R175): the stages' group delays and the converter's latency. -/
def chainDelay (t : SlotTune) : Nat := ((chainOf t).map fun r => (scResponse r).delay).sum + pipelineUnits t

/-- The settle span in slot-rate samples (R175): the fill times of the reset stages in turn, rounded up. -/
def settleSamples (t : SlotTune) : Nat :=
  let fill := ((chainOf t).map fun r => (scResponse r).settle * sampleUnits (scResponse r).outKhz).sum
  (fill + sampleUnits (slotKhz t) - 1) / sampleUnits (slotKhz t)

/-- The settle span of a chain in ticks (R175). -/
def settleTicks (t : SlotTune) : Nat := settleSamples t * sampleUnits (slotKhz t) / 25

/-! ### Sub-band choice and tuning (R168 to R170) -/

/-- The first of the four bins of a slot (R168): round(fc / Δ − 1.5) with halves up is floor(fc / Δ) − 1. -/
def startBin (hf : Bool) (freq : Nat) : Nat :=
  min (freq / (bankPlan hf).spacing - 1) ((bankPlan hf).bins - 4)

/-- The bins of a tuning: its bank's first bin. -/
def binsOf (t : SlotTune) : Nat := startBin (onHf t) t.freq

/-- The sub-band centre fs_c = (k + 1.5) × Δ in Hz (R168). -/
def subBandCentre (t : SlotTune) : Nat := (2 * binsOf t + 3) * (bankPlan (onHf t)).spacing / 2

/-- The tuning offset f_off = fc − fs_c in Hz (R168). -/
def tuneOffset (t : SlotTune) : Int := (t.freq : Int) - subBandCentre t

/-- The synthesis rate, modulo which the NCO counts hertz (R170). -/
def synthHz (t : SlotTune) : Nat := if onHf t then 4800000 else 9600000

/-- The NCO increment: f_off in whole hertz, modulo the rate (R170). -/
def ncoIncrement (t : SlotTune) : Nat := (tuneOffset t % (synthHz t : Int)).toNat

/-- The NCO one synthesis sample later (R169, R170). -/
def ncoStep (t : SlotTune) (phase : Nat) : Nat := (phase + ncoIncrement t) % synthHz t

/-! ### The signal path (R167, R169)

The ROM's coefficients are not in the spec: `Config.scTap r k` is tap k of response r, in 1/2^32, scaled so that a sine of
amplitude A at the ball comes out of the chain with magnitude A (log entry 125). -/

/-- Tap k of a response, zero beyond its length. -/
def scTap (r : ScId) (k : Nat) : Int :=
  if k < (scResponse r).taps then Config.scTap (scResponse r).taps (scResponse r).outKhz k else 0

/-- Bin k of frame m of a bank, from the samples in reach of the analysis response, newest first (R167): what lies about
k × spacing is brought to 0 Hz. The carrier of bin k has turned k half turns a frame; its phase is counted from the last
sample of frame 0. -/
def binSample (hf : Bool) (line : List Int) (m k : Nat) : Cplx :=
  let r := if hf then ScId.sc01 else .sc00
  let n := (bankPlan hf).bins
  let turn (e : Nat) : Cplx := cTurn ((k * e % (2 * n)) * unitOne / n + (k * m % 2) * unitOne)
  cDiv (cplxSum (((List.range line.length).zip line).map fun e => cScale (scTap r e.1 * e.2) (turn e.1))) (unitOne * unitOne)

/-- Sample q of the sub-band of four bins at the synthesis rate (R169), from the frames in reach of the synthesis response,
newest first: each bin, whose rate is a quarter of it, is interpolated and placed at its distance (j − 1.5) × Δ from the
sub-band centre. -/
def subBandSample (hf : Bool) (frames : List (List Cplx)) (q : Nat) : Cplx :=
  let r := if hf then ScId.sc03 else .sc02
  cplxSum ((List.range 4).map fun j =>
    cMul (firSum (fun m => scTap r (q % 4 + 4 * m)) (frames.map fun f => f.getD j ⟨0, 0⟩))
      (cTurn (((2 * j + 13) * q % 16) * unitOne / 8)))

/-- The NCO mixes by −f_off, so that fc lands at 0 Hz (R169). -/
def mixDown (t : SlotTune) (phase : Nat) (x : Cplx) : Cplx :=
  cMul x (cTurn (2 * unitOne - 2 * (phase % synthHz t) * unitOne / synthHz t))

/-- The division of each of the two decimators (R169); the DAB chain has the resampler in their place. -/
def divisor (t : SlotTune) : Nat := if t.type = .am then 10 else 5

/-- The first decimator's response (R175). -/
def firstStage (t : SlotTune) : ScId := if t.type = .am then .sc08 else .sc04

/-- The second decimator's response (R175, R176). -/
def secondStage (t : SlotTune) : ScId :=
  match t.type, t.minChain with
  | .am, true => .sc10
  | .am, false => .sc09
  | _, true => .sc11
  | _, false => .sc05

/-- The output sample of the DAB resampler that falls on synthesis sample q, 16 for every 75 in 16 phases (R169, R174). -/
def resample (mixed : List Cplx) (q : Nat) : Option Cplx :=
  let n := (16 * q + 74) / 75
  if 75 * n / 16 = q then some (firSum (fun k => scTap .sc07 (75 * n % 16 + 16 * k)) (mixed.take 49)) else none

/-- Units of 1/25 tick in one synthesis sample (R169): a quarter of a frame. -/
def synthUnits (hf : Bool) : Nat := if hf then 128 else 64

/-- One synthesis sample through the NCO and the decimators or the resampler of a path (R169, R170, R176), with the
slot-rate sample that it completes. `q` counts synthesis samples in device time, so that the decimators of all slots and
branches keep one phase; a stroke holds whole periods of each. -/
def synthStep (t : SlotTune) (q : Nat) (y : Cplx) (p : TunerPath) : TunerPath × Option Cplx :=
  let p1 := { p with nco := ncoStep t p.nco, mixed := (mixDown t p.nco y :: p.mixed).take 64 }
  if t.type = .dab then (p1, resample p1.mixed q)
  else if q % divisor t ≠ 0 then (p1, none)
  else
    let h := firSum (scTap (firstStage t)) (p1.mixed.take 61)
    let p2 := if q * synthUnits (onHf t) < 25 * p.stageSince then p1 else { p1 with half := (h :: p1.half).take 241 }
    (p2, if q % (divisor t * divisor t) = 0 then some (firSum (scTap (secondStage t)) p2.half) else none)

/-- A frame of a bank, begun at `t` with number `m` in its epoch, in one synthesis path (R169, R170): four synthesis samples,
and the slot-rate samples that they complete, oldest first, each with its time. Frames stamped before the path's last
synchronising reset are not taken (R220). -/
def pathFrame (tune : SlotTune) (line : List Int) (m t : Nat) (p : TunerPath) : TunerPath × List (Nat × Cplx) :=
  if t < 25 * p.since then (p, [])
  else
    let hf := onHf tune
    let frame := (List.range 4).map fun j => binSample hf line m (binsOf tune + j)
    let p1 := { p with bins := (frame :: p.bins).take 16 }
    (List.range 4).foldl (fun acc r =>
      let (p, out) := acc
      let q := t / synthUnits hf + r
      match synthStep tune q (subBandSample hf p.bins (4 * m + r)) p with
      | (p2, some y) => (p2, out ++ [(t + r * synthUnits hf, y)])
      | (p2, none) => (p2, out)) (p1, [])

/-! ### Timestamps (R177, R222) -/

/-- The audio path delay (R222), in 1/25 tick. -/
def audioDelay (x : Slot) : Nat :=
  match x.tune.type with
  | .fm | .fmDiversity => if x.fm.deemph75 then 353280 else 337920
  | .am => 1216000
  | .dab => 0

/-- A slot-rate sample as it leaves the chain (R220): exactly zero and flagged invalid over a settle span, which is counted
from the first slot-rate sample after the reset. -/
def gatedSample (x : Slot) (t : Nat) (v : Cplx) : SlotSample :=
  if t < 25 * x.settleEnd then ⟨t, ⟨0, 0⟩, false⟩ else ⟨t, v, true⟩

/-- The time at which the signal of a slot-rate sample reached the ball (R177): moved back by the chain's delay. -/
def sampleTime (x : Slot) (v : SlotSample) : Nat := v.time - chainDelay x.tune

/-- The timestamp of the newest block (R177), flagged invalid over a settle span (R220). -/
def blockTime (x : Slot) (v : SlotSample) : Option Nat := if v.ok then some (sampleTime x v) else none

/-- The reception timestamp of the slot audio (R222): that of the slot-rate block, moved back by the audio path's delay. -/
def audioTime (x : Slot) : Option Nat := x.blockTs.map (· - audioDelay x)

/-! ### Diversity combining (R172, R209) -/

/-- Slot samples of a combining window at 384 kS/s (R172). -/
def windowSamples : Nat := 256

/-- One branch over a combining window (R172): complex gain and noise power, in the fixed-point unit. -/
structure BranchEstimate where
  gain : Cplx
  noise : Nat
deriving DecidableEq, Repr

/-- A branch estimated against the combined output of the window that has ended (R172): the gain that fits it best and the
mean power of what the fit leaves (DEDUCED, log entry 88). -/
def estimateBranch (xs refs : List Cplx) : BranchEstimate :=
  let power := ((refs.map cNormSq).sum : Nat)
  let cross := cplxSum ((xs.zip refs).map fun e => cFullMul e.1 (cConj e.2))
  let g : Cplx := ⟨cross.re * unitOne / power, cross.im * unitOne / power⟩
  let rest := ((xs.zip refs).map fun e => cNormSq (cAdd e.1 (cScale (-1) (cMul g e.2)))).sum
  ⟨g, rest / (max 1 xs.length)⟩

/-- The weights of two estimated branches (R172): each the conjugate of its gain over its noise power, scaled so that the
combined level equals the stronger branch's; none when no signal is seen. -/
def mrcWeights (a b : BranchEstimate) : Option (Cplx × Cplx) :=
  let den := cNormSq a.gain * b.noise + cNormSq b.gain * a.noise
  let top := max (cAbs a.gain) (cAbs b.gain) * unitOne
  let w (e : BranchEstimate) (other : Nat) : Cplx :=
    ⟨e.gain.re * other * top / den, -(e.gain.im * other * top / den)⟩
  if den = 0 then none else some (w a b.noise, w b a.noise)

/-- The weights of the branches at the sample to come, interpolated across the window (R172), or across the window in which
a branch that was removed falls (R209); overloads apart. -/
def plainWeights (d : Diversity) : Cplx × Cplx :=
  let k := d.windowAt.length
  let held := (cBetween d.fromA d.toA k windowSamples, cBetween d.fromB d.toB k windowSamples)
  let zero : Cplx := ⟨0, 0⟩
  let one : Cplx := ⟨unitOne, 0⟩
  if d.falling then
    let goal := if d.keepB then (zero, one) else (one, zero)
    (cBetween held.1 goal.1 k windowSamples, cBetween held.2 goal.2 k windowSamples)
  else held

/-- The weights in force (R172): zero for a branch whose Bellows is in OVERLOAD, equal for both when both are. -/
def branchWeights (s : State) (x : Slot) : Cplx × Cplx :=
  let oa := s.inputs[(0 : Fin 3)].state == .overload
  let ob := s.inputs[(1 : Fin 3)].state == .overload
  let w := plainWeights x.div
  let half : Cplx := ⟨unitOne / 2, 0⟩
  if oa && ob then (half, half) else (if oa then ⟨0, 0⟩ else w.1, if ob then ⟨0, 0⟩ else w.2)

/-- The share of branch A in the combined weight, in percent to the nearest (R240 `div_share`). -/
def shareOf (w : Cplx × Cplx) : Nat :=
  let a := cAbs w.1
  let b := cAbs w.2
  if a + b = 0 then 0 else (200 * a + (a + b)) / (2 * (a + b))

/-- The combined slot-rate sample (R172). -/
def combine (w : Cplx × Cplx) (a b : Cplx) : Cplx := cAdd (cMul w.1 a) (cMul w.2 b)

/-- A branch whose weight is zero adds nothing. -/
def weighs (w : Cplx) : Bool := w != ⟨0, 0⟩

/-- Notes which branches have had weight at some sample of the stroke (R214). -/
def noteWeights (w : Cplx × Cplx) (d : Diversity) : Diversity :=
  { d with usedA := d.usedA || weighs w.1, usedB := d.usedB || weighs w.2 }

/-- At a boundary: which branches had weight zero throughout the stroke that ends, and a new count for the next (R214). -/
def turnWeights (x : Slot) : Slot :=
  { x with div := { x.div with silentA := !x.div.usedA, silentB := !x.div.usedB, usedA := false, usedB := false } }

/-- A slot of one branch alone, with weight one: A, or B (R209). -/
def oneBranch (b : Bool) : Diversity :=
  let zero : Cplx := ⟨0, 0⟩
  let one : Cplx := ⟨unitOne, 0⟩
  let (a, c) := if b then (zero, one) else (one, zero)
  { Diversity.reset with fromA := a, fromB := c, toA := a, toB := c, keepB := b }

/-- A branch is added to a slot (R208, R209): its weight is zero until it has settled and one whole window has been
estimated. -/
def addBranch (onB : Bool) (t : SlotTune) (now : Nat) : Diversity :=
  { oneBranch onB with newUntil := some (25 * (now + settleTicks t)) }

/-- A branch is removed (R209): its weight falls across the first window that begins at or after the apply stroke. -/
def removeBranch (keepB : Bool) (now : Nat) (d : Diversity) : Diversity :=
  { d with fallDue := some now, keepB := keepB, newUntil := none }

/-- Both branches of a slot are combined: it is a diversity slot, or the weight of a branch removed has still to fall
(R172, R209). -/
def combines (x : Slot) : Bool := x.tune.type == .fmDiversity || x.div.fallDue.isSome

/-- A window whose whole span lies after the settle of a branch that was added (R209). -/
def windowSettled (d : Diversity) : Bool := d.newUntil.all (· ≤ d.windowTs)

/-- A combining window has ended: 256 samples of it have been taken (R172). -/
def windowOver (x : Slot) : Bool := combines x && x.state != .free && windowSamples ≤ x.div.windowAt.length

/-- The window in progress ends (R172, R209): the weights in force at its end go to the new estimates across the next one. A
branch that was added counts from the first whole window after its settle span; till then the other has weight one. A
window across which a removed branch fell is the last. -/
def takeWindow (d : Diversity) : Diversity :=
  let next := { d with windowAt := [], fromA := d.toA, fromB := d.toB }
  if d.falling then oneBranch d.keepB
  else if d.fallDue.isSome then next
  else if windowSettled d then
    let refs := d.windowAt.map (·.2.2)
    match mrcWeights (estimateBranch (d.windowAt.map (·.1)) refs) (estimateBranch (d.windowAt.map (·.2.1)) refs) with
    | some w => { next with toA := w.1, toB := w.2, newUntil := none }
    | none => { next with newUntil := none }
  else next

/-- A window that is over ends. -/
def windowRule (x : Slot) : Slot := if windowOver x then { x with div := takeWindow x.div } else x

/-- DIVERSITY_WINDOW (R172, R209): one combining window of a diversity slot ends; the next sample ends it as well. -/
def execDiversityWindow (i : Fin 48) (s : State) : Out := .next { s with slots := vmod s.slots i windowRule }

/-- The first sample of a window begins it (R209). -/
def beginWindow (t : Nat) (d : Diversity) : Diversity :=
  if d.windowAt.isEmpty then { d with windowTs := t, falling := d.fallDue.any fun b => 25 * b ≤ t } else d

/-- Two branch samples of one time combined (R172). -/
def combinePair (s : State) (a b : SlotSample) (x : Slot) : Slot × SlotSample :=
  let x1 := windowRule x
  if !combines x1 then (x1, if x1.div.keepB then b else a)
  else
    let x2 := { x1 with div := beginWindow a.time x1.div }
    let w := branchWeights s x2
    let v := combine w a.value b.value
    ({ x2 with div := noteWeights w { x2.div with windowAt := (a.value, b.value, v) :: x2.div.windowAt } }, ⟨a.time, v, a.ok || b.ok⟩)

/-- The branch samples that wait, combined while both branches have one (R172, R177: their delays are equal). A branch whose
input gives no frames leaves the other alone. -/
def combineWaiting (s : State) : Nat → Slot → List (SlotSample × SlotSample × SlotSample) → Slot × List (SlotSample × SlotSample × SlotSample)
  | 0, x, out => (x, out)
  | fuel + 1, x, out =>
    match x.pathA.queue, x.pathB.queue with
    | a :: ra, b :: rb =>
      let one (a' b' : SlotSample) (qa qb : List SlotSample) : Slot × List (SlotSample × SlotSample × SlotSample) :=
        let (x1, v) := combinePair s a' b' { x with pathA := { x.pathA with queue := qa }, pathB := { x.pathB with queue := qb } }
        combineWaiting s fuel x1 (out ++ [(a', b', v)])
      if a.time = b.time then one a b ra rb
      else if a.time < b.time then one a ⟨a.time, ⟨0, 0⟩, false⟩ ra (b :: rb)
      else one ⟨b.time, ⟨0, 0⟩, false⟩ b (a :: ra) rb
    | _, _ => (x, out)

/-! ### The frame at the slots (R166, R169, R170, R177) -/

/-- Input B of a diversity slot is VHF_B; a plain slot on VHF_B runs on path B too. -/
def onPathB (i : Fin 3) : Bool := i == 1

/-- A slot reads the bank of an input: it is tuned there, or combines both VHF branches (R172). -/
def reads (x : Slot) (i : Fin 3) : Bool :=
  x.state != .free && (if combines x then i != 2 else x.tune.input == i)

/-- The tuning that a frame begun at `t` is taken with (R30, R170). -/
def tuneFor (x : Slot) (t : Nat) : SlotTune := if t < 25 * x.tunedAt then x.oldTune else x.tune

/-- A frame of an input, begun at `t`, in the path of a slot that reads its bank (R169, R172), with the samples that are
ready for the demodulator: branch A, branch B and combined. -/
def slotFrame (s : State) (i : Fin 3) (line : List Int) (m t : Nat) (x : Slot) :
    Slot × List (SlotSample × SlotSample × SlotSample) :=
  let tune := tuneFor x t
  if !reads x i || onHf tune != (i == 2) then (x, [])
  else
    let (p, out) := pathFrame tune line m t (if onPathB i then x.pathB else x.pathA)
    let vs := out.map fun e => gatedSample x e.1 e.2
    let none_ (v : SlotSample) : SlotSample := ⟨v.time, ⟨0, 0⟩, false⟩
    if !combines x then
      (if onPathB i then { x with pathB := p } else { x with pathA := p }, vs.map fun v => (v, none_ v, v))
    else
      let q := { p with queue := p.queue ++ vs }
      let x1 := if onPathB i then { x with pathB := q } else { x with pathA := q }
      let (x2, ready) := combineWaiting s (x1.pathA.queue.length + x1.pathB.queue.length) x1 []
      if combines x2 then (x2, ready)
      else
        let rest := if x2.div.keepB then x2.pathB.queue else x2.pathA.queue
        ({ x2 with pathA := { x2.pathA with queue := [] }, pathB := { x2.pathB with queue := [] } },
          ready ++ rest.map fun v => (v, none_ v, v))

end Sys2Proof.Machine
end

