-- ==== Sys2Proof/Machine/Slots.lean ====
section
/-! DEFINITION. Slots: life cycle, acquisition, loss and recovery, the FM and AM per-stroke rules and the status
record (06_slots_fm_am.md, R205 to R240). -/

namespace Sys2Proof.Machine

/-! ### Tuning (R206) -/

/-- Codes of R206. -/
def typeCode : SlotType → Nat
  | .fm => 0 | .fmDiversity => 1 | .am => 2 | .dab => 3

/-- The reception type of a code (R206). -/
def typeOf : Nat → Option SlotType
  | 0 => some .fm | 1 => some .fmDiversity | 2 => some .am | 3 => some .dab | _ => none

/-- The Band III channel centres in Hz (R244), row by row of its table as `dab_mask` counts them (R302). -/
def dabCentres : List Nat :=
  [174928000, 176640000, 178352000, 180064000, 181936000, 183648000, 185360000, 187072000, 188928000, 190640000,
   192352000, 194064000, 195936000, 197648000, 199360000, 201072000] ++
  [202928000, 204640000, 206352000, 208064000, 209936000, 211648000, 213360000, 215072000, 210096000, 216928000, 218640000,
   220352000, 222064000, 217088000, 223936000, 225648000, 227360000, 229072000, 224096000] ++
  [230784000, 232496000, 234208000, 235776000, 237488000, 239200000]

/-- The band of R206 that holds a frequency. -/
def bandOf (t : SlotType) (freq : Nat) : Option (Nat × Nat) :=
  let bands := if isFm t then [(64000000, 108000000)]
    else if t = .am then [(144000, 288000), (522000, 1710000), (2300000, 26100000)] else []
  bands.find? fun b => b.1 ≤ freq && freq ≤ b.2

/-- The ranges and combinations of R206; a diversity AM or DAB slot has no code there (R173). -/
def tuneOk (t : SlotTune) : Bool :=
  match t.type with
  | .fm | .fmDiversity => t.input != 2 && (bandOf t.type t.freq).isSome && 1 ≤ t.raster && t.raster ≤ 1000000
  | .am => t.input == 2 && (bandOf t.type t.freq).isSome && (t.raster == 9000 || t.raster == 10000)
  | .dab => t.input != 2 && dabCentres.contains t.freq && t.raster == 0 && !t.minChain

/-- Parses `SLOT_ASSIGN` and `SLOT_RETUNE` (R206, 12 bytes). -/
def parseTune (p : List Byte) : Option (Fin 48 × SlotTune) :=
  match finOf 48 (getU 1 0 p), typeOf (getU 1 1 p), finOf 3 (getU 1 2 p) with
  | some slot, some type, some input =>
    let t : SlotTune := ⟨type, input, getU 4 3 p, getU 1 7 p == 1, getU 4 8 p⟩
    if p.length = 12 ∧ getU 1 7 p ≤ 1 ∧ tuneOk t then some (slot, t) else none
  | _, _, _ => none

/-- Parses `SLOT_STEP`: `slot`, `steps` s16 (R210). -/
def parseStep (p : List Byte) : Option (Fin 48 × Int) :=
  match finOf 48 (getU 1 0 p) with
  | some slot => if p.length = 3 then some (slot, getS 2 1 p) else none
  | none => none

/-- The frequency that `SLOT_STEP` retunes to, when it lies in the band that holds fc (R210). -/
def stepFreq (t : SlotTune) (steps : Int) : Option Nat :=
  let f := (t.freq : Int) + steps * t.raster
  match bandOf t.type t.freq with
  | some b => if (b.1 : Int) ≤ f ∧ f ≤ b.2 then some f.toNat else none
  | none => none

/-! ### Life cycle (R212, R213, R219) -/

/-- Codes of R212. -/
def slotCode : SlotState → Nat
  | .free => 0 | .acquiring => 1 | .live => 2 | .noSignal => 3 | .linkLost => 4 | .fault => 5

/-- Reasons of R219. -/
def reasonAssigned : Nat := 1
def reasonRetuned : Nat := 2
def reasonReleased : Nat := 3
def reasonHold : Nat := 4
def reasonDetect : Nat := 5
def reasonLoss : Nat := 6
def reasonLink : Nat := 7
def reasonConverterFault : Nat := 8

/-- One slot replaced by a function of it. -/
def modSlot (s : State) (i : Fin 48) (f : Slot → Slot) : State := { s with slots := vmod s.slots i f }

/-- The newest LIVE spell ends. -/
def endSpell (ts : Nat) : List (Nat × Option Nat) → List (Nat × Option Nat)
  | (a, none) :: l => (a, some ts) :: l
  | l => l

/-- The slot has been LIVE throughout a span of device time. -/
def liveThroughout (x : Slot) (a b : Nat) : Bool :=
  x.liveSpells.any fun e => e.1 ≤ a && e.2.all (b ≤ ·)

/-- When the slot last left LIVE, if it is outside it and has been in it. -/
def leftLive (x : Slot) : Option Nat := if x.state = .live then none else x.liveSpells.head?.bind (·.2)

/-- A transition of a slot with its event on a boundary (R212, R219); nothing when the state is the same, and no event
while a census visit holds the slot (R304). Entry to
LIVE, and LIVE to NO_SIGNAL of an FM or AM slot, start a fade (R218); entry to LIVE from ACQUIRING resets the gate and the
drives follow (R229). -/
def setSlotStateAt (ts : Nat) (i : Fin 48) (new : SlotState) (reason : Nat) (s : State) : State :=
  let x := s.slots[i]
  if x.state = new then s
  else
    let s1 := if x.visit then s else queueEventAt s ts evSlotState i.val
      (u8 (slotCode x.state) ++ u8 (slotCode new) ++ u8 reason ++ u8 (typeCode x.tune.type) ++ u32 x.tune.freq
        ++ u8 x.tune.input.val ++ u8 (if x.tune.minChain then 1 else 0))
    let s2 := modSlot s1 i fun x =>
      { x with
        state := new
        movedAt := ts
        fadeFrom := if x.state = .live ∧ new = .noSignal ∧ x.tune.type ≠ .dab then some ts else x.fadeFrom
        liveSpells :=
          if new = .free then []
          else if new = .live then (ts, none) :: x.liveSpells.filter (fun e => e.2.all fun u => ts < u + 196608000)
          else if x.state = .live then endSpell ts x.liveSpells else x.liveSpells
        gate := if new = .live ∧ x.state = .acquiring then 0 else x.gate }
    if x.visit then s2
    else noteState ts 0 i.val (slotCode x.state) (slotCode new) { s2 with counters := { s2.counters with slotTransitions := vmod s2.counters.slotTransitions i (bump · 1) } }

/-- The inputs of a slot (R172). -/
def inputsOf (t : SlotTune) : List (Fin 3) := if t.type = .fmDiversity then [0, 1] else [t.input]

/-- A hold condition of an input (R213): Bellows in OFF or ACQUIRE, Temper in STARTUP or FOREGROUND. -/
def inputHolds (s : State) (i : Fin 3) : Bool :=
  s.inputs[i].state == .off || s.inputs[i].state == .acquire || s.convs[i].state == .startup
    || s.convs[i].state == .foreground

/-- A hold condition stands on the slot (R213). -/
def holdStands (s : State) (x : Slot) : Bool := x.settling || (inputsOf x.tune).any (inputHolds s)

/-- A hold condition has arisen on the slot since the last boundary (R213). -/
def holdArose (s : State) (x : Slot) : Bool :=
  x.held || holdStands s x || (inputsOf x.tune).any fun i => s.inputs[i].holdSeen

/-- A converter of the slot is in FAULT (R212). -/
def converterFault (s : State) (x : Slot) : Bool := (inputsOf x.tune).any fun i => s.convs[i].state == .fault

/-- The device time at which the last hold condition of the slot cleared (R215). -/
def holdCleared (s : State) (x : Slot) : Nat :=
  ((inputsOf x.tune).map fun i => s.inputs[i].holdEnd).foldl max (max x.holdEnd x.clearedAt)

/-! ### Resets and clears (R208, R220, R224) -/

/-- The bandwidth index a slot starts from (R224). -/
def startBw (x : Slot) : Nat :=
  if x.tune.type = .am then (if x.am.bwFixedMode then x.am.bwFixed else x.am.bwWidest)
  else if x.fm.bwFixedMode then x.fm.bwFixed else x.fm.bwWidest

/-- The channel filter changes on a boundary (R225); the one in force before it is kept for the crossfade. -/
def setBw (now b : Nat) (x : Slot) : Slot :=
  if b = x.bwIndex then x else { x with bwIndex := b, bwFrom := if x.bwAt = now then x.bwFrom else x.bwIndex, bwAt := now }

/-- Demodulator state cleared (R208, R220, R224, R247, R276). The counters of R270 keep their values. -/
def clearDemod (now : Nat) (x : Slot) : Slot :=
  { setBw now (startBw x) x with
    cleared := true, clearedAt := now, metRun := 0, failRun := 0, bwHold := 0, demod := DemodRx.reset
    stereo := false, pilotHigh := 0, pilotLow := 0, gate := 0, syncDet := false, lockRun := 0, blankOff := false
    rds := { RdsRx.reset with groupsLost := x.rds.groupsLost }
    dab := { DabRx.reset with unitsBad := x.dab.unitsBad, rsCorrected := x.dab.rsCorrected, rsFailed := x.dab.rsFailed } }

/-- A synchronising reset of the decimators from the second on, with the settle span of the chain, and the clear that goes
with it (R176, R220). The span counts from the apply boundary, taken as the first slot-rate sample after the reset (DESIGN
CHOICE, log entry 86). Of a diversity slot both branches are reset: the one on `input` has weight one until the other has
settled and been estimated, as one that is added (DESIGN CHOICE, log entry 88). -/
def resetStage (now : Nat) (x : Slot) : Slot :=
  let again (p : TunerPath) : TunerPath := { p with half := [], queue := [], stageSince := now }
  { clearDemod now x with
    settling := true, settleEnd := now + settleTicks x.tune, held := true, blockTs := none
    pathA := again x.pathA, pathB := again x.pathB
    div := if x.tune.type = .fmDiversity then addBranch (x.tune.input == 1) x.tune now else oneBranch (x.tune.input == 1) }

/-- A path that starts from nothing at a boundary (R171, R220): synthesis, NCO and decimators. -/
def freshPath (now : Nat) : TunerPath := { TunerPath.reset with since := now, stageSince := now }

/-- A synchronising reset of the whole chain: synthesis path and decimators (R171, R220). -/
def resetChain (now : Nat) (x : Slot) : Slot := { resetStage now x with pathA := freshPath now, pathB := freshPath now }

/-- What a retune does (R208): whether the slot enters ACQUIRING, whether its whole chain is reset, or only from the second
decimator on, and whether a branch is added or removed. -/
structure RetuneEffect where
  acquire : Bool
  reset : Bool
  stage : Bool
  adds : Bool
  removes : Bool
deriving DecidableEq, Repr

/-- The effect of a retune from one tuning to another (R208); the row with the greater effect applies. A change of `input`
is one to, from and within diversity too, as the row has it (log entry 87). -/
def retuneEffect (o n : SlotTune) : RetuneEffect :=
  let reset := classOf o.type != classOf n.type || o.input != n.input || (o.freq != n.freq && binsOf o != binsOf n)
  let stage := o.minChain != n.minChain
  ⟨reset || stage || o.freq != n.freq, reset, stage, o.type == .fm && n.type == .fmDiversity && !reset && !stage,
    o.type == .fmDiversity && n.type == .fm && !reset && !stage⟩

/-- The time de-interleaver area of a slot (R246): the lowest that is free is taken as it becomes an ensemble slot, and
stays with it till the slot is released or becomes another type (DEDUCED, log entry 89). -/
def areaFor (s : State) (t : SlotTune) (held : Option (Fin 12)) : Option (Fin 12) :=
  if t.type ≠ .dab then none
  else held.or ((List.finRange 12).find? fun a => s.slots.toList.all fun x => x.area != some a)

/-- `SLOT_ASSIGN` applies (R207, R212): the chain starts from nothing, and the per-assignment counters are zero. -/
def applyAssign (i : Fin 48) (t : SlotTune) (s : State) : State :=
  let s1 := modSlot s i fun x =>
    resetChain s.now { Slot.reset with
      tune := t, oldTune := t, tunedAt := s.now, fm := x.fm, am := x.am, state := x.state, area := areaFor s t none }
  setSlotStateAt (stampOf s) i .acquiring reasonAssigned s1

/-- A retune applies (R208, R209, R217): a converter FAULT on the input after the retune decides against ACQUIRING. -/
def applyTune (i : Fin 48) (t : SlotTune) (s : State) : State :=
  let x := s.slots[i]
  if x.tune = t then s
  else
    let e := retuneEffect x.tune t
    let joins := x.tune.type == .fm && t.type == .fmDiversity
    let s1 := modSlot s i fun x =>
      let x1 := { x with
        tune := t, oldTune := x.tune, tunedAt := s.now, area := areaFor s t x.area
        pathA := if joins && x.tune.input == 1 then freshPath s.now else x.pathA
        pathB := if joins && x.tune.input != 1 then freshPath s.now else x.pathB
        div :=
          if e.adds then addBranch (x.tune.input == 1) t s.now
          else if e.removes then removeBranch (t.input == 1) s.now x.div else x.div }
      if e.reset then resetChain s.now x1
      else if e.stage then resetStage s.now x1
      else if e.acquire then clearDemod s.now x1 else x1
    if e.acquire && !converterFault s1 s1.slots[i] then setSlotStateAt (stampOf s) i .acquiring reasonRetuned s1
    else s1

/-- `SLOT_STEP` applies (R210). -/
def applyStep (i : Fin 48) (steps : Int) (s : State) : State :=
  match stepFreq s.slots[i].tune steps with
  | some f => applyTune i { s.slots[i].tune with freq := f } s
  | none => s

/-- `SLOT_RELEASE` applies (R211, R212). The FM and AM parameters of the slot stay for its next assignment (DESIGN CHOICE,
log entry 115). -/
def applyRelease (i : Fin 48) (s : State) : State :=
  let s1 := setSlotStateAt (stampOf s) i .free reasonReleased s
  modSlot s1 i fun x => { Slot.reset with fm := x.fm, am := x.am }

/-! ### Parameters (R231 to R233, R238, R558) -/

/-- A start and stop pair of R231. -/
def fnOk (limLo limHi : Nat) (c : FnCfg) : Bool :=
  -200 ≤ c.levelStart && c.levelStart ≤ 1000 && -200 ≤ c.levelStop && c.levelStop ≤ 1000
    && c.usnStart ≤ 1000 && c.usnStop ≤ 1000 && c.mpStart ≤ 1000 && c.mpStop ≤ 1000
    && 1 ≤ c.attackMs && c.attackMs ≤ 1000 && 1 ≤ c.releaseMs && c.releaseMs ≤ 10000
    && limLo ≤ c.limit && c.limit ≤ limHi

/-- Nine 2-byte parameters of one function from an offset (R558). -/
def getFn (o : Nat) (p : List Byte) : FnCfg :=
  ⟨getS 2 o p, getS 2 (o + 2) p, getU 2 (o + 4) p, getU 2 (o + 6) p, getU 2 (o + 8) p, getU 2 (o + 10) p,
    getU 2 (o + 12) p, getU 2 (o + 14) p, getU 2 (o + 16) p⟩

/-- Parses `SLOT_FM_SET` (R231, R232, R558; 72 bytes). -/
def parseFmSet (p : List Byte) : Option (Fin 48 × FmCfg) :=
  match finOf 48 (getU 1 0 p) with
  | none => none
  | some slot =>
    let c : FmCfg :=
      { mute := getFn 2 p, highcut := getFn 20 p, blend := getFn 38 p
        bwFixedMode := getU 1 56 p == 1, bwFixed := getU 1 57 p, bwWidest := getU 1 58 p, bwNarrowest := getU 1 59 p
        adjNarrow := getS 2 60 p, adjWiden := getS 2 62 p, widenMs := getU 2 64 p
        forcedMono := getU 1 66 p == 1, deemph75 := getU 1 67 p == 1, detectDbuv := getS 2 68 p, lossMs := getU 2 70 p }
    if p.length = 72 ∧ getU 1 1 p = 0 ∧ fnOk 0 400 c.mute ∧ fnOk 1500 15000 c.highcut ∧ fnOk 0 1000 c.blend
        ∧ getU 1 56 p ≤ 1 ∧ c.bwFixed ≤ 9 ∧ c.bwWidest ≤ c.bwNarrowest ∧ c.bwNarrowest ≤ 9
        ∧ -400 ≤ c.adjNarrow ∧ c.adjNarrow ≤ 200 ∧ -600 ≤ c.adjWiden ∧ c.adjWiden ≤ 0 ∧ c.adjWiden < c.adjNarrow
        ∧ 1 ≤ c.widenMs ∧ c.widenMs ≤ 10000 ∧ getU 1 66 p ≤ 1 ∧ getU 1 67 p ≤ 1
        ∧ -100 ≤ c.detectDbuv ∧ c.detectDbuv ≤ 600 ∧ 10 ≤ c.lossMs ∧ c.lossMs ≤ 5000 then some (slot, c)
    else none

/-- Five 2-byte parameters of one AM function from an offset (R558). -/
def getAmFn (o : Nat) (p : List Byte) : FnCfg :=
  ⟨getS 2 o p, getS 2 (o + 2) p, 0, 0, 0, 0, getU 2 (o + 4) p, getU 2 (o + 6) p, getU 2 (o + 8) p⟩

/-- Parses `SLOT_AM_SET` (R238, R558; 44 bytes). -/
def parseAmSet (p : List Byte) : Option (Fin 48 × AmCfg) :=
  match finOf 48 (getU 1 0 p) with
  | none => none
  | some slot =>
    let c : AmCfg :=
      { bwFixedMode := getU 1 2 p == 1, bwFixed := getU 1 3 p, bwWidest := getU 1 4 p, bwNarrowest := getU 1 5 p
        adjNarrow := getS 2 6 p, adjWiden := getS 2 8 p, widenMs := getU 2 10 p, detector := getU 1 12 p
        nbEnable := getU 1 13 p == 1, nbThreshold := getU 2 14 p, nbWidthUs := getU 2 16 p, nbMaxDuty := getU 2 18 p
        mute := getAmFn 20 p, highcut := getAmFn 30 p, detectDbuv := getS 2 40 p, lossMs := getU 2 42 p }
    if p.length = 44 ∧ getU 1 1 p = 0 ∧ fnOk 0 400 c.mute ∧ fnOk 1500 8000 c.highcut
        ∧ getU 1 2 p ≤ 1 ∧ c.bwFixed ≤ 7 ∧ c.bwWidest ≤ c.bwNarrowest ∧ c.bwNarrowest ≤ 7
        ∧ -400 ≤ c.adjNarrow ∧ c.adjNarrow ≤ 200 ∧ -600 ≤ c.adjWiden ∧ c.adjWiden ≤ 0 ∧ c.adjWiden < c.adjNarrow
        ∧ 1 ≤ c.widenMs ∧ c.widenMs ≤ 10000 ∧ c.detector ≤ 2 ∧ getU 1 13 p ≤ 1
        ∧ 60 ≤ c.nbThreshold ∧ c.nbThreshold ≤ 300 ∧ 20 ≤ c.nbWidthUs ∧ c.nbWidthUs ≤ 1000
        ∧ 10 ≤ c.nbMaxDuty ∧ c.nbMaxDuty ≤ 500
        ∧ -100 ≤ c.detectDbuv ∧ c.detectDbuv ≤ 600 ∧ 10 ≤ c.lossMs ∧ c.lossMs ≤ 5000 then some (slot, c)
    else none

/-- The index after a change of the bandwidth settings (R224): fixed, or moved to the nearest bound, from `bw_fixed`
when adaptation starts. -/
def rebound (oldFixedMode newFixedMode : Bool) (fixed widest narrowest b : Nat) : Nat :=
  if newFixedMode then fixed
  else clampNat widest narrowest (if oldFixedMode then fixed else b)

/-- The bandwidth settings change on this boundary, in place of the adaptive step due there (R224). Adaptation that starts
from `bw_fixed` starts from the value in force before (DESIGN CHOICE, log entry 114). -/
def changeBw (now : Nat) (changed oldFixedMode newFixedMode : Bool) (oldFixed fixed widest narrowest : Nat) (x : Slot) : Slot :=
  if x.cleared && x.clearedAt == now then { setBw now (startBw x) x with bwHold := 0 }
  else if changed then
    let f := if oldFixedMode && !newFixedMode then oldFixed else fixed
    { setBw now (rebound oldFixedMode newFixedMode f widest narrowest x.bwIndex) x with bwHold := 0, bwSetAt := some now }
  else x

/-- New parameters act on audio stamped at or after the apply stroke (R233); those before are kept for the samples that are
still on their way. -/
def keepParams (now : Nat) (x : Slot) : Slot :=
  if x.past.head?.any (·.1 == now) then x else { x with past := ((now, x.fm, x.am) :: x.past).take 16 }

/-- The parameters for a sample stamped `t` in 1/25 tick (R233): those before the earliest change that lies after it. -/
def paramsAt (x : Slot) (t : Nat) : FmCfg × AmCfg :=
  match x.past.reverse.find? (fun e => t < 25 * e.1) with
  | some (_, fm, am) => (fm, am)
  | none => (x.fm, x.am)

/-- The slot with the parameters for a sample stamped `t`. -/
def withParams (t : Nat) (x : Slot) : Slot := { x with fm := (paramsAt x t).1, am := (paramsAt x t).2 }

/-- `SLOT_FM_SET` applies (R224, R233). -/
def applyFmSet (i : Fin 48) (c : FmCfg) (s : State) : State :=
  modSlot s i fun x =>
    let o := x.fm
    let changed := o.bwFixedMode != c.bwFixedMode || o.bwFixed != c.bwFixed || o.bwWidest != c.bwWidest
      || o.bwNarrowest != c.bwNarrowest
    changeBw s.now changed o.bwFixedMode c.bwFixedMode o.bwFixed c.bwFixed c.bwWidest c.bwNarrowest
      { keepParams s.now x with fm := c }

/-- `SLOT_AM_SET` applies (R224, R233, R235). -/
def applyAmSet (i : Fin 48) (c : AmCfg) (s : State) : State :=
  modSlot s i fun x =>
    let o := x.am
    let changed := o.bwFixedMode != c.bwFixedMode || o.bwFixed != c.bwFixed || o.bwWidest != c.bwWidest
      || o.bwNarrowest != c.bwNarrowest
    changeBw s.now changed o.bwFixedMode c.bwFixedMode o.bwFixed c.bwFixed c.bwWidest c.bwNarrowest
      { keepParams s.now x with am := c }

/-! ### Level and detection (R214, the level trace of R204) -/

/-- The RSSI correction of an input at a frequency, in 0.01 dB: linear between the trace points, held beyond the ends
(05_temper_calibration.md, Level and frequency traceability). -/
def traceCorrection : List LevelPoint → Nat → Int
  | [], _ => 0
  | [p], _ => p.traceCdb
  | p :: q :: rest, f =>
    if f ≤ p.freqKhz * 1000 then p.traceCdb
    else if f ≤ q.freqKhz * 1000 then
      p.traceCdb + roundDiv ((q.traceCdb - p.traceCdb) * ((f : Int) - p.freqKhz * 1000)) ((q.freqKhz - p.freqKhz) * 1000)
    else traceCorrection (q :: rest) f

/-- A reading in 0.1 dBµV with its correction. -/
def correctLevel (s : State) (input : Fin 3) (freq : Nat) (r : Option Int) : Option Int :=
  r.map fun v => roundDiv (10 * v + traceCorrection s.convs[input].levels freq) 10

/-- The slot level (R214): the greater branch of a diversity slot, leaving out one whose weight was zero throughout the
stroke. -/
def slotLevel (x : Slot) : Option Int :=
  let r := x.reading
  if x.tune.type = .fmDiversity then
    let a := if x.div.silentA then none else r.rssi
    let b := if x.div.silentB then none else r.rssiB
    match a, b with
    | some a, some b => some (max a b)
    | some a, none => some a
    | none, b => b
  else r.rssi

/-- The detect condition of an FM or AM slot over the last stroke (R214). -/
def detectMet (x : Slot) : Bool :=
  let thr := if x.tune.type = .am then x.am.detectDbuv else x.fm.detectDbuv
  let lim : Int := if x.tune.type = .am then 500 else 25000
  match slotLevel x, x.reading.offsetHz with
  | some l, some o => thr ≤ l && -lim ≤ o && o ≤ lim
  | _, _ => false

/-! ### The drives (R228 to R230), in 1/2^32 -/

/-- One step of exponential smoothing with a time constant of t steps, rounded to the unit (R228, log entry 21). -/
def smooth (target d t : Nat) : Nat :=
  ((target : Int) + roundDiv (((d : Int) - target) * expNeg t) 281474976710656).toNat

/-- `ramp` of R228. -/
def ramp (x start stop : Int) : Nat :=
  if start = stop then 0
  else
    let num := if start < stop then x - start else start - x
    let den := if start < stop then stop - start else start - stop
    if num ≤ 0 then 0 else if den ≤ num then unitOne else (roundDiv (num * unitOne) den.toNat).toNat

/-- The target of a drive (R228). -/
def driveTarget (x : Slot) (c : FnCfg) : Nat :=
  let l := match slotLevel x with | some v => ramp v c.levelStart c.levelStop | none => 0
  let u := match x.reading.usn with | some v => ramp v c.usnStart c.usnStop | none => 0
  let m := match x.reading.multipath with | some v => ramp v c.mpStart c.mpStop | none => 0
  max l (max u m)

/-- A drive one audio sample later (R228): 48 of them make a millisecond. -/
def driveStep (x : Slot) (c : FnCfg) (d : Drive) : Drive :=
  let t := driveTarget x c
  ⟨smooth t d.d (48 * if d.d < t then c.attackMs else c.releaseMs)⟩

/-- The functions of the slot's type: mute, high-cut and blend (R231, R238). -/
def fnsOf (x : Slot) : FnCfg × FnCfg × FnCfg :=
  if x.tune.type = .am then (x.am.mute, x.am.highcut, FmCfg.reset.blend) else (x.fm.mute, x.fm.highcut, x.fm.blend)

/-- The three drives and the gate one audio sample later, on the metrics of the last complete stroke (R228, R230). -/
def stepDrives (x : Slot) : Slot :=
  let (m, h, b) := fnsOf x
  let target := if x.stereo && !x.fm.forcedMono && isFm x.tune.type then unitOne else 0
  { x with
    mute := driveStep x m x.mute, highcut := driveStep x h x.highcut, blend := driveStep x b x.blend
    gate := smooth target x.gate (48 * if target < x.gate then b.attackMs else b.releaseMs) }

/-- On entry to LIVE from ACQUIRING each drive is at its target (R229). -/
def snapDrives (x : Slot) : Slot :=
  let (m, h, b) := fnsOf x
  { x with mute := ⟨driveTarget x m⟩, highcut := ⟨driveTarget x h⟩, blend := ⟨driveTarget x b⟩, gate := 0 }

/-! ### What the drives do (R230, R234, R238) -/

/-- The base bandwidth of the high-cut: 15,000 Hz for FM (R230), the audio bandwidth of the filter for AM (R234,
R238). -/
def highcutBase (x : Slot) : Nat :=
  if x.tune.type = .am then [8000, 6000, 5000, 4500, 4000, 3500, 3000, 2500].getD x.bwIndex 2500 else 15000

/-- The corner base × (limit / base)^d in Hz; with a limit above the base it is limit × (base / limit)^(1 − d) (R230,
R238). -/
def cornerHz (base limit d : Nat) : Nat :=
  if limit ≤ base then base * powUnit (limit * unitOne / base) d / unitOne
  else limit * powUnit (base * unitOne / limit) (unitOne - d) / unitOne

/-- The high-cut corner in Hz, none when bypassed (R230, R240). -/
def highcutHz (x : Slot) : Option Nat :=
  let (_, h, _) := fnsOf x
  if x.highcut.d = 0 then none else some (cornerHz (highcutBase x) h.limit x.highcut.d)

/-- The stereo weight s in the fixed-point unit (R230). -/
def stereoShare (x : Slot) : Nat :=
  let (_, _, b) := fnsOf x
  x.gate * max (unitOne - x.blend.d) (b.limit * unitOne / 1000) / unitOne

/-- The stereo weight in 0.1 % (R230). -/
def stereoWeight (x : Slot) : Nat := (stereoShare x * 1000 + unitOne / 2) / unitOne

/-! ### Per-stroke rules (R214 to R217, R224, R227, R236, R237) -/

/-- The metrics that follow from the slot's own state, at the end of the stroke just ended (R240): before what takes effect
on its boundary. -/
def showMetrics (s : State) (x : Slot) : Slot :=
  { x with shown :=
    { bwIndex := x.bwIndex, shareA := shareOf (branchWeights s x), stereoWeight := stereoWeight x
      muteDb := (x.mute.d * (fnsOf x).1.limit + unitOne / 2) / unitOne, highcutHz := highcutHz x } }

/-- The metrics of the stroke just ended taken into the slot, with the runs of the detect condition and of the pilot and PLL
(R214, R227, R236), all with what was in force in it (R233). -/
def takeReading (s : State) (r : SlotReading) (x : Slot) : Slot :=
  let r1 := { r with
    rssi := correctLevel s (if x.tune.type = .fmDiversity then 0 else x.tune.input) x.tune.freq r.rssi
    rssiB := correctLevel s 1 x.tune.freq r.rssiB }
  let x1 := { showMetrics s (turnWeights x) with reading := r1 }
  let met := detectMet x1
  let pilotOk := r1.pilotLocked && 30 ≤ r1.pilot
  let lock := x.tune.type == .am && r1.pllError.any (· < 150)
  { x1 with
    metRun := if met then x.metRun + 1 else 0
    failRun := if met then 0 else x.failRun + 1
    pilotHigh := if pilotOk then min 20 (x.pilotHigh + 1) else 0
    pilotLow := if r1.pilot < 20 then min 5 (x.pilotLow + 1) else 0
    lockRun := if lock then min 20 (x.lockRun + 1) else 0 }

/-- The bandwidth settings of the slot's type: fixed mode, widest, narrowest, narrow and widen levels, and the
strokes before one widening. -/
def bwSettings (x : Slot) : Bool × Nat × Nat × Int × Int × Nat :=
  if x.tune.type = .am then
    (x.am.bwFixedMode, x.am.bwWidest, x.am.bwNarrowest, x.am.adjNarrow, x.am.adjWiden, x.am.widenMs)
  else (x.fm.bwFixedMode, x.fm.bwWidest, x.fm.bwNarrowest, x.fm.adjNarrow, x.fm.adjWiden, x.fm.widenMs)

/-- No adaptive step is due on this boundary: a transaction, a reset or a clear has set the filter there (R224). -/
def bwHeld (now : Nat) (x : Slot) : Bool := x.bwSetAt == some now || (x.cleared && x.clearedAt == now)

/-- The adaptive step of R224 but for the widening itself, which `widenBw` makes once hold has reached `widen_ms`. -/
def adaptBw (now : Nat) (x : Slot) : Slot :=
  let (fixed, widest, narrowest, narrow, widen, _) := bwSettings x
  if fixed ∨ x.tune.type = .dab ∨ bwHeld now x then x
  else
    match x.reading.adjLower, x.reading.adjUpper with
    | some l, some u =>
      let adj := max l u
      if narrow < adj ∧ x.bwIndex < narrowest then { setBw now (x.bwIndex + 1) x with bwHold := 0 }
      else if adj < widen ∧ widest < x.bwIndex then { x with bwHold := x.bwHold + 1 }
      else { x with bwHold := 0 }
    | _, _ => x

/-- The widening of R224 is due. -/
def widenDue (x : Slot) : Bool :=
  let (fixed, widest, _, _, _, ms) := bwSettings x
  x.state != .free && x.tune.type != .dab && !fixed && widest < x.bwIndex && ms ≤ x.bwHold

/-- One widening step (R224, R225). -/
def widenBw (now : Nat) (x : Slot) : Slot :=
  if widenDue x && !bwHeld now x then { setBw now (x.bwIndex - 1) x with bwHold := 0 } else x

/-- Stereo becomes available (R227): the pilot has held on 20 strokes with the PLL locked. -/
def stereoOnDue (x : Slot) : Bool := isFm x.tune.type && x.state != .free && !x.stereo && x.pilotHigh == 20
/-- Stereo ceases to be available (R227). -/
def stereoOffDue (x : Slot) : Bool :=
  isFm x.tune.type && x.state != .free && x.stereo && (x.pilotLow == 5 || !x.reading.pilotLocked)
/-- Lock is lost, and envelope detection returns (R236). -/
def amSyncLost (now : Nat) (x : Slot) : Slot :=
  if x.syncDet && x.lockRun == 0 then { x with syncDet := false, detectAt := now } else x
/-- Synchronous detection takes over in auto mode (R236). -/
def amSyncDue (x : Slot) : Bool :=
  x.tune.type == .am && x.state != .free && x.am.detector == 0 && !x.syncDet && x.lockRun == 20

/-- Whether the loss and recovery rules of an FM or AM slot may run: a hold, a converter FAULT or another transition on
the boundary wins over them (R217). -/
def rulesOpen (s : State) (x : Slot) : Bool :=
  x.tune.type != .dab && !holdArose s x && !converterFault s x && x.movedAt != s.now

/-- A hold moves a LIVE or NO_SIGNAL slot to ACQUIRING (R213, R217). -/
def holdDue (s : State) (x : Slot) : Bool :=
  (x.state == .live || x.state == .noSignal) && holdArose s x && !converterFault s x

/-- The acquisition rule runs (R215), on a boundary on which nothing else has moved the slot (R217): at once after a hold alone, else 15 ms (FM) or 40 ms (AM) after the last hold
condition, or the clear, has passed. -/
def acquireDue (s : State) (x : Slot) : Bool :=
  x.state == .acquiring && x.tune.type != .dab && !holdStands s x && !converterFault s x && x.movedAt != s.now
    && (!x.cleared || holdCleared s x + ticksOfMs (if x.tune.type = .am then 40 else 15) ≤ s.now)

/-- The loss rule is due (R216). -/
def lossDue (s : State) (x : Slot) : Bool :=
  x.state == .live && rulesOpen s x && (if x.tune.type = .am then x.am.lossMs else x.fm.lossMs) ≤ x.failRun

/-- The recovery rule is due (R216). -/
def recoveryDue (s : State) (x : Slot) : Bool :=
  x.state == .noSignal && rulesOpen s x && (if x.tune.type = .am then 20 else 10) ≤ x.metRun

/-- A hold arises: the slot enters ACQUIRING on this boundary (R213). -/
def slotHoldRule (i : Fin 48) (s : State) : State :=
  if holdDue s s.slots[i] then
    modSlot (setSlotStateAt s.now i .acquiring reasonHold s) i fun x => { x with cleared := false }
  else s

/-- The acquisition rule (R215, R229): LIVE when the detect condition was met on each of the last 10 strokes. -/
def slotAcquisitionRule (i : Fin 48) (s : State) : State :=
  if acquireDue s s.slots[i] then
    if 10 ≤ s.slots[i].metRun then modSlot (setSlotStateAt s.now i .live reasonDetect s) i snapDrives
    else setSlotStateAt s.now i .noSignal reasonLoss s
  else s

/-- The loss rule (R216). -/
def slotLossRule (i : Fin 48) (s : State) : State :=
  if lossDue s s.slots[i] then setSlotStateAt s.now i .noSignal reasonLoss s else s

/-- The recovery rule (R216). -/
def slotRecoveryRule (i : Fin 48) (s : State) : State :=
  if recoveryDue s s.slots[i] then setSlotStateAt s.now i .live reasonDetect s else s

/-- A converter FAULT moves the slot to FAULT (R212, R217). -/
def slotFaultRule (i : Fin 48) (s : State) : State :=
  let x := s.slots[i]
  if x.state != .free && x.state != .linkLost && converterFault s x then
    setSlotStateAt s.now i .fault reasonConverterFault s
  else s

/-- The settle span of the chain has passed (R220). -/
def settleDue (s : State) (x : Slot) : Bool := x.settling && x.settleEnd ≤ s.now
/-- The end of a settle span: the hold clears at the instant it passed. -/
def settleRule (i : Fin 48) (s : State) : State :=
  if settleDue s s.slots[i] then modSlot s i fun x => { x with settling := false, holdEnd := x.settleEnd } else s

/-- The stroke rules are evaluated at the boundary that has just been latched. -/
def atBoundary (s : State) : Bool := s.now == s.latch.stroke * 24576

/-- A slot's record latched again after a rule that takes effect on the same boundary (R49). -/
def relatchSlot (i : Fin 48) (s : State) : State :=
  { s with latch := { s.latch with slots := s.latch.slots.set i s.slots[i] } }

/-- A boundary rule of one slot as a command of its own: it acts only on a boundary, and its record is latched with
it. -/
def slotRule (rule : Fin 48 → State → State) (i : Fin 48) (s : State) : State :=
  if atBoundary s && !isLocal s then relatchSlot i (rule i s) else s

/-! ### Event rows -/

/-- SETTLE_END (R220). -/
def execSettleEnd (i : Fin 48) (s : State) : Out := .next (settleRule i s)
/-- SLOT_HOLD (R213). -/
def execSlotHold (i : Fin 48) (s : State) : Out := .next (slotRule slotHoldRule i s)
/-- SLOT_ACQUISITION_RULE (R215). -/
def execSlotAcquisitionRule (i : Fin 48) (s : State) : Out := .next (slotRule slotAcquisitionRule i s)
/-- SLOT_LOSS (R216). -/
def execSlotLoss (i : Fin 48) (s : State) : Out := .next (slotRule slotLossRule i s)
/-- SLOT_RECOVERY (R216). -/
def execSlotRecovery (i : Fin 48) (s : State) : Out := .next (slotRule slotRecoveryRule i s)
/-- FM_BW_WIDEN (R224, R235): the same widening serves the AM filter. -/
def execFmBwWiden (i : Fin 48) (s : State) : Out := .next (slotRule (fun i s => modSlot s i (widenBw s.now)) i s)

/-- Stereo becomes available (R227). -/
def stereoOnRule (x : Slot) : Slot := if stereoOnDue x then { x with stereo := true } else x
/-- Stereo ceases to be available (R227). -/
def stereoOffRule (x : Slot) : Slot := if stereoOffDue x then { x with stereo := false, pilotHigh := 0 } else x
/-- Synchronous detection in auto mode (R236). -/
def amSyncRule (now : Nat) (x : Slot) : Slot :=
  if amSyncDue x then { x with syncDet := true, detectAt := now } else x

/-- FM_STEREO_AVAILABLE (R227). -/
def execFmStereoAvailable (i : Fin 48) (s : State) : Out := .next (slotRule (fun i s => modSlot s i stereoOnRule) i s)
/-- FM_STEREO_UNAVAILABLE (R227). -/
def execFmStereoUnavailable (i : Fin 48) (s : State) : Out :=
  .next (slotRule (fun i s => modSlot s i stereoOffRule) i s)
/-- AM_SYNC_LOCK (R236). -/
def execAmSyncLock (i : Fin 48) (s : State) : Out := .next (slotRule (fun i s => modSlot s i (amSyncRule s.now)) i s)

/-! ### Status (R239, R240, R564) -/

/-- The detector in use of an AM slot (R236, R240). -/
def detectorInUse (x : Slot) : Nat :=
  match x.am.detector with | 1 => 1 | 2 => 2 | _ => if x.syncDet then 2 else 1

/-- Whether the metrics of a slot read the sentinel (R239). -/
def metricsAbsent (x : Slot) : Bool := x.state == .free || x.state == .linkLost || x.state == .fault

/-- Codes of R270 for `sync_state`. -/
def syncCode : SyncState → Nat
  | .search => 0 | .coarse => 1 | .fine => 2 | .track => 3

/-- `v` when a condition holds, else nothing. -/
def onlyIf {α : Type} (b : Bool) (v : α) : Option α := if b then some v else none

/-- `cif_count`: the last CIF whose timestamp lies before boundary `stroke` (R270). -/
def cifShown (stroke : Nat) (d : DabRx) : Nat := (d.cif + (25 * stroke * 24576 - 1 - d.cifAt) / (d.period / 4)) % 5000

/-- The 76 bytes of `SLOT_STATUS_GET` (R564), from a latched slot and the latching stroke. A field that does not apply
to the slot reads the sentinel of R591, those of a free slot's tuning among them (log entry 22). -/
def slotRecord (i : Fin 48) (stroke : Nat) (x : Slot) : List Byte :=
  let here := !metricsAbsent x && !x.visit
  let fm := here && isFm x.tune.type
  let am := here && x.tune.type == .am
  let dab := here && x.tune.type == .dab
  let used := x.state != .free && !x.visit
  let r := x.reading
  let d := x.dab
  u64 stroke ++ u8 i.val ++ u8 (if x.visit then 0 else slotCode x.state) ++ opt8 (onlyIf used (typeCode x.tune.type))
    ++ opt8 (onlyIf used x.tune.input.val) ++ opt32 (onlyIf used x.tune.freq)
    ++ optS16 (if here then r.rssi else none) ++ optS16 (if here && x.tune.type == .fmDiversity then r.rssiB else none)
    ++ optS32 (if here then r.offsetHz else none) ++ opt8 (onlyIf (fm || am) x.shown.bwIndex)
    ++ opt8 (onlyIf (here && x.tune.type == .fmDiversity) x.shown.shareA)
    ++ optS16 (if fm || am then r.adjLower else none) ++ optS16 (if fm || am then r.adjUpper else none)
    ++ opt16 (if fm then r.usn else none) ++ opt16 (if fm then r.multipath else none)
    ++ opt16 (if fm then r.deviation else none) ++ opt16 (onlyIf fm (if r.pilotLocked then r.pilot else 0))
    ++ opt16 (onlyIf fm x.shown.stereoWeight)
    ++ opt16 (onlyIf (fm || am) x.shown.muteDb)
    ++ opt16 (if fm || am then x.shown.highcutHz else none) ++ opt16 (if am then r.modulation else none)
    ++ opt16 (if am && !x.blankOff then some (r.blankTriggers * 1000) else none)
    ++ opt8 (onlyIf am (detectorInUse x)) ++ opt8 (onlyIf dab (syncCode d.sync))
    ++ opt8 (onlyIf (dab && d.lastFrameOk) d.ficFail) ++ opt8 (onlyIf (dab && d.subchKnown) d.subchs.length)
    ++ opt16 (onlyIf (dab && d.lastFrameOk) d.snr) ++ opt16 (onlyIf (dab && d.lastFrameOk) d.berPre)
    ++ opt16 (onlyIf (dab && d.lastFrameOk) d.cirSpread) ++ opt16 (onlyIf (dab && d.tracked) (cifShown stroke d))
    ++ opt32 (onlyIf dab d.unitsBad.toNat) ++ opt32 (onlyIf dab d.rsCorrected.toNat) ++ opt32 (onlyIf dab d.rsFailed.toNat)
    ++ opt8 (onlyIf used (if x.tune.minChain then 1 else 0)) ++ zeros 3

end Sys2Proof.Machine
end

