-- ==== Sys2Proof/Machine/Demod.lean ====
section
/-! DEFINITION. The FM and AM processing that the Anvils run on slot-rate samples: channel filters, discriminator, stereo
decoder, quality control, detection, noise blanker and fades (06_slots_fm_am.md, R218 to R238). -/

namespace Sys2Proof.Machine

/-! ### Channel filters (R223, R225, R234, R235) -/

/-- One channel filter: its bandwidth in Hz (FM: −3 dB; AM: one-sided audio) and its attenuation in dB at the two offsets
of its table. -/
structure ChannelFilter where
  bandwidth : Nat
  near : Nat
  far : Nat
deriving DecidableEq, Repr

/-- CFM0 to CFM9, with the attenuations at ±100 kHz and ±150 kHz (R223). -/
def cfmFilters : List ChannelFilter :=
  [⟨300000, 0, 6⟩, ⟨250000, 1, 22⟩, ⟨210000, 3, 40⟩, ⟨180000, 9, 55⟩, ⟨150000, 20, 65⟩, ⟨126000, 32, 70⟩, ⟨104000, 45, 70⟩,
   ⟨86000, 55, 70⟩, ⟨70000, 62, 70⟩, ⟨56000, 66, 70⟩]

/-- CAM0 to CAM7, with the attenuations at ±9 kHz and ±10 kHz (R234). -/
def camFilters : List ChannelFilter :=
  [⟨8000, 4, 12⟩, ⟨6000, 30, 45⟩, ⟨5000, 45, 55⟩, ⟨4500, 52, 60⟩, ⟨4000, 58, 65⟩, ⟨3500, 65, 70⟩, ⟨3000, 70, 75⟩, ⟨2500, 75, 80⟩]

/-- Taps of a channel filter: 127 at 384 kS/s for FM, 191 at 48 kS/s for AM (R223, R234). -/
def filterTaps (am : Bool) : Nat := if am then 191 else 127
/-- The group delay of every channel filter of a type, in samples (R223, R234). -/
def filterDelay (am : Bool) : Nat := (filterTaps am - 1) / 2

/-- One sample of channel filter b from the slot-rate samples in reach, newest first; each is linear-phase, so that the taps
are the same from both ends (R223, R234). -/
def filterSample (am : Bool) (b : Nat) (line : List Cplx) : Cplx :=
  let taps := filterTaps am
  firSum (fun k => Config.channelTap am b (min k (taps - 1 - k))) (line.take taps)

/-- The response of channel filter b at an offset in Hz from the centre. -/
def filterResponse (am : Bool) (b : Nat) (hz : Nat) : Cplx :=
  let rate := if am then 48000 else 384000
  cplxSum ((List.range (filterTaps am)).map fun k =>
    let taps := filterTaps am
    cDiv (cScale (Config.channelTap am b (min k (taps - 1 - k))) (cTurn (2 * unitOne - 2 * (k * hz % rate) * unitOne / rate))) unitOne)

/-- A channel filter is at least `db` down at an offset. -/
def downBy (am : Bool) (b hz db : Nat) : Prop := cAbs (filterResponse am b hz) ≤ tenthDb (10 * db)

/-- What the tables of R223 and R234 say of the taps of a channel filter: 3 dB down at the edge of its bandwidth, which is
half of the FM figure and the whole of the AM one, and down by its two attenuations; no ripple beyond 0.1 dB within half of
the passband in FM. The coefficients themselves are not in the spec (log entry 125). -/
def MeetsTable (am : Bool) (b : Nat) : Prop :=
  match (if am then camFilters else cfmFilters)[b]? with
  | none => True
  | some f =>
    let edge := if am then f.bandwidth else f.bandwidth / 2
    downBy am b edge 2 ∧ ¬downBy am b edge 4 ∧ downBy am b (if am then 9000 else 100000) f.near
      ∧ downBy am b (if am then 10000 else 150000) f.far
      ∧ (am = false → ∀ hz, hz ≤ edge / 2 → tenthDb 1 ≤ cAbs (filterResponse am b hz) ∧ cAbs (filterResponse am b hz) * tenthDb 1 ≤ unitOne * unitOne)

/-- The crossfade after a change of filter runs over 1 ms: 384 slot-rate samples, or 48 in AM (R225, R235). -/
def crossfadeSamples (am : Bool) : Nat := if am then 48 else 384

/-- Units of 1/25 tick in one slot-rate sample of a type. -/
def slotUnits (am : Bool) : Nat := if am then 12800 else 1600

/-- The filtered sample at a time: after a change of filter both run on the same input, and the new one's weight rises
linearly from 0 to 1 (R225, R235). -/
def channelSample (x : Slot) (t : Nat) (line : List Cplx) : Cplx :=
  let am := x.tune.type == .am
  let k := (t - 25 * x.bwAt) / slotUnits am
  if crossfadeSamples am ≤ k && 25 * x.bwAt ≤ t then filterSample am x.bwIndex line
  else cBetween (filterSample am x.bwFrom line) (filterSample am x.bwIndex line) k (crossfadeSamples am)

/-! ### FM (R221, R226, R227, R230) -/

/-- The discriminator (R226): the phase difference of successive slot-rate samples as a frequency in 1/256 Hz. A phase is a
turn in 2³² parts. -/
def discriminate (before after : BitVec 32) : Int := (after - before).toInt * 98304000 / (unitOne : Int)

/-- `offset_hz`: the mean of the discriminator output over the stroke (R226), in the unit of its samples. -/
def meanOffset (disc : List Int) : Int := roundDiv disc.sum disc.length

/-- The pilot PLL: loop bandwidth, pilot and pull-in range in Hz (R227). -/
def pilotBandwidth : Nat := 5
def pilotHz : Nat := 19000
def pilotPullIn : Nat := 20

/-- The PLL can lock to a pilot at this frequency (R227). -/
def pilotInRange (hz : Nat) : Bool := pilotHz ≤ hz + pilotPullIn && hz ≤ pilotHz + pilotPullIn

/-- The phase of a loop one sample later, at a frequency in 1/65536 Hz, with what the loop adds for an error (R227, R236). -/
def loopTurn (bandwidth rate phase : Nat) (hz : Int) (err : Int) : Nat :=
  ((phase + 2 * hz * unitOne / (65536 * (rate : Int)) + Config.loopPhase bandwidth rate err) % (2 * unitOne)).toNat

/-- The frequency of a loop one sample later, within its pull-in range in Hz (R227, R236). -/
def loopHz (bandwidth rate pullIn : Nat) (hz : Int) (err : Int) : Int :=
  max (-(65536 * (pullIn : Int))) (min (65536 * (pullIn : Int)) (hz + Config.loopFreq bandwidth rate err))

/-- The 38 kHz subcarrier from the phase of the PLL, in 1/2³² half turns: twice the pilot's (R227). Both cross zero upwards
together (PRESUMED, log entry 125). -/
def subcarrier (pilotPhase : Nat) : Int := sinPi (2 * pilotPhase)

/-- Coherent demodulation of the difference signal from one MPX sample, ahead of its low-pass (R227). -/
def differenceSample (mpx : Int) (pilotPhase : Nat) : Int := 2 * mpx * subcarrier pilotPhase / (unitOne : Int)

/-- The stereo matrix (R230): L = M + s × S and R = M − s × S, with s in the fixed-point unit. A mono signal has no S,
and its channels are equal (R221). -/
def stereoMatrix (s : Nat) (m d : Int) : Int × Int :=
  (m + s * d / (unitOne : Int), m - s * d / (unitOne : Int))

/-- The audio of a deviation, as a 24-bit sample for one in Hz: ±75 kHz reads −3.0 dBFS (R221). -/
def fmScale (hz : Int) : Int := hz * 8388608 * tenthDb 30 / (75000 * (unitOne : Int))

/-- The de-emphasis time constant in µs (R232); its gain at 0 Hz is one (R221). -/
def deemphasisUs (c : FmCfg) : Nat := if c.deemph75 then 75 else 50

/-- One sample of de-emphasis at 48 kHz, from the output before it (R221, R233): a first-order low-pass whose gain at 0 Hz
is one. Its factor e^(−1/(48000 τ)) is the tenth power of e^(−1/24) for 50 µs and of e^(−1/36) for 75 µs. -/
def deemphasis (c : FmCfg) (before x : Int) : Int :=
  let e := expNeg (48 * deemphasisUs c / 100)
  let keep := (List.range 9).foldl (fun acc _ => acc * e / 281474976710656) e
  x + (before - x) * keep / 281474976710656

/-- Soft mute: the audio is attenuated by d × `limit` (R230). -/
def softMute (x : Slot) (sample : Int) : Int :=
  sample * powUnit (tenthDb (fnsOf x).1.limit) x.mute.d / (unitOne : Int)

/-- A second-order Butterworth low-pass of corner fc at 48 kHz, one sample (R230): the analogue filter through the bilinear
transform with the corner kept (PRESUMED, log entry 125). -/
def butterworth (fc : Nat) (q : Biquad) (x : Int) : Biquad :=
  let u := fc * unitOne / 48000
  let k := sinPi u * unitOne / max 1 (cosPi u)
  let sq := k * k / unitOne
  let rk := 6074001000 * k / unitOne
  let den := max 1 (unitOne + rk + sq)
  let y := Int.tdiv (sq * (x + 2 * q.x1 + q.x2) - 2 * (sq - unitOne) * q.y1 - (unitOne - rk + sq) * q.y2) den
  ⟨x, q.x1, y, q.y1⟩

/-- High-cut of one channel at one sample (R230): bypassed, the filter follows its input. -/
def highcutStep (x : Slot) (q : Biquad) (v : Int) : Biquad :=
  match highcutHz x with
  | none => ⟨v, q.x1, v, q.y1⟩
  | some fc => butterworth fc q v

/-! ### RDS (R273) -/

/-- The RDS subcarrier: three times the pilot while its PLL is locked, and otherwise the phase of the carrier loop. -/
def rdsPhase (pilotLocked : Bool) (pilotPhase loopPhase : Nat) : Nat := if pilotLocked then 3 * pilotPhase else loopPhase

/-- One coherent sample of the RDS signal. -/
def rdsSample (mpx : Int) (phase : Nat) : Int := mpx * cosPi phase / (unitOne : Int)

/-- A biphase symbol at 1,187.5 bit/s: its first half against its second. -/
def rdsSymbol (samples : List Int) : Bool := 0 ≤ (samples.take (samples.length / 2)).sum - (samples.drop (samples.length / 2)).sum

/-- The bits of successive symbols: each differs from the one before it or not (IEC 62106). -/
def rdsBits : Bool → List Bool → List Bool
  | _, [] => []
  | before, b :: rest => (b != before) :: rdsBits b rest

/-! ### AM (R221, R236, R237) -/

/-- The carrier PLL: loop bandwidth and pull-in range in Hz, and the lock limit in 0.1 degrees RMS (R236). -/
def carrierBandwidth : Nat := 20
def carrierPullIn : Nat := 500
def carrierLockLimit : Nat := 150
/-- The time constant of the carrier AGC in ms, and the corner of the high-pass in Hz (R236). -/
def carrierAgcMs : Nat := 100
def carrierHighPass : Nat := 30

/-- One sample of the carrier AGC (R236): its estimate of the carrier goes to the envelope with 100 ms. -/
def carrierAgc (estimate envelope : Nat) : Nat := smooth envelope estimate (48 * carrierAgcMs)

/-- The audio of an envelope less its carrier, in 1/256 LSB of a 24-bit sample: 100 % modulation reads −6.0 dBFS after the
AGC (R221). -/
def amScale (carrier : Nat) (envelope : Int) : Int :=
  if carrier = 0 then 0 else (envelope - carrier) * 8388608 * 256 * tenthDb 60 / ((carrier : Int) * unitOne)

/-- The first-order high-pass at 30 Hz, one sample (R236): e^(−2π 30/48000) of what it held, and the change of its input
(PRESUMED, log entry 125). -/
def highPass (q : Biquad) (x : Int) : Biquad :=
  let keep := expRatio 188496 48000000
  ⟨x, q.x1, (q.y1 + x - q.x1) * keep / 281474976710656, q.y1⟩

/-- What the detector delivers from one filtered sample (R236): the envelope, or the in-phase component at the PLL's
phase. -/
def detectSample (synchronous : Bool) (pllPhase : Nat) (x : Cplx) : Int :=
  if synchronous then (cMul x (cTurn (2 * unitOne - pllPhase % (2 * unitOne)))).re else cAbs x

/-- In synchronous mode the audio is exactly zero until the PLL locks (R236). -/
def amAudioZero (x : Slot) : Bool := x.am.detector == 2 && x.lockRun == 0

/-- The share of the detector in use some samples after the last change in auto mode: a 10 ms crossfade (R236). -/
def detectorShare (samples : Nat) : Nat := if 480 ≤ samples then unitOne else samples * unitOne / 480

/-- The blanker's threshold as a factor of envelopes: 10^(`nb_threshold`/200) (R237). -/
def blankTriggered (c : AmCfg) (meanEnvelope envelope : Nat) : Bool :=
  c.nbEnable && meanEnvelope * unitOne < envelope * tenthDb c.nbThreshold

/-- The samples of a blanked span at 48 kS/s: from the trigger up to `nb_width_us` later (R237). -/
def blankSamples (c : AmCfg) : Nat := (c.nbWidthUs * 48 + 999) / 1000

/-- The samples of a span that has ended (R237): each replaced by linear interpolation between the last sample before the
trigger and the first one after the span. -/
def blankSpan (before after : Cplx) (span : List SlotSample) : List SlotSample :=
  ((List.range span.length).zip span).map fun e => { e.2 with value := cBetween before after (e.1 + 1) (span.length + 1) }

/-- The blanker at one 48 kS/s sample ahead of the channel filter (R237): a sample that exceeds the mean envelope of the last
10 ms by the threshold triggers it, a trigger within a span extends the span, and the samples of a span wait for the first
one after it. What goes on to the filter, oldest first. It suspends while the blanked share of the last 100 ms exceeds
`nb_max_duty`, until that share falls below half of it. -/
def blankerStep (c : AmCfg) (v : SlotSample) (x : Slot) : Slot × List SlotSample :=
  let d := x.demod
  let env := cAbs v.value
  let hit := !x.blankOff && !d.envelope.isEmpty && blankTriggered c (d.envelope.sum / d.envelope.length) env
  let left := if x.blankOff then 0 else if hit then blankSamples c else d.spanLeft - 1
  let blanked := (decide (0 < left) :: d.blanked).take 4800
  let duty := 1000 * blanked.countP (· == true)
  let off := if x.blankOff then c.nbMaxDuty * 4800 ≤ 2 * duty else c.nbMaxDuty * 4800 < duty
  let d1 := { d with
    envelope := (env :: d.envelope).take 480, blanked := blanked, spanLeft := left
    triggers := d.triggers + (if hit then 1 else 0) }
  if 0 < left then ({ x with blankOff := off, demod := { d1 with spanWait := d.spanWait ++ [v] } }, [])
  else ({ x with blankOff := off, demod := { d1 with spanWait := [], spanBefore := v.value } },
    blankSpan d.spanBefore v.value d.spanWait ++ [v])

/-! ### The slot audio (R212, R218, R220, R221) -/

/-- The fade of R218 lasts 10 ms: 480 samples at 48 kHz. -/
def fadeSamples : Nat := 480

/-- The factor of the slot audio for a sample stamped `t` in 1/25 tick (R212, R218): a raised-cosine rise on entry to
LIVE, a raised-cosine fall to NO_SIGNAL, and zero in every other state. -/
def audioGain (x : Slot) (t : Nat) : Nat :=
  match x.liveSpells.find? fun e => 25 * e.1 ≤ t with
  | none => 0
  | some (a, e) =>
    match e with
    | some u =>
      if t < 25 * u then raisedCosine ((t - 25 * a) / 12800) fadeSamples
      else if x.fadeFrom = some u then unitOne - raisedCosine ((t - 25 * u) / 12800) fadeSamples else 0
    | none => raisedCosine ((t - 25 * a) / 12800) fadeSamples

/-- Slot audio is valid in LIVE alone (R212). -/
def audioValid (x : Slot) (t : Nat) : Bool := x.liveSpells.any fun e => 25 * e.1 ≤ t && e.2.all fun u => t < 25 * u

/-- The slot audio that is held: 5.0 s of it (R321). -/
def audioHeld : Nat := 240000

/-- A sample of 1/256 LSB as a 24-bit sample. -/
def sample24 (v : Int) : Int := max (-8388608) (min 8388607 (roundDiv v 256))

/-- One sample of slot audio: its fade or its silence (R212, R218), and its timestamp (R222). -/
def putAudio (ts : Nat) (left right : Int) (x : Slot) : Slot :=
  let g : Int := audioGain x ts
  let out (v : Int) : Int := sample24 (v * g / (unitOne : Int))
  { x with audio := (⟨ts, out left, out right, audioValid x ts⟩ :: x.audio).take audioHeld }

/-- High-cut and soft mute of both channels at one sample, after the drives have moved (R228, R230). -/
def shapeAudio (left right : Int) (x : Slot) : Slot × Int × Int :=
  let hl := highcutStep x x.demod.hcLeft left
  let hr := highcutStep x x.demod.hcRight right
  ({ x with demod := { x.demod with hcLeft := hl, hcRight := hr } }, softMute x hl.y1, softMute x hr.y1)

/-- A function of the slot run with the parameters for a sample stamped `t` (R233). -/
def underParams {α : Type} (t : Nat) (f : Slot → Slot × α) (x : Slot) : Slot × α :=
  let (y, a) := f (withParams t x)
  ({ y with fm := x.fm, am := x.am }, a)

/-- One sample of FM audio from the decimated MPX and difference signal (R221, R227 to R232): the drives and the gate move,
then matrix, scale, de-emphasis, high-cut and soft mute. -/
def fmAudio (m d : Int) (x : Slot) : Slot × Int × Int :=
  let x1 := stepDrives x
  let (l, r) := stereoMatrix (stereoShare x1) m d
  let dl := deemphasis x1.fm x1.demod.deLeft (fmScale l)
  let dr := deemphasis x1.fm x1.demod.deRight (fmScale r)
  shapeAudio dl dr { x1 with demod := { x1.demod with deLeft := dl, deRight := dr } }

/-- One slot-rate sample of an FM slot (R222 to R230): channel filter, discriminator, removal of the offset measured over the
last whole stroke, pilot PLL and difference signal, and every eighth sample the audio. -/
def fmSample (a b v : SlotSample) (x : Slot) : Slot :=
  let d := x.demod
  let line := (v.value :: d.line).take 127
  let y := channelSample x v.time line
  let phase := BitVec.ofInt 32 (cArg y)
  let disc := discriminate d.lastPhase phase
  let mpx := disc - d.offset
  let inPhase := mpx * sinPi d.pll / (unitOne : Int)
  let quad := mpx * cosPi d.pll / (unitOne : Int)
  let diff := differenceSample mpx d.pll
  let d1 := { d with
    line := line, lastPhase := phase, mpx := (mpx :: d.mpx).take 255, diff := (diff :: d.diff).take 255
    inPhase := d.inPhase + inPhase, quadrature := d.quadrature + quad
    pll := loopTurn pilotBandwidth 384000 d.pll (65536 * pilotHz + d.pllHz) quad
    pllHz := loopHz pilotBandwidth 384000 pilotPullIn d.pllHz quad
    taken := if v.ok then ⟨a.value, b.value, v.value, y, disc, 0⟩ :: d.taken else d.taken }
  let x1 := { x with demod := d1 }
  if v.time / 1600 % 8 ≠ 0 then x1
  else
    let t := sampleTime x v
    let ts := t - audioDelay (withParams t x)
    let (x2, l, r) := underParams ts (fmAudio (firReal Config.mpxTap d1.mpx) (firReal Config.mpxTap d1.diff)) x1
    putAudio ts l r x2

/-- One sample that has passed the blanker of an AM slot (R221, R234 to R236): channel filter, PLL, detection, carrier AGC,
high-pass, high-cut and soft mute. -/
def amFiltered (v : SlotSample) (x : Slot) : Slot :=
  let d := x.demod
  let line := (v.value :: d.line).take 191
  let y := channelSample x v.time line
  let err := wrapPhase (cArg y - d.pll / 2)
  let env := cAbs y
  let carrier := if d.carrier = 0 then env else carrierAgc d.carrier env
  let byEnvelope := amScale carrier (detectSample false d.pll y)
  let coherent := amScale carrier (detectSample true d.pll y)
  let share := if v.time < 25 * x.detectAt then 0 else detectorShare ((v.time - 25 * x.detectAt) / 12800)
  let ts := sampleTime x v - audioDelay x
  let audio := match (paramsAt x ts).2.detector with
    | 1 => byEnvelope
    | 2 => if x.lockRun = 0 then 0 else coherent
    | _ =>
      let (old, new) := if x.syncDet then (byEnvelope, coherent) else (coherent, byEnvelope)
      old + (new - old) * share / (unitOne : Int)
  let hp := highPass d.highPass audio
  let d1 := { d with
    line := line, carrier := carrier, highPass := hp
    pll := loopTurn carrierBandwidth 48000 d.pll d.pllHz err, pllHz := loopHz carrierBandwidth 48000 carrierPullIn d.pllHz err
    taken := if v.ok then ⟨v.value, ⟨0, 0⟩, v.value, y, 0, err⟩ :: d.taken else d.taken }
  let (x2, l, r) := underParams ts (fun x => shapeAudio hp.y1 hp.y1 (stepDrives x)) { x with demod := d1 }
  putAudio ts l r x2

/-- One slot-rate sample of an AM slot: the noise blanker, then what it lets go on (R237). -/
def amSample (v : SlotSample) (x : Slot) : Slot :=
  let (x1, out) := blankerStep (paramsAt x (sampleTime x v)).2 v x
  out.foldl (fun x v => amFiltered v x) x1

/-- One slot-rate sample of an ensemble slot goes into the slot buffer (R246). -/
def dabSample (v : SlotSample) (x : Slot) : Slot :=
  { x with
    buffer := ((Config.bufferWord v.value.re, Config.bufferWord v.value.im) :: x.buffer).take 16384
    demod := { x.demod with taken := if v.ok then ⟨v.value, ⟨0, 0⟩, v.value, v.value, 0, 0⟩ :: x.demod.taken else x.demod.taken } }

/-- One slot-rate sample: the two branches and what the combiner makes of them (R172). A sample taken before the last reset or
clear is not demodulated (R220). -/
def takeSample (e : SlotSample × SlotSample × SlotSample) (x : Slot) : Slot :=
  let (a, b, v) := e
  if v.time < 25 * x.clearedAt then x
  else
    let x1 := { x with blockTs := blockTime x v }
    match x.tune.type with
    | .fm | .fmDiversity => fmSample a b v x1
    | .am => amSample v x1
    | .dab => dabSample v x1

/-! ### The metrics of a stroke (R239, R240, R270)

They come from the valid slot-rate samples taken at the converter within the stroke, as they leave the chain (log entry
123). -/

/-- The level of a mean power, in 0.1 dBµV (R240): full scale is that of GI 0, and dBµV = dBm + 107 (R149). -/
def levelOfPower (x : Slot) (p : Nat) : Int :=
  roundDiv (levelOf (isqrt 80 p 0) unitOne) 10 + ballFullScale x.tune.input 0 + 1070

/-- A ratio of two powers in 0.1 dB. -/
def ratioDb (p q : Nat) : Int := roundDiv (levelOf (isqrt 80 p 0) (max 1 (isqrt 80 q 0))) 10

/-- A ratio of the roots of two powers, each times a factor, in 0.1 %. -/
def rootShare (p q : Nat) : Nat := if q = 0 then 0 else isqrt 40 (1000000 * p / q) 0

/-- One metric of a stroke, none when it brought no sample. -/
def whenAny {α β : Type} (l : List α) (v : β) : Option β := if l.isEmpty then none else some v

/-- The half-width in Hz of the band that `rssi` measures: the channel filter's passband, or the ensemble's (R240, R270). -/
def levelBand (x : Slot) : Int :=
  match x.tune.type with
  | .am => (((camFilters[x.bwIndex]?).map (·.bandwidth)).getD 0 : Nat)
  | .dab => 768000
  | _ => (((cfmFilters[x.bwIndex]?).map (·.bandwidth / 2)).getD 0 : Nat)

/-- Real samples as complex ones. -/
def asCplx (l : List Int) : List Cplx := l.map fun v => ⟨v, 0⟩

/-- The metrics of an FM slot over the stroke (R226, R240). -/
def fmReading (x : Slot) : SlotReading :=
  let d := x.demod
  let t := d.taken
  let vs := t.map (·.v)
  let disc := t.map (·.disc)
  let off := meanOffset disc
  let main := bandPower vs 384000 (-60000) 60000
  let level (l : List Cplx) : Int := levelOfPower x (bandPower l 384000 (-(levelBand x)) (levelBand x))
  let envs := vs.map cAbs
  let mean := envs.sum / max 1 envs.length
  let locked := !t.isEmpty && Config.pilotLock d.inPhase d.quadrature
  { SlotReading.reset with
    rssi := whenAny t (level (t.map fun e => if x.tune.type = .fmDiversity then e.a else e.v))
    rssiB := if x.tune.type = .fmDiversity then whenAny t (level (t.map (·.b))) else none
    offsetHz := whenAny t (roundDiv off 256)
    adjLower := whenAny t (ratioDb (bandPower vs 384000 (-160000) (-100000)) main)
    adjUpper := whenAny t (ratioDb (bandPower vs 384000 100000 160000) main)
    usn := whenAny t (rootShare (4 * bandPower (asCplx (disc.map (· - off))) 384000 60000 90000) (19200000 * 19200000))
    multipath := whenAny t (rootShare (2 * bandPower (asCplx (envs.map Int.ofNat)) 384000 1000 20000) (mean * mean))
    deviation := whenAny t (((disc.map fun v => (v - off).natAbs).foldl max 0 + 12800) / 25600)
    pilotLocked := locked
    pilot := if locked then (2 * d.inPhase.natAbs / t.length + 12800) / 25600 else 0 }

/-- The detector that an AM slot uses (R236, R240). -/
def synchronousNow (x : Slot) : Bool := detectorInUse x == 2

/-- The metrics of an AM slot over the stroke (R235, R236, R240): `offset_hz` is the PLL's frequency, or with the envelope
detector the mean phase advance of the filtered signal. -/
def amReading (x : Slot) : SlotReading :=
  let d := x.demod
  let t := d.taken
  let vs := t.map (·.v)
  let ys := t.map (·.y)
  let raster : Int := x.tune.raster
  let main := bandPower vs 48000 (-2500) 2500
  let level := levelOfPower x (bandPower vs 48000 (-(levelBand x)) (levelBand x))
  let turn := cArg (cplxSum ((ys.zip (ys.drop 1)).map fun e => cFullMul e.1 (cConj e.2)))
  let squares := (t.map fun e => e.err.natAbs * e.err.natAbs).sum / max 1 t.length
  { SlotReading.reset with
    rssi := whenAny t level
    offsetHz := whenAny t (if synchronousNow x then roundDiv d.pllHz 65536 else roundDiv (turn * 48000) unitOne)
    adjLower := whenAny t (ratioDb (bandPower vs 48000 (-raster - 2500) (-raster + 2500)) main)
    adjUpper := whenAny t (ratioDb (bandPower vs 48000 (raster - 2500) (raster + 2500)) main)
    modulation := if d.carrier = 0 then none
      else whenAny t (((ys.map fun y => ((cAbs y : Int) - d.carrier).natAbs).foldl max 0) * 1000 / d.carrier)
    pllError := whenAny t (isqrt 40 squares 0 * 3600 / unitOne)
    blankTriggers := d.triggers }

/-- The metrics of an ensemble slot that a stroke gives (R270): its level, and the frequency that the receiver tracks. -/
def dabReading (x : Slot) : SlotReading :=
  let t := x.demod.taken
  { SlotReading.reset with
    rssi := whenAny t (levelOfPower x (bandPower (t.map (·.v)) 2048000 (-768000) 768000))
    offsetHz := x.dab.freqHz }

/-- The metrics of the stroke just ended. -/
def strokeReading (x : Slot) : SlotReading :=
  match x.tune.type with
  | .fm | .fmDiversity => fmReading x
  | .am => amReading x
  | .dab => dabReading x

/-- The sums of a stroke begin anew; what the stroke measured as the offset is what the next removes (R226). -/
def nextStroke (x : Slot) : Slot :=
  let disc := x.demod.taken.map (·.disc)
  { x with demod := { x.demod with
      taken := [], inPhase := 0, quadrature := 0, triggers := 0
      offset := if disc.isEmpty then x.demod.offset else meanOffset disc } }

/-- The measurement of an FM or AM slot over the stroke that ends, before anything that its boundary changes (R239). -/
def closeStroke (s : State) (x : Slot) : Slot := nextStroke (takeReading s (strokeReading x) x)

/-! ### The frame at the slots (R166, R169) -/

/-- What a frame of an input, begun at `t` with number `m` in its epoch, does to a slot that reads its bank. -/
def receiveFrame (s : State) (i : Fin 3) (line : List Int) (m t : Nat) (x : Slot) : Slot :=
  let (x1, out) := slotFrame s i line m t x
  out.foldl (fun x e => takeSample e x) x1

/-- CHANNELISER_FRAME (R155, R160, R166 to R170, R172, R177, R178, R188): a frame ends. The Bellows tests it, its samples are
corrected, and the slots that read the bank take its bins. -/
def execChanneliserFrame (i : Fin 3) (codes : List Int) (s : State) : Out :=
  if frameOpen i s then
    let s1 := frameEnds i codes s
    let m := s.inputs[i].frameNo
    .next { s1 with slots := s1.slots.map (receiveFrame s1 i s1.inputs[i].line m s.inputs[i].frameTs) }
  else .next s

end Sys2Proof.Machine
end

