-- ==== Sys2Proof/Machine/Fec.lean ====
section
/-! DEFINITION. Error-correcting codes and sequences: binary fields, Reed–Solomon and BCH codes, the convolutional code of
DAB with its Viterbi decoder, and shift-register sequences (07_dab.md R259 to R261, 11_crucible_store.md R384, 13_link_phy.md
R451 and R458). The spec names the codes; how they are decoded is the textbook's. -/

namespace Sys2Proof.Machine

/-! ### Binary fields -/

/-- GF(2^m), by its degree and its polynomial with the leading term. -/
structure BinField where
  m : Nat
  poly : Nat
deriving DecidableEq, Repr

/-- GF(2⁸) over 0x11D (R458), and GF(2¹⁴) over x¹⁴ + x⁵ + x³ + x + 1 (R384). -/
def gf256 : BinField := ⟨8, 0x11D⟩
def gf16384 : BinField := ⟨14, 0x402B⟩

/-- An element times x. -/
def BinField.shift (f : BinField) (a : Nat) : Nat := if 2 ^ f.m ≤ 2 * a then 2 * a ^^^ f.poly else 2 * a

/-- The product of two elements, by the bits of the second from the top. -/
def BinField.mul (f : BinField) (a b : Nat) : Nat :=
  (List.range f.m).foldl (fun acc k => f.shift acc ^^^ (if b.testBit (f.m - 1 - k) then a else 0)) 0

/-- A power of an element, by the bits of the exponent from the top. -/
def BinField.pow (f : BinField) (a n : Nat) : Nat :=
  (List.range 16).foldl (fun acc k => let sq := f.mul acc acc; if n.testBit (15 - k) then f.mul sq a else sq) 1

/-- A power of α, the element x. -/
def BinField.alpha (f : BinField) (n : Nat) : Nat := f.pow 2 (n % (2 ^ f.m - 1))

/-- The inverse of an element that is not zero. -/
def BinField.inv (f : BinField) (a : Nat) : Nat := f.pow a (2 ^ f.m - 2)

/-- The value of a polynomial, lowest coefficient first. -/
def BinField.eval (f : BinField) (p : List Nat) (x : Nat) : Nat := p.foldr (fun c acc => c ^^^ f.mul acc x) 0

/-- The sum of two polynomials. -/
def polyAdd (p q : List Nat) : List Nat :=
  (List.range (max p.length q.length)).map fun k => p.getD k 0 ^^^ q.getD k 0

/-- The product of two polynomials, up to a number of coefficients. -/
def BinField.polyMul (f : BinField) (n : Nat) (p q : List Nat) : List Nat :=
  (List.range n).map fun k =>
    (List.range (k + 1)).foldl (fun acc j => acc ^^^ f.mul (p.getD j 0) (q.getD (k - j) 0)) 0

/-! ### Decoding up to the bound: Berlekamp and Massey with erasures, then Forney -/

/-- The syndromes of a word, its first element of the highest degree, at the roots α^0 or α^1 onwards. -/
def BinField.syndromes (f : BinField) (first roots : Nat) (word : List Nat) : List Nat :=
  (List.range roots).map fun j => let r := f.alpha (first + j); word.foldl (fun acc c => f.mul acc r ^^^ c) 0

/-- One step of the Berlekamp–Massey iteration: the locator, the correction polynomial and the length of the register. -/
def BinField.massey (f : BinField) (s : List Nat) (erased : Nat) (w : List Nat × List Nat × Nat) (r : Nat) :
    List Nat × List Nat × Nat :=
  let (lam, b, len) := w
  let d := (List.range lam.length).foldl (fun acc k => acc ^^^ (if k ≤ r then f.mul (lam.getD k 0) (s.getD (r - k) 0) else 0)) 0
  if d = 0 then (lam, 0 :: b, len)
  else
    let t := polyAdd lam ((0 :: b).map (f.mul d))
    if 2 * len ≤ r + erased then (t, lam.map (f.mul (f.inv d)), r + 1 + erased - len) else (t, 0 :: b, len)

/-- The locator of errors and erasures; positions count from the last element of the word. -/
def BinField.locator (f : BinField) (s : List Nat) (erasures : List Nat) : List Nat × Nat :=
  let gamma := erasures.foldl (fun p e => polyAdd p ((0 :: p).map (f.mul (f.alpha e)))) [1]
  let n := erasures.length
  let w := (List.range (s.length - n)).foldl (fun w k => f.massey s n w (n + k)) (gamma, gamma, n)
  (w.1, w.2.2)

/-- The positions at which a locator of this degree has its roots, if there are as many as its degree. -/
def BinField.positions (f : BinField) (length : Nat) (lam : List Nat) (degree : Nat) : Option (List Nat) :=
  let found := (List.range length).filter fun p => f.eval lam (f.alpha (2 ^ f.m - 1 - p)) == 0
  if found.length = degree then some found else none

/-- The value of the error at a position (Forney), for roots that begin at α^0. -/
def BinField.errorAt (f : BinField) (s lam : List Nat) (p : Nat) : Nat :=
  let x := f.alpha p
  let xi := f.alpha (2 ^ f.m - 1 - p)
  let omega := f.polyMul s.length s lam
  let slope := (List.range lam.length).foldl (fun acc k =>
    acc ^^^ (if k % 2 = 1 then f.mul (lam.getD k 0) (f.pow xi (k - 1)) else 0)) 0
  f.mul x (f.mul (f.eval omega xi) (f.inv slope))

/-- A word with the given positions, counted from its last element, changed by their errors. -/
def patch (word : List Nat) (errors : List (Nat × Nat)) : List Nat :=
  errors.foldl (fun w e => w.set (w.length - 1 - e.1) (w.getD (w.length - 1 - e.1) 0 ^^^ e.2)) word

/-! ### Reed–Solomon (R261, R458) -/

/-- The generator of a code with roots α^0 onwards, highest coefficient first. -/
def rsGenerator (f : BinField) (roots : Nat) : List Nat :=
  ((List.range roots).foldl (fun g j => polyAdd (0 :: g) (g.map (f.mul (f.alpha j)))) [1]).reverse

/-- The parity of a message: the remainder of its shift by the generator. -/
def rsParity (f : BinField) (roots : Nat) (msg : List Nat) : List Nat :=
  let g := (rsGenerator f roots).drop 1
  msg.foldl (fun rem c =>
    let k := c ^^^ rem.headD 0
    (List.range roots).map fun j => rem.getD (j + 1) 0 ^^^ f.mul k (g.getD j 0)) (List.replicate roots 0)

/-- A systematic codeword. -/
def rsEncode (f : BinField) (roots : Nat) (msg : List Nat) : List Nat := msg ++ rsParity f roots msg

/-- A word decoded, with the erased indices given, and how many elements it corrected: e errors and g erasures where
2e + g is at most the number of roots; none outside that bound. -/
def rsDecode (f : BinField) (roots : Nat) (erasedAt : List Nat) (word : List Nat) : Option (List Nat × Nat) :=
  let s := f.syndromes 0 roots word
  if s.all (· == 0) then some (word, 0)
  else if roots < erasedAt.length then none
  else
    let er := erasedAt.map fun k => word.length - 1 - k
    let (lam, degree) := f.locator s er
    if roots < 2 * degree - er.length then none
    else (f.positions word.length lam degree).map fun ps =>
      let errs := (ps.map fun p => (p, f.errorAt s lam p)).filter fun e => e.2 != 0
      (patch word errs, errs.length)

/-! ### Binary BCH (R384) -/

/-- The product of two binary polynomials as numbers. -/
def carrylessMul (a b : Nat) : Nat :=
  (List.range (b.log2 + 1)).foldl (fun acc k => if b.testBit k then acc ^^^ (a <<< k) else acc) 0

/-- The powers of α conjugate to α^k. -/
def conjugates (f : BinField) (k : Nat) : List Nat :=
  ((List.range f.m).map fun j => k * 2 ^ j % (2 ^ f.m - 1)).eraseDups

/-- The minimal polynomial of α^k, as a number. -/
def minimalPoly (f : BinField) (k : Nat) : Nat :=
  let p := (conjugates f k).foldl (fun p c => polyAdd (0 :: p) (p.map (f.mul (f.alpha c)))) [1]
  ((List.range p.length).map fun j => if p.getD j 0 = 1 then 2 ^ j else 0).sum

/-- The generator of the code that corrects t errors: the product of the distinct minimal polynomials of α^1 to
α^(2t − 1). -/
def bchGenerator (f : BinField) (t : Nat) : Nat :=
  (((List.range t).map fun k => minimalPoly f (2 * k + 1)).eraseDups).foldl carrylessMul 1

/-- The bits of bytes, the most significant bit of each first. -/
def bitsOfBytes (l : List Byte) : List Bool := l.flatMap fun b => (List.range 8).map fun k => b.getLsbD (7 - k)

/-- Bytes from bits, the most significant first. -/
def bytesOfBits : List Bool → List Byte
  | a :: b :: c :: d :: e :: f :: g :: h :: rest =>
    BitVec.ofNat 8 ([a, b, c, d, e, f, g, h].foldl (fun n v => 2 * n + v.toNat) 0) :: bytesOfBits rest
  | _ => []

/-- The remainder of data bits, shifted up by the generator's degree, as a number. -/
def bchRemainder (generator : Nat) (data : List Bool) : Nat :=
  let deg := generator.log2
  data.foldl (fun rem b =>
    let top := rem.testBit (deg - 1) != b
    let low := (2 * rem) % 2 ^ deg
    if top then low ^^^ (generator % 2 ^ deg) else low) 0

/-- The parity bits of data bits in a field of a given size, the highest first: the remainder of the data shifted up by the
whole field, so that the word is a multiple of the generator. -/
def bchParity (generator size : Nat) (data : List Bool) : List Bool :=
  let r := bchRemainder generator (data ++ List.replicate (size - generator.log2) false)
  (List.range size).map fun k => r.testBit (size - 1 - k)

/-- A received word of data and parity bits decoded, and how many bits it corrected; none with more than t errors. -/
def bchDecode (f : BinField) (t : Nat) (word : List Bool) : Option (List Bool × Nat) :=
  let w := word.map Bool.toNat
  let s := f.syndromes 1 (2 * t) w
  if s.all (· == 0) then some (word, 0)
  else
    let (lam, degree) := f.locator s []
    if t < degree then none
    else (f.positions word.length lam degree).map fun ps =>
      ((patch w (ps.map fun p => (p, 1))).map (· == 1), ps.length)

/-! ### The convolutional code of DAB (R259) -/

/-- The four generators of the mother code, rate 1/4 and constraint length 7 (R259). -/
def motherCode : List Nat := [0o133, 0o171, 0o145, 0o133]

/-- Whether a number has an odd count of ones among its low seven bits. -/
def oddOnes (n : Nat) : Bool := ((List.range 7).foldl (fun acc k => acc != n.testBit k) false)

/-- The four bits for one input bit and the six before it, newest of which is bit 5 of the register. -/
def motherBits (reg : Nat) (b : Bool) : List Bool := motherCode.map fun g => oddOnes (g &&& (64 * b.toNat + reg))

/-- The register after one input bit. -/
def motherNext (reg : Nat) (b : Bool) : Nat := (64 * b.toNat + reg) / 2

/-- Encodes bits from a register of zeros. -/
def motherEncode : Nat → List Bool → List (List Bool)
  | _, [] => []
  | reg, b :: rest => motherBits reg b :: motherEncode (motherNext reg b) rest

/-- What a branch gains from its soft decisions: a decision is −7 to 7, positive for a one, and an erasure is 0 and
carries no weight. -/
def branchGain (bits : List Bool) (soft : List Int) : Int :=
  ((bits.zip soft).map fun e => if e.1 then e.2 else -e.2).sum

/-- The survivor of each of the 64 registers: its gain and its bits, newest first. -/
abbrev Survivors := List (Int × List Bool)

/-- The better of the two ways into a register: the newest bit is its top bit, and the bit that left is either. -/
def survive (before : Survivors) (soft : List Int) (reg : Nat) : Int × List Bool :=
  let b := decide (32 ≤ reg)
  let way := fun (old : Nat) =>
    let p := before.getD old (-1000000000, [])
    (p.1 + branchGain (motherBits old b) soft, b :: p.2)
  let x := way (2 * reg % 64)
  let y := way (2 * reg % 64 + 1)
  if y.1 ≤ x.1 then x else y

/-- The Viterbi decoder: the bits of the best path that ends in the register of zeros, the six tail bits included. -/
def viterbi (soft : List (List Int)) : List Bool :=
  let start : Survivors := (List.range 64).map fun r => (if r = 0 then 0 else -1000000000, [])
  let last := soft.foldl (fun sv q => (List.range 64).map (survive sv q)) start
  (last.getD 0 (0, [])).2.reverse

/-- Hard decisions that differ from the bits encoded again, and how many were compared: erasures are left out (R259
`ber_pre`). -/
def channelErrors (decoded : List Bool) (soft : List (List Int)) : Nat × Nat :=
  let pairs := ((motherEncode 0 decoded).flatten.zip soft.flatten).filter fun e => e.2 != 0
  ((pairs.filter fun e => e.1 != decide (0 < e.2)).length, pairs.length)

/-- The puncturing vector of index PI of EN 300 401: in each group of four the first bit is always sent, and the others
are filled in the order of the groups 0, 4, 2, 6, 1, 5, 3, 7 (PRESUMED, log entry 14). -/
def punctureVector (pi : Nat) : List Bool :=
  (List.range 32).map fun k =>
    let rank := [0, 4, 2, 6, 1, 5, 3, 7].getD (k / 4) 0
    k % 4 == 0 || 8 * (k % 4 - 1) + rank < pi

/-- The blocks of 128 mother-code bits of an equal error protection profile with the index of each (EN 300 401): `b` is
profile B, `level` 1 to 4, and n its bit rate in units of 8 or 32 kbit/s (PRESUMED, log entry 14). -/
def eepBlocks (b : Bool) (level n : Nat) : List (Nat × Nat) :=
  if b then
    let p := [(10, 9), (6, 5), (4, 3), (2, 1)].getD (level - 1) (2, 1)
    [(24 * n - 3, p.1), (3, p.2)]
  else match level with
    | 1 => [(6 * n - 3, 24), (3, 23)]
    | 2 => if n = 1 then [(5, 13), (1, 12)] else [(2 * n - 3, 14), (4 * n + 3, 13)]
    | 3 => [(6 * n - 3, 8), (3, 7)]
    | _ => [(4 * n - 3, 3), (2 * n + 3, 2)]

/-- Which mother-code bits a profile sends: four periods of its vector a block, then the 24 tail bits by the vector of
index 8. -/
def sentBits (blocks : List (Nat × Nat)) : List Bool :=
  (blocks.flatMap fun e => (List.replicate (4 * e.1) (punctureVector e.2)).flatten) ++ (punctureVector 8).take 24

/-- Received decisions put back where their bits were sent; the rest are erasures. -/
def depuncture : List Bool → List Int → List Int
  | [], _ => []
  | true :: m, v :: rest => v :: depuncture m rest
  | true :: m, [] => 0 :: depuncture m []
  | false :: m, l => 0 :: depuncture m l

/-- A list in fours. -/
def inFours {α : Type} : List α → List (List α)
  | a :: b :: c :: d :: rest => [a, b, c, d] :: inFours rest
  | _ => []

/-- A subchannel's logical frame from its soft decisions: depunctured by its profile and decoded, with the errors that
encoding it again shows (R259). -/
def decodeFrame (blocks : List (Nat × Nat)) (soft : List Int) : List Bool × Nat × Nat :=
  let q := inFours (depuncture (sentBits blocks) soft)
  let bits := viterbi q
  (bits.take (bits.length - 6), channelErrors bits q)

/-! ### Shift-register sequences (R451, R458) -/

/-- Bits of the sequence x^n + x^k + 1 from a register: each new bit is the sum of stages n and k, which are bits n − 1
and k − 1 of the register, and is shifted in at stage 1 (DESIGN CHOICE, log entry 90). -/
def lfsr (n k : Nat) : Nat → Nat → List Bool
  | 0, _ => []
  | count + 1, reg =>
    let b := reg.testBit (n - 1) != reg.testBit (k - 1)
    b :: lfsr n k count ((2 * reg + b.toNat) % 2 ^ n)

/-- The energy dispersal of DAB: x⁹ + x⁵ + 1 from all ones, as EN 300 401 has it. -/
def disperse (bits : List Bool) : List Bool := (bits.zip (lfsr 9 5 bits.length 0x1FF)).map fun e => e.1 != e.2

end Sys2Proof.Machine
end

