-- ==== Sys2Proof/Machine/Fic.lean ====
section
/-! DEFINITION. What an ensemble's bits say: the protection profiles of its subchannels, the FIC's decoder, FIBs, and the FIGs
that they carry (07_dab.md, R254 to R259). The spec names EN 300 401 for tables and FIG layouts and does not repeat them
(notes/assumptions/14.md). -/

namespace Sys2Proof.Machine

/-! ### Protection profiles (R255, R259) -/

/-- One row of the table of unequal error protection: capacity units, kbit/s, and the blocks of 128 mother-code bits with the
puncturing index of each. -/
structure UepRow where
  size : Nat
  bitrate : Nat
  blocks : List (Nat × Nat)
deriving DecidableEq, Repr

/-- The rows of 32 to 64 kbit/s. -/
def uepRows0 : List UepRow :=
  [⟨16, 32, [(3, 5), (4, 3), (17, 2)]⟩, ⟨21, 32, [(3, 11), (3, 6), (18, 5)]⟩, ⟨24, 32, [(3, 15), (4, 9), (14, 6), (3, 8)]⟩,
   ⟨29, 32, [(3, 22), (4, 13), (14, 8), (3, 13)]⟩, ⟨35, 32, [(3, 24), (5, 17), (13, 12), (3, 17)]⟩,
   ⟨24, 48, [(4, 5), (3, 4), (26, 2), (3, 3)]⟩, ⟨29, 48, [(3, 9), (4, 6), (26, 4), (3, 6)]⟩,
   ⟨35, 48, [(3, 15), (4, 10), (26, 6), (3, 9)]⟩, ⟨42, 48, [(3, 24), (4, 14), (26, 8), (3, 15)]⟩,
   ⟨52, 48, [(3, 24), (5, 18), (25, 13), (3, 18)]⟩, ⟨29, 56, [(6, 5), (10, 4), (23, 2), (3, 3)]⟩,
   ⟨35, 56, [(6, 9), (10, 6), (23, 4), (3, 5)]⟩, ⟨42, 56, [(6, 16), (12, 7), (21, 6), (3, 9)]⟩,
   ⟨52, 56, [(6, 23), (10, 13), (23, 8), (3, 13)]⟩, ⟨32, 64, [(6, 5), (9, 3), (31, 2), (2, 3)]⟩,
   ⟨42, 64, [(6, 11), (9, 6), (33, 5)]⟩, ⟨48, 64, [(6, 16), (12, 8), (27, 6), (3, 9)]⟩,
   ⟨58, 64, [(6, 23), (10, 13), (29, 8), (3, 13)]⟩, ⟨70, 64, [(6, 24), (11, 18), (28, 12), (3, 18)]⟩]

/-- The rows of 80 to 128 kbit/s. -/
def uepRows1 : List UepRow :=
  [⟨40, 80, [(6, 6), (10, 3), (41, 2), (3, 3)]⟩, ⟨52, 80, [(6, 11), (10, 6), (41, 5), (3, 6)]⟩,
   ⟨58, 80, [(6, 16), (11, 8), (40, 6), (3, 7)]⟩, ⟨70, 80, [(6, 23), (10, 13), (41, 8), (3, 13)]⟩,
   ⟨84, 80, [(6, 24), (10, 17), (41, 12), (3, 18)]⟩, ⟨48, 96, [(7, 5), (9, 4), (53, 2), (3, 4)]⟩,
   ⟨58, 96, [(7, 9), (10, 6), (52, 4), (3, 6)]⟩, ⟨70, 96, [(6, 16), (12, 9), (51, 6), (3, 10)]⟩,
   ⟨84, 96, [(6, 22), (10, 12), (53, 9), (3, 12)]⟩, ⟨104, 96, [(6, 24), (13, 18), (50, 13), (3, 19)]⟩,
   ⟨58, 112, [(14, 5), (17, 4), (50, 2), (3, 5)]⟩, ⟨70, 112, [(11, 9), (21, 6), (49, 4), (3, 8)]⟩,
   ⟨84, 112, [(11, 16), (23, 8), (47, 6), (3, 9)]⟩, ⟨104, 112, [(11, 23), (21, 12), (49, 9), (3, 14)]⟩,
   ⟨64, 128, [(12, 5), (19, 3), (62, 2), (3, 4)]⟩, ⟨84, 128, [(11, 11), (21, 6), (61, 5), (3, 7)]⟩,
   ⟨96, 128, [(11, 16), (22, 9), (60, 6), (3, 10)]⟩, ⟨116, 128, [(11, 22), (21, 12), (61, 9), (3, 14)]⟩,
   ⟨140, 128, [(11, 24), (20, 17), (62, 13), (3, 19)]⟩]

/-- The rows of 160 to 224 kbit/s. -/
def uepRows2 : List UepRow :=
  [⟨80, 160, [(11, 5), (19, 4), (87, 2), (3, 4)]⟩, ⟨104, 160, [(11, 11), (23, 6), (83, 5), (3, 9)]⟩,
   ⟨116, 160, [(11, 16), (24, 8), (82, 6), (3, 11)]⟩, ⟨140, 160, [(11, 22), (21, 11), (85, 9), (3, 13)]⟩,
   ⟨168, 160, [(11, 24), (22, 18), (84, 12), (3, 19)]⟩, ⟨96, 192, [(11, 6), (20, 4), (110, 2), (3, 5)]⟩,
   ⟨116, 192, [(11, 10), (22, 6), (108, 4), (3, 9)]⟩, ⟨140, 192, [(11, 16), (24, 10), (106, 6), (3, 11)]⟩,
   ⟨168, 192, [(11, 22), (20, 13), (110, 9), (3, 13)]⟩, ⟨208, 192, [(11, 24), (21, 20), (109, 13), (3, 24)]⟩,
   ⟨116, 224, [(12, 8), (22, 6), (131, 2), (3, 6)]⟩, ⟨140, 224, [(12, 12), (26, 8), (127, 4), (3, 11)]⟩,
   ⟨168, 224, [(11, 16), (20, 10), (134, 7), (3, 9)]⟩, ⟨208, 224, [(11, 24), (22, 16), (132, 10), (3, 15)]⟩,
   ⟨232, 224, [(11, 24), (24, 20), (130, 12), (3, 20)]⟩]

/-- The rows of 256 to 384 kbit/s. -/
def uepRows3 : List UepRow :=
  [⟨128, 256, [(11, 6), (24, 5), (154, 2), (3, 5)]⟩, ⟨168, 256, [(11, 12), (24, 9), (154, 5), (3, 10)]⟩,
   ⟨192, 256, [(11, 16), (27, 10), (151, 7), (3, 10)]⟩, ⟨232, 256, [(11, 24), (22, 14), (156, 10), (3, 13)]⟩,
   ⟨280, 256, [(11, 24), (26, 19), (152, 14), (3, 18)]⟩, ⟨160, 320, [(11, 8), (26, 5), (200, 2), (3, 6)]⟩,
   ⟨208, 320, [(11, 13), (25, 9), (201, 5), (3, 10)]⟩, ⟨280, 320, [(11, 24), (26, 17), (200, 9), (3, 17)]⟩,
   ⟨192, 384, [(11, 8), (27, 6), (247, 2), (3, 7)]⟩, ⟨280, 384, [(11, 16), (24, 9), (250, 7), (3, 10)]⟩,
   ⟨416, 384, [(12, 24), (28, 20), (245, 14), (3, 23)]⟩]

/-- The table of unequal error protection by its index, 0 to 63 (PRESUMED, log entry 14). -/
def uepTable : List UepRow := uepRows0 ++ uepRows1 ++ uepRows2 ++ uepRows3

/-- The bit rate in kbit/s of a long-form organisation: option A in steps of 8, option B of 32, by the size in CUs. -/
def eepBitrate (b : Bool) (level size : Nat) : Nat :=
  if b then 32 * (size / [27, 21, 18, 15].getD (level - 1) 15) else 8 * (size / [12, 8, 6, 4].getD (level - 1) 4)

/-- The blocks of mother-code bits of a subchannel by `protection` of R298 and its bit rate (R259). -/
def profileBlocks (protection : Byte) (bitrate : Nat) : List (Nat × Nat) :=
  if protection.getLsbD 7 then
    let b := protection.getLsbD 5
    eepBlocks b (protection.toNat % 4 + 1) (bitrate / (if b then 32 else 8))
  else ((uepTable[protection.toNat % 64]?).map (·.blocks)).getD []

/-! ### FIBs (R254) -/

/-- The blocks of the FIC: 21 with puncturing index 16 and three with 15, for the 768 bits that a CIF's 2,304 carry. -/
def ficBlocks : List (Nat × Nat) := [(21, 16), (3, 15)]

/-- A list in runs of n, as many as are given. -/
def runsOf {α : Type} (n : Nat) : Nat → List α → List (List α)
  | 0, _ => []
  | k + 1, l => l.take n :: runsOf n k (l.drop n)

/-- The three FIBs of 32 bytes that the FIC of one CIF decodes to, the energy dispersal removed (R254). -/
def fibsOf (soft : List Int) : List (List Byte) :=
  runsOf 32 3 (bytesOfBits (disperse (decodeFrame ficBlocks soft).1))

/-- The CRC-16 of a FIB stands: the complement of the CRC of its 30 data bytes (R254; EN 300 401). -/
def fibStands (fib : List Byte) : Bool :=
  fib.length == 32 && (crc16 (fib.take 30) ^^^ 0xFFFF).toNat == 256 * getU 1 30 fib + getU 1 31 fib

/-! ### FIGs (R255, R256) -/

/-- The number that bytes spell, the first highest. -/
def highNat (l : List Byte) : Nat := l.foldl (fun n b => 256 * n + b.toNat) 0

/-- The field of n bits at bit k of bytes, bit 0 the highest of the first. -/
def bitsAt (k n : Nat) (l : List Byte) : Nat :=
  highNat (l.take ((k + n + 7) / 8)) / 2 ^ (8 * ((k + n + 7) / 8) - k - n) % 2 ^ n

/-- FIG 0/1: organisations of 3 bytes in the short form and of 4 in the long; a reserved form is left out. -/
def parseOrg : Nat → List Byte → List OrgEntry
  | 0, _ => []
  | n + 1, l =>
    if bitsAt 16 1 l = 1 then
      if l.length < 4 then []
      else
        let level := bitsAt 20 2 l + 1
        let b := bitsAt 17 3 l == 1
        let size := bitsAt 22 10 l
        let rate := eepBitrate b level size
        if 1 < bitsAt 17 3 l ∨ rate = 0 then parseOrg n (l.drop 4)
        else ⟨bitsAt 0 6 l, bitsAt 6 10 l, size, BitVec.ofNat 8 (128 + 32 * bitsAt 17 3 l + level - 1), rate⟩ :: parseOrg n (l.drop 4)
    else if l.length < 3 then []
    else match uepTable[bitsAt 18 6 l]? with
      | some r =>
        if bitsAt 17 1 l = 1 then parseOrg n (l.drop 3)
        else ⟨bitsAt 0 6 l, bitsAt 6 10 l, r.size, BitVec.ofNat 8 (bitsAt 18 6 l), r.bitrate⟩ :: parseOrg n (l.drop 3)
      | none => parseOrg n (l.drop 3)

/-- One component of FIG 0/2: 2 bytes of TMId, its type and SubChId, or SCId, the primary flag and the CA flag. The primary
component of a service has SCIdS 0. -/
def parseComp (sid : Word) (l : List Byte) : CompEntry :=
  let tm := bitsAt 0 2 l
  let primary := bitsAt 14 1 l == 1
  { sid := sid, scids := if primary then some 0 else none, tmid := tm, primary := primary, ca := bitsAt 15 1 l == 1, packet := 0
    subch := if tm < 2 then some (bitsAt 8 6 l) else none, scid := if tm < 2 then none else some (bitsAt 2 12 l)
    cty := if tm < 2 then bitsAt 2 6 l else 0 }

/-- The SId at the start of bytes: 16 bits for a programme service and 32 for a data service. -/
def sidAt (pd : Bool) (l : List Byte) : Word := BitVec.ofNat 32 (highNat (l.take (if pd then 4 else 2)))

/-- FIG 0/2: services with their components. -/
def parseServices (pd : Bool) : Nat → List Byte → List (Word × List CompEntry)
  | 0, _ => []
  | n + 1, l =>
    let k := if pd then 4 else 2
    let count := bitsAt 4 4 (l.drop k)
    if l.length < k + 1 + 2 * count then []
    else
      (sidAt pd l, (runsOf 2 count (l.drop (k + 1))).map (parseComp (sidAt pd l)))
        :: parseServices pd n (l.drop (k + 1 + 2 * count))

/-- FIG 0/3: components in packet mode. -/
def parsePackets : Nat → List Byte → List PacketEntry
  | 0, _ => []
  | n + 1, l =>
    if l.length < 5 then []
    else ⟨bitsAt 0 12 l, bitsAt 18 6 l, bitsAt 24 6 l, bitsAt 30 10 l⟩ :: parsePackets n (l.drop (if bitsAt 15 1 l = 1 then 7 else 5))

/-- The identifiers of one linkage set of FIG 0/6, of 2 bytes, of 3 with an ECC, or of 4. -/
def parseLinkIds (pd intl : Bool) (kind : Nat) (l : List Byte) : SetEntry :=
  if pd then ⟨highNat l, kind, 0, 0⟩
  else if intl then ⟨highNat (l.drop 1), kind, highNat (l.take 1), 0⟩
  else ⟨highNat l, kind, 0, 0⟩

/-- FIG 0/6: linkage sets (R299 `id_kind`). -/
def parseLinks (pd : Bool) : Nat → List Byte → List LinkageRec
  | 0, _ => []
  | n + 1, l =>
    if l.length < 2 then []
    else
      let intl := bitsAt 3 1 l == 1
      let each := if pd then 4 else if intl then 3 else 2
      let count := if bitsAt 0 1 l = 1 then bitsAt 20 4 l else 0
      let head := if bitsAt 0 1 l = 1 then 3 else 2
      if l.length < head + each * count then []
      else
        ⟨bitsAt 4 12 l, bitsAt 1 1 l == 1, bitsAt 2 1 l == 1, intl, false,
          (runsOf each count (l.drop head)).map (parseLinkIds pd intl (min 2 (bitsAt 17 2 l))), []⟩
          :: parseLinks pd n (l.drop (head + each * count))

/-- FIG 0/8: SCIdS to a subchannel, or to an SCId in the long form; the FIDC is no subchannel. -/
def parseGlobals (pd : Bool) : Nat → List Byte → List GlobalEntry
  | 0, _ => []
  | n + 1, l =>
    let k := if pd then 4 else 2
    let d := l.drop k
    let long := bitsAt 8 1 d == 1
    let size := k + (if long then 3 else 2) + bitsAt 0 1 d
    if l.length < size then []
    else
      ⟨sidAt pd l, bitsAt 4 4 d, if !long && bitsAt 9 1 d == 0 then some (bitsAt 10 6 d) else none,
        if long then some (bitsAt 12 12 d) else none⟩ :: parseGlobals pd n (l.drop size)

/-- FIG 0/10: date and time, which gives no local offset. -/
def parseClock (l : List Byte) : Clock := ⟨bitsAt 1 17 l, bitsAt 21 5 l, bitsAt 26 6 l, 0⟩

/-- FIG 0/17: programme types, with a language or a closed-caption byte where its flags say so. -/
def parseTypes : Nat → List Byte → List (Word × Nat)
  | 0, _ => []
  | n + 1, l =>
    let lang := bitsAt 18 1 l
    let size := 4 + lang + bitsAt 19 1 l
    if l.length < size then []
    else (BitVec.ofNat 32 (bitsAt 0 16 l), bitsAt (27 + 8 * lang) 5 l) :: parseTypes n (l.drop size)

/-- The frequencies of one list of FIG 0/21: ensembles in steps of 16 kHz, FM in steps of 100 kHz from 87.5 MHz. -/
def parseFreqs (id rm : Nat) (l : List Byte) : List SetEntry :=
  if rm = 0 then (runsOf 3 (l.length / 3) l).map fun f => ⟨16000 * bitsAt 5 19 f, 2, 0, id⟩
  else if rm = 8 then l.map fun b => ⟨87500000 + 100000 * b.toNat, 0, 0, 0⟩
  else []

/-- The lists of one entry of FIG 0/21. -/
def parseInfos : Nat → List Byte → List FreqInfo
  | 0, _ => []
  | n + 1, l =>
    let size := 3 + bitsAt 21 3 l
    if l.length < size then []
    else
      let rm := bitsAt 16 4 l
      let rest := parseInfos n (l.drop size)
      if rm = 0 ∨ rm = 8 then ⟨bitsAt 0 16 l, rm == 0, parseFreqs (bitsAt 0 16 l) rm ((l.take size).drop 3)⟩ :: rest else rest

/-- FIG 0/21: frequency information. -/
def parseFreqInfo : Nat → List Byte → List FreqInfo
  | 0, _ => []
  | n + 1, l =>
    let size := 2 + bitsAt 11 5 l
    if l.length < size ∨ l.length < 2 then []
    else parseInfos 30 ((l.take size).drop 2) ++ parseFreqInfo n (l.drop size)

/-- FIG 0/24: services and the other ensembles that carry them. -/
def parseOthers (pd : Bool) : Nat → List Byte → List (Word × List Half)
  | 0, _ => []
  | n + 1, l =>
    let k := if pd then 4 else 2
    let count := bitsAt 4 4 (l.drop k)
    let size := k + 1 + 2 * count
    if l.length < size then []
    else
      (sidAt pd l, (runsOf 2 count (l.drop (k + 1))).map fun e => BitVec.ofNat 16 (highNat e)) :: parseOthers pd n (l.drop size)

/-- FIG 0/14: the FEC scheme of subchannels in packet mode. -/
def parseFec (l : List Byte) : List (Nat × Bool) := l.map fun b => (b.toNat / 4, b.toNat % 4 == 1)

/-- The FIGs of type 0 that R255 lists; `pd` and `next` are the P/D and C/N flags, and `l` what follows the header byte. -/
def parseType0 (next pd : Bool) (ext : Nat) (l data : List Byte) : Fig :=
  match ext with
  | 0 => .f00 (BitVec.ofNat 16 (bitsAt 0 16 l)) (bitsAt 19 13 l % 5000) (bitsAt 16 2 l != 0) (bitsAt 32 8 (l ++ [0])) (bitsAt 18 1 l == 1)
  | 1 => .f01 next (parseOrg 30 l)
  | 2 => .f02 next (parseServices pd 30 l)
  | 3 => .f03 next (parsePackets 30 l)
  | 6 => .f06 (parseLinks pd 30 l)
  | 8 => .f08 next (parseGlobals pd 30 l)
  | 10 => .f010 (parseClock l)
  | 14 => .f014 next (parseFec l)
  | 17 => .f017 (parseTypes 30 l)
  | 21 => .f021 (parseFreqInfo 30 l)
  | 24 => .f024 (parseOthers pd 30 l)
  | _ => .raw 0 ext data

/-- The labels of R255, of 16 bytes and a short-label mask, after the bytes of the identifier. -/
def parseType1 (charset ext : Nat) (l data : List Byte) : Fig :=
  let label := fun (k : Nat) => (l.drop k).take 16
  let mask := fun (k : Nat) => BitVec.ofNat 16 (bitsAt 0 16 (l.drop (k + 16)))
  match ext with
  | 0 => .f10 (BitVec.ofNat 16 (bitsAt 0 16 l)) charset (mask 2) (label 2)
  | 1 => .f11 (sidAt false l) charset (mask 2) (label 2)
  | 4 =>
    let pd := bitsAt 0 1 l == 1
    let k := if pd then 5 else 3
    .f14 (sidAt pd (l.drop 1)) (bitsAt 4 4 l) charset (mask k) (label k)
  | _ => .raw 1 ext data

/-- One FIG of a type and its data field (R255, R256). One that tells of another ensemble's organisation, by its OE flag, is
none that R255 lists. -/
def parseFig (type : Nat) (data : List Byte) : Fig :=
  let h := (data.headD 0).toNat
  match type with
  | 0 =>
    if h / 64 % 2 = 1 ∧ [0, 1, 2, 3, 8, 10, 14].contains (h % 32) then .raw 0 (h % 32) data
    else parseType0 (128 ≤ h) (h / 32 % 2 == 1) (h % 32) (data.drop 1) data
  | 1 => parseType1 (h / 16) (h % 8) (data.drop 1) data
  | 2 => .raw 2 (h % 8) data
  | 5 => .raw 5 (h % 8) data
  | t => .raw t 0xFF data

/-- The FIGs of the data of a FIB, up to one of type 7 or one that does not fit (R256). -/
def parseFigs : Nat → List Byte → List Fig
  | 0, _ => []
  | _, [] => []
  | n + 1, b :: l =>
    let type := b.toNat / 32
    let len := b.toNat % 32
    if type = 7 ∨ l.length < len then []
    else if len = 0 then parseFigs n l
    else parseFig type (l.take len) :: parseFigs n (l.drop len)

/-- What a FIB carries: nothing when its CRC fails (R254). -/
def figsOf (fib : List Byte) : List Fig := if fibStands fib then parseFigs 30 (fib.take 30) else []

/-- The CIF count of a frame, from the first FIG 0/0 of its FIBs. -/
def countOf (figs : List Fig) : Option Nat := figs.findSome? fun f => match f with | .f00 _ c _ _ _ => some c | _ => none

/-! ### DAB+ superframes (R261, ETSI TS 102 563) -/

/-- The remainder of bits by x¹⁶ + x¹⁴ + x¹³ + x¹² + x¹¹ + x⁵ + x³ + x² + x + 1. -/
def fireCode (l : List Byte) : Half :=
  (bitsOfBytes l).foldl (fun c b => let top := c.getLsbD 15 != b; if top then (c <<< 1) ^^^ 0x782F else c <<< 1) 0

/-- The fire code of a superframe, over the nine bytes that follow it, passes. -/
def firePasses (l : List Byte) : Bool :=
  11 ≤ l.length && l.any (· != 0) && (fireCode ((l.drop 2).take 9)).toNat == highNat (l.take 2)

/-- The AUs of a superframe by its sampling rate and SBR flags: 2, 3, 4 or 6. -/
def auCount (l : List Byte) : Nat :=
  let h := getU 1 2 l
  match h / 64 % 2, h / 32 % 2 with
  | 0, 1 => 2 | 1, 1 => 3 | 0, _ => 4 | _, _ => 6

/-- The rate at the decoder output that a superframe announces (R341). -/
def superframeRate (l : List Byte) : Nat := if getU 1 2 l / 64 % 2 = 1 then 48000 else 32000

/-- The starts of the AUs, and the end of the last. -/
def auStarts (l : List Byte) : List Nat :=
  let n := auCount l
  let first := match n with | 2 => 5 | 3 => 6 | 4 => 8 | _ => 11
  first :: ((List.range (n - 1)).map fun k => bitsAt (24 + 12 * k) 12 l) ++ [l.length]

/-- The bytes of AU i, its CRC included. -/
def auBytes (l : List Byte) (i : Nat) : List Byte :=
  let a := (auStarts l).getD i 0
  (l.take ((auStarts l).getD (i + 1) 0)).drop a

/-- The CRC-16 of an AU stands. -/
def auStands (au : List Byte) : Bool :=
  2 < au.length && (crc16 (au.take (au.length - 2)) ^^^ 0xFFFF).toNat == highNat (au.drop (au.length - 2))

/-- AU i holds a byte of one of the codewords of s that were not corrected. -/
def auTouched (s : Nat) (failed : List Nat) (l : List Byte) (i : Nat) : Bool :=
  let a := (auStarts l).getD i 0
  (List.range (auBytes l i).length).any fun k => failed.contains ((a + k) % s)

/-- `au_bad` of a superframe: its CRC fails, or it holds a byte of an uncorrected codeword (R261). -/
def auBadOf (s : Nat) (failed : List Nat) (l : List Byte) : Byte :=
  BitVec.ofNat 8 ((List.range (auCount l)).map fun i =>
    bitAt (!auStands (auBytes l i) || auTouched s failed l i) i).sum

/-! ### Layer II (R266, R341) -/

/-- A Layer II frame begins with its sync word. -/
def layer2Sync (l : List Byte) : Bool := getU 1 0 l == 0xFF && getU 1 1 l / 16 == 0xF

/-- The rate at the decoder output that a Layer II header announces (R341). -/
def layer2Rate (l : List Byte) : Nat := if getU 1 1 l / 8 % 2 = 1 then 48000 else 24000

end Sys2Proof.Machine
end

