-- ==== Sys2Proof/Machine/Db.lean ====
section
/-! DEFINITION. The service database: records and their 256 bytes, keys, the changes of a stroke, capacity, expiry,
generations, snapshots and their commands (08_side_data_database.md, R295 to R301 and R307 to R311). -/

namespace Sys2Proof.Machine

/-! ### Record layout (R296 to R299) -/

/-- A field of `n` bytes: cut, or filled with one byte. -/
def fillBytes (n : Nat) (b : Byte) (l : List Byte) : List Byte := l.take n ++ List.replicate (n - l.length) b

/-- Kind codes of R295. -/
def kindCode : DbBody → Nat
  | .free => 0 | .ensemble _ => 1 | .service _ => 2 | .component _ => 3 | .afSet _ => 4 | .linkage _ => 5

/-- Date, hour, minute and local offset (R298). -/
def clockBytes (c : Clock) : List Byte := u32 c.mjd ++ u8 c.hour ++ u8 c.minute ++ s8 c.offset

/-- One entry of 8 bytes of an AF set or of a linkage set (R299). -/
def entryOf (e : SetEntry) : List Byte := u32 e.id ++ u8 e.kind ++ u8 e.flag ++ u16 e.extra

/-- Bytes 0x20 onwards of a record (R298, R299). -/
def bodyBytes : DbBody → List Byte
  | .free => []
  | .ensemble r =>
    u16 r.eid.toNat ++ u8 r.ecc.toNat ++ u8 (bitAt r.announced 0 + bitAt r.alarm 1) ++ u32 r.freq ++ u8 r.slot
      ++ u8 r.changeOcc ++ u8 r.charset ++ zeros 1 ++ u16 r.shortMask.toNat ++ zeros 2 ++ fillBytes 16 0x20 r.label
      ++ clockBytes r.clock ++ zeros 1 ++ u64 r.clockTs ++ u8 r.services ++ u8 r.subchs
  | .service r =>
    u32 r.sid.toNat ++ u8 r.ecc.toNat ++ uBool r.dab ++ u8 (r.pty % 32) ++ u8 r.flags.toNat ++ u32 r.freq
      ++ opt16 r.ensemble ++ opt16 r.afSet ++ opt16 r.linkage ++ u16 r.pin.toNat ++ u8 r.charset ++ u8 r.textCharset
      ++ u16 r.shortMask.toNat ++ fillBytes 16 0x20 r.label ++ fillBytes 8 0 r.ptyn ++ clockBytes r.clock ++ zeros 1
      ++ u8 r.text.length ++ u8 r.textFlags.toNat ++ zeros 6 ++ fillBytes 32 0 r.longPs ++ fillBytes 128 0 r.text
  | .component r =>
    u32 r.sid.toNat ++ u8 r.scids ++ opt8 r.subch ++ u8 r.tmid ++ u8 r.cty ++ u8 r.flags.toNat ++ u8 r.protection.toNat
      ++ u16 r.startCu ++ u16 r.sizeCu ++ u16 r.bitrate ++ u16 r.packet ++ opt16 r.ensemble ++ u8 r.charset ++ zeros 1
      ++ u16 r.shortMask.toNat ++ fillBytes 16 0x20 r.label
  | .afSet r => u8 r.method ++ u8 r.entries.length ++ zeros 6 ++ r.entries.flatMap entryOf
  | .linkage r =>
    u16 (r.lsn % 4096) ++ u8 (bitAt r.active 0 + bitAt r.hard 1 + bitAt r.international 2 + bitAt r.from14A 3)
      ++ u8 r.entries.length ++ zeros 4 ++ r.entries.flatMap entryOf

/-- `parent` of R296. -/
def parentOf : DbBody → Nat
  | .free => 0
  | .component r => r.service.getD 0xFFFF
  | .afSet r => r.owner
  | _ => 0xFFFF

/-- The 256 bytes of a record (R296, R298, R299, R301). -/
def dbBytes (r : DbRec) : List Byte :=
  let live := decide (r.body ≠ .free)
  fillBytes 256 0 (u16 r.index ++ u8 (kindCode r.body)
    ++ u8 (if live then bitAt r.fromCensus 0 + bitAt r.eon 1 + bitAt r.pinned 2 + bitAt r.rbds 3 else 0)
    ++ u16 r.incarnation.toNat ++ u16 (parentOf r.body) ++ u32 r.generation.toNat ++ zeros 4
    ++ (if live then u64 r.firstSeen ++ u64 r.confirmed else zeros 16) ++ bodyBytes r.body)

/-! ### Keys (R295) -/

/-- A generation is later than another (R307). -/
def genLater (g h : Word) : Bool := 1 ≤ (g - h).toNat && (g - h).toNat ≤ 2147483647

/-- A record of an index. -/
def recAt (recs : List DbRec) (i : Nat) : Option DbRec := recs.find? fun r => r.index == i

/-- A service record with a bearer, identifier and ECC. -/
def isService (dab : Bool) (sid : Word) (ecc : Byte) (r : DbRec) : Bool :=
  match r.body with
  | .service v => v.dab == dab && v.sid == sid && v.ecc == ecc
  | _ => false

/-- Whether a record holds a key (R295). -/
def holdsKey (recs : List DbRec) (k : DbKey) (r : DbRec) : Bool :=
  match k, r.body with
  | .ensemble eid freq, .ensemble v => v.eid == eid && v.freq == freq
  | .service dab sid ecc, .service v => v.dab == dab && v.sid == sid && v.ecc == ecc
  | .component sid scids, .component v => v.sid == sid && v.scids == scids
  | .afSet dab sid ecc method, .afSet v =>
    v.method == method && (match recAt recs v.owner with | some o => isService dab sid ecc o | none => false)
  | .linkage lsn hard intl, .linkage v => v.lsn == lsn && v.hard == hard && v.international == intl
  | _, _ => false

/-- The record of a key. -/
def findKey (recs : List DbRec) (k : DbKey) : Option DbRec := recs.find? (holdsKey recs k)

/-- The body of a new record of a key; an AF set needs its owner. -/
def newBody (recs : List DbRec) : DbKey → Option DbBody
  | .ensemble eid freq => some (.ensemble
      { eid := eid, ecc := 0, announced := false, alarm := false, freq := freq, slot := 0xFF, changeOcc := 0
        charset := 0, shortMask := 0, label := [], clock := ⟨0, 0, 0, 0⟩, clockTs := 0, services := 0, subchs := 0 })
  | .service dab sid ecc => some (.service
      { sid := sid, ecc := ecc, dab := dab, pty := 0, flags := 0, freq := 0, ensemble := none, afSet := none
        linkage := none, pin := 0, charset := 0, textCharset := 0, shortMask := 0, label := [], ptyn := []
        clock := ⟨0, 0, 0, 0⟩, textFlags := 0, longPs := [], text := [] })
  | .component sid scids => some (.component
      { sid := sid, scids := scids, service := none, subch := none, tmid := 0, cty := 0, flags := 0, protection := 0
        startCu := 0, sizeCu := 0, bitrate := 0, packet := 0, ensemble := none, charset := 0, shortMask := 0, label := [] })
  | .afSet dab sid ecc method =>
    (recs.find? (isService dab sid ecc)).map fun o => .afSet ⟨o.index, method, []⟩
  | .linkage lsn hard intl => some (.linkage ⟨lsn, false, hard, intl, false, [], []⟩)

/-! ### Changing records -/

/-- One record replaced by a function of it. -/
def modRec (recs : List DbRec) (i : Nat) (f : DbRec → DbRec) : List DbRec :=
  recs.map fun r => if r.index = i then f r else r

/-- An index reference after a mapping of indices. -/
def mapRef (f : Nat → Option Nat) (o : Option Nat) : Option Nat := o.bind f

/-- Every index a body holds, mapped (R295, R301). -/
def mapRefs (f : Nat → Option Nat) : DbBody → DbBody
  | .service r => .service { r with ensemble := mapRef f r.ensemble, afSet := mapRef f r.afSet, linkage := mapRef f r.linkage }
  | .component r => .component { r with service := mapRef f r.service, ensemble := mapRef f r.ensemble }
  | .afSet r => .afSet { r with owner := (f r.owner).getD 0xFFFF }
  | b => b

/-- A record is freed, and every index that refers to it goes where `dest` says (R301; none clears it). -/
def freeRec (i : Nat) (dest : Option Nat) (recs : List DbRec) : List DbRec :=
  (modRec recs i fun r => { r with body := .free, pinned := false, fromCensus := false, eon := false, rbds := false, applied := [] }).map
    fun r => { r with body := mapRefs (fun k => if k = i then dest else some k) r.body }

/-- The lowest index that no record holds. -/
def lowestFree (recs : List DbRec) : Option Nat :=
  (List.range 4096).find? fun i => !(recs.any fun r => r.index == i && r.body != .free)

/-- The unpinned record whose `confirmed` is oldest, the lowest index on a tie, both as they stand with what has applied so far
(R301). -/
def oldestUnpinned (pinned : DbRec → Bool) (confirmed : DbRec → Nat) (recs : List DbRec) : Option Nat :=
  (recs.foldl (fun best r =>
    if r.body == .free || pinned r then best
    else match best with
      | none => some (confirmed r, r.index)
      | some (c, i) => if confirmed r < c ∨ (confirmed r = c ∧ r.index < i) then some (confirmed r, r.index) else some (c, i))
    none).map (·.2)

/-- A record put at its index: a used index steps its incarnation (R296). -/
def placeRec (i now : Nat) (c : DbChange) (b : DbBody) (recs : List DbRec) : List DbRec :=
  let inc := match recAt recs i with | some r => r.incarnation + 1 | none => 0
  upsert (fun r => r.index == i)
    { DbRec.reset with index := i, body := b, fromCensus := c.census, eon := c.eon, rbds := c.rbds, incarnation := inc
                       firstSeen := now, confirmed := now, used := true } recs

/-- The fields of a service, by number, for the merge of R295; from 256 on, flags by their place in `svc_flags`. -/
def fieldId : DbField → Nat
  | .otherEnsemble _ => 10
  | .label .. => 1 | .pty _ => 2 | .flagBits m _ => 256 + m.toNat | .freq _ => 4 | .pin _ => 5 | .ptyn _ => 6 | .clock .. => 7
  | .text .. => 8 | .longPs _ => 9 | .ofEnsemble .. => 10 | _ => 0

/-- One field set in the body of an ensemble (R298). -/
def setEnsemble (ts : Nat) (f : DbField) (r : EnsembleRec) : EnsembleRec :=
  match f with
  | .ecc v => { r with ecc := v }
  | .label cs m t => { r with charset := cs, shortMask := m, label := t }
  | .flagBits m v => { r with alarm := if m.getLsbD 1 then v.getLsbD 1 else r.alarm }
  | .clock c _ => if c = r.clock then r else { r with clock := c, clockTs := ts }
  | .announce on occ => { r with announced := on, changeOcc := if on then occ else 0 }
  | .slotOf k => { r with slot := k }
  | .counts a b => { r with services := a, subchs := b }
  | _ => r

/-- One field set in the body of a service (R298); a dynamic label that does not differ from the one held changes only the
mark of its DL Plus (R287, R288). FIG 0/24 names the ensemble of a service that no received one carries, and its frequency
follows. -/
def setService (ens : Option Nat) (hz : Nat) (f : DbField) (r : ServiceRec) : ServiceRec :=
  match f with
  | .label cs m t => { r with charset := cs, shortMask := m, label := t ++ r.label.drop t.length }
  | .pty v => { r with pty := v }
  | .flagBits m v => { r with flags := (r.flags &&& ~~~m) ||| (v &&& m) }
  | .freq hz => { r with freq := hz }
  | .pin v => { r with pin := v }
  | .ptyn t => { r with ptyn := t }
  | .clock c _ => { r with clock := c }
  | .text cs fl t =>
    if fl.getLsbD 1 && r.textFlags.getLsbD 1 && r.text == t.take 128 && r.textCharset == cs then
      { r with textFlags := r.textFlags ||| (fl &&& 4) }
    else { r with textCharset := cs, textFlags := fl, text := t.take 128 }
  | .longPs t => { r with longPs := t }
  | .ofEnsemble .. => { r with ensemble := ens }
  | .otherEnsemble _ => if r.freq = 0 then { r with ensemble := ens, freq := hz } else r
  | _ => r

/-- One field set in the body of a component (R298). -/
def setComponent (ens svc : Option Nat) (f : DbField) (r : ComponentRec) : ComponentRec :=
  let r1 := if r.service.isNone then { r with service := svc } else r
  match f with
  | .label cs m t => { r1 with charset := cs, shortMask := m, label := t }
  | .flagBits m v => { r1 with flags := (r.flags &&& ~~~m) ||| (v &&& m) }
  | .compMap none tmid cty fl =>
    { r1 with subch := none, tmid := tmid, cty := cty, flags := fl &&& 0x03, protection := 0, startCu := 0, sizeCu := 0, bitrate := 0 }
  | .compMap (some sub) tmid cty fl =>
    { r1 with subch := some sub, tmid := tmid, cty := cty, flags := (r.flags &&& 0x0C) ||| (fl &&& 0x03) }
  | .compOrg p st sz br => { r1 with protection := p, startCu := st, sizeCu := sz, bitrate := br }
  | .packet a => { r1 with packet := a }
  | .ofEnsemble .. => { r1 with ensemble := ens }
  | _ => r1

/-- One field set in the body of a linkage set (R299). -/
def setLinkage (f : DbField) (r : LinkageRec) : LinkageRec :=
  match f with
  | .linkState a b => { r with active := a, from14A := b }
  | .entries l => { r with entries := l.take 26, beyond := l.drop 26 }
  | .addEntry e =>
    if r.entries.contains e || r.beyond.contains e then r
    else if r.entries.length < 26 then { r with entries := r.entries ++ [e] }
    else { r with beyond := r.beyond ++ [e] }
  | _ => r

/-- The ensemble of an EId that FIG 0/24 names, with its frequency: one that has been received before one known only by reference
(R295, R298). -/
def namedEnsemble (recs : List DbRec) (eid : Half) : Option (Nat × Nat) :=
  let l := recs.filterMap fun r => match r.body with | .ensemble v => if v.eid = eid then some (r.index, v.freq) else none | _ => none
  match l.find? fun e => e.2 != 0 with
  | some e => some e
  | none => l.head?

/-- A field set in a record's body. -/
def setBody (recs : List DbRec) (ts : Nat) (f : DbField) (b : DbBody) : DbBody :=
  let ens := match f with
    | .ofEnsemble eid freq => (findKey recs (.ensemble eid freq)).map (·.index)
    | .otherEnsemble eid => (namedEnsemble recs eid).map (·.1)
    | _ => none
  let hz := match f with | .otherEnsemble eid => ((namedEnsemble recs eid).map (·.2)).getD 0 | _ => 0
  match b with
  | .free => .free
  | .ensemble r => .ensemble (setEnsemble ts f r)
  | .service r => .service (setService ens hz f r)
  | .component r =>
    let svc := (recs.find? fun o => match o.body with | .service v => v.dab && v.sid == r.sid | _ => false).map (·.index)
    .component (setComponent ens svc f r)
  | .afSet r => .afSet (match f with | .entries l => { r with entries := l.take 26 } | _ => r)
  | .linkage r => .linkage (setLinkage f r)

/-- Whether a change that applies drops an entry beyond 26 (R299). -/
def dropsEntry (f : DbField) (b : DbBody) : Bool :=
  match f, b with
  | .entries l, .afSet r => 26 < l.length && r.entries != l.take 26
  | .entries l, .linkage r => 26 < l.length && r.entries ++ r.beyond != l
  | .addEntry e, .linkage r => 26 ≤ r.entries.length && !r.entries.contains e && !r.beyond.contains e
  | _, _ => false

/-- The fields of the merged service that the survivor never had applied (R295). -/
def mergeService (applied : List Nat) (s o : ServiceRec) : ServiceRec :=
  let keep := fun n => applied.contains n
  let own := ((applied.filter (256 ≤ ·)).map (BitVec.ofNat 8 ·)).foldl (· ||| ·) (0 : Byte)
  { s with
    charset := if keep 1 then s.charset else o.charset
    shortMask := if keep 1 then s.shortMask else o.shortMask
    label := if keep 1 then s.label else o.label
    pty := if keep 2 then s.pty else o.pty
    flags := (s.flags &&& own) ||| (o.flags &&& ~~~own)
    freq := if keep 4 then s.freq else o.freq
    pin := if keep 5 then s.pin else o.pin
    ptyn := if keep 6 then s.ptyn else o.ptyn
    clock := if keep 7 then s.clock else o.clock
    textCharset := if keep 8 then s.textCharset else o.textCharset
    textFlags := if keep 8 then s.textFlags else o.textFlags
    text := if keep 8 then s.text else o.text
    longPs := if keep 9 then s.longPs else o.longPs
    ensemble := if keep 10 then s.ensemble else o.ensemble
    afSet := if s.afSet.isSome then s.afSet else o.afSet
    linkage := if s.linkage.isSome then s.linkage else o.linkage }

/-- The AF sets that a merged service owns of a method which the survivor's own sets have too are freed, and what names one
names the survivor's, so that one record holds each key (R295). -/
def mergeAfSets (survivor merged : Nat) (recs : List DbRec) : List DbRec :=
  let setOf := fun (owner : Nat) (r : DbRec) => match r.body with
    | .afSet a => if a.owner = owner then some (a.method, r.index) else none
    | _ => none
  (recs.filterMap (setOf merged)).foldl (fun rs m =>
    match (recs.filterMap (setOf survivor)).find? fun e => e.1 == m.1 with
    | some e => freeRec m.2 (some e.2) rs
    | none => rs) recs

/-- The ECC of a service becomes known: its record takes it, and a record with the same key merges into it (R295). -/
def takeEcc (i : Nat) (v : Byte) (recs : List DbRec) : List DbRec :=
  match recAt recs i with
  | none => recs
  | some r =>
    match r.body with
    | .service sv =>
      if sv.ecc ≠ 0 then recs
      else
        let other := recs.find? fun o => o.index != i && isService sv.dab sv.sid v o
        match other with
        | none => modRec recs i fun r => { r with body := .service { sv with ecc := v } }
        | some o =>
          let merged := match o.body with | .service ov => mergeService r.applied { sv with ecc := v } ov | _ => sv
          let recs1 := modRec recs i fun r =>
            { r with body := .service merged, applied := r.applied ++ o.applied, pinned := r.pinned || o.pinned
                     eon := r.eon && o.eon, fromCensus := r.fromCensus && o.fromCensus
                     firstSeen := min r.firstSeen o.firstSeen, confirmed := max r.confirmed o.confirmed }
          freeRec o.index (some i) (mergeAfSets i o.index recs1)
    | .ensemble e => modRec recs i fun r => { r with body := .ensemble { e with ecc := v } }
    | _ => recs

/-- A service's AF set is the one last applied to it (R298). -/
def linkAf (i : Nat) (recs : List DbRec) : List DbRec :=
  match recAt recs i with
  | some r =>
    match r.body with
    | .afSet a => modRec recs a.owner fun o =>
        { o with body := match o.body with | .service v => .service { v with afSet := some i } | b => b }
    | _ => recs
  | none => recs

/-! ### Pins, linkage references and expiry (R297, R298, R301) -/

/-- The first linkage set that names a service (R298). -/
def linkageOf (recs : List DbRec) (v : ServiceRec) : Option Nat :=
  (sortBy (fun a b : Nat => a ≤ b) (recs.filterMap fun r =>
    match r.body with
    | .linkage l =>
      if l.entries.any fun e => e.id == v.sid.toNat && e.kind == (if v.dab then 0 else 1) && (e.flag == 0 || e.flag == v.ecc.toNat)
      then some r.index else none
    | _ => none)).head?

/-- Every service's `linkage` brought up to date. -/
def relink (recs : List DbRec) : List DbRec :=
  recs.map fun r => match r.body with
    | .service v => { r with body := .service { v with linkage := linkageOf recs v } }
    | _ => r

/-- A host slot of a type is assigned to a frequency. -/
def slotTunedTo (s : State) (dab : Bool) (freq : Nat) : Bool :=
  s.slots.toList.any fun x =>
    x.state != .free && !x.visit && (if dab then x.tune.type == .dab else isFm x.tune.type) && x.tune.freq == freq

/-- The store records a rec, or an output decodes it through its cursor (R297). -/
def recInUse (s : State) (r : Rec) : Bool :=
  r.recording || (indexed s.outs).any fun o => o.2.cfg.run && o.2.cfg.cursor && s.store.cursors[o.1].recNo == r.recNo

/-- A service is one that the store records, or that an output plays from it (R297). -/
def serviceInUse (s : State) (dab : Bool) (sid : Word) (ecc : Byte) : Bool :=
  let same := fun (bearer : Byte) (i : Word) (e : Byte) => bearer == (if dab then 2 else 0) && i == sid && e == ecc
  s.store.recs.any fun r => same r.bearer r.sid r.ecc && recInUse s r

/-- A record is pinned (R297; the reading of "tuned to it" is log entry 24). -/
def pinnedNow (s : State) (recs : List DbRec) (r : DbRec) : Bool :=
  let ensTuned := fun (o : Option Nat) => match o with
    | some i => (match recAt recs i with
      | some e => (match e.body with | .ensemble v => slotTunedTo s true v.freq | _ => false)
      | none => false)
    | none => false
  match r.body with
  | .ensemble v => slotTunedTo s true v.freq
  | .service v => (if v.dab then ensTuned v.ensemble else slotTunedTo s false v.freq) || serviceInUse s v.dab v.sid v.ecc
  | .component v => ensTuned v.ensemble || s.store.recs.any fun q =>
      q.bearer == 2 && q.sid == v.sid && q.scids.toNat == v.scids && recInUse s q
  | _ => false

/-- A record is older than `expiry_s` and not pinned (R301). -/
def expiryDue (expiryS now confirmed : Nat) (r : DbRec) : Bool :=
  r.body != .free && !r.pinned && expiryS != 0 && confirmed + expiryS * 24576000 < now

/-! ### The changes of a boundary (R51, R297, R300, R311) -/

/-- The byte image of a record but for its generation. -/
def imageOf (r : DbRec) : List Byte := dbBytes { r with generation := 0 }

/-- The record of an index before the boundary; an index never used is a free record of zeros (R301). -/
def priorOf (recs : List DbRec) (i : Nat) : DbRec := (recAt recs i).getD { DbRec.reset with index := i }

/-- When a record was confirmed last, once a boundary's changes have applied: on that boundary when it has changed, or when side
data named it and 60 s have passed (R297). -/
def confirmedNow (before : List DbRec) (named : List Nat) (now : Nat) (r : DbRec) : Nat :=
  if imageOf r != imageOf (priorOf before r.index) || (named.contains r.index && r.confirmed + 1474560000 ≤ now) then now else r.confirmed

/-- The database while the changes of one boundary apply: its records, the indices whose keys were named, those of them that other than a census visit named, whether an
entry beyond 26 was dropped, and the drops for want of an index. -/
structure DbWork where
  recs : List DbRec
  named : List Nat
  byHost : List Nat
  dropped : Bool
  overflow : Nat
deriving DecidableEq, Repr

/-- The record that a change names, created where its key is new (R295, R301). Each field of a record that finds no place steps the
overflow (DESIGN CHOICE, log entry 119). -/
def nameKey (s : State) (now : Nat) (c : DbChange) (w : DbWork) : Option Nat × DbWork :=
  match findKey w.recs c.key with
  | some r => (some r.index, { w with named := r.index :: w.named })
  | none =>
    match newBody w.recs c.key with
    | none => (none, w)
    | some b =>
      match lowestFree w.recs with
      | some i => (some i, { w with recs := placeRec i now c b w.recs, named := i :: w.named })
      | none =>
        match oldestUnpinned (pinnedNow s w.recs) (confirmedNow s.db.recs w.named now) w.recs with
        | some i => (some i, { w with recs := placeRec i now c b (freeRec i none w.recs), named := i :: w.named })
        | none => (none, { w with overflow := w.overflow + 1 })

/-- One change applies (R280, R255, R289, R295, R299). -/
def applyChange (s : State) (now : Nat) (w : DbWork) (c : DbChange) : DbWork :=
  match c.field with
  | .remove =>
    match findKey w.recs c.key with
    | some r => { w with recs := freeRec r.index none w.recs }
    | none => w
  | f =>
    match nameKey s now c w with
    | (none, w1) => w1
    | (some i, w1) =>
      let body := match recAt w1.recs i with | some r => r.body | none => .free
      let recs1 := match f with
        | .ecc v => takeEcc i v w1.recs
        | _ => modRec w1.recs i fun r =>
          { r with body := setBody w1.recs c.ts f r.body, applied := if r.applied.contains (fieldId f) then r.applied else fieldId f :: r.applied }
      let recs2 := match f with | .entries _ => linkAf i recs1 | _ => recs1
      let hosts := if c.census then w1.byHost else i :: w1.byHost
      { w1 with
        byHost := hosts
        recs := modRec recs2 i fun r => { r with fromCensus := !hosts.contains i, eon := r.eon && c.eon }
        dropped := w1.dropped || dropsEntry f body }

/-- A snapshot holds a copy of a record. -/
def hasCopy (reserve : List CowCopy) (k : Fin 2) (i : Nat) : Bool :=
  reserve.any fun c => c.content.index == i && (if k = 0 then c.for1 else c.for2)

/-- The copies of a snapshot freed (R309, R311). -/
def dropCopies (k : Fin 2) (reserve : List CowCopy) : List CowCopy :=
  (reserve.map fun c => if k = 0 then { c with for1 := false } else { c with for2 := false }).filter fun c => c.for1 || c.for2

/-- An open snapshot that is not stale. -/
def freshSnap (o : Option Snapshot) : Bool := match o with | some p => !p.stale | none => false

/-- The older of the open snapshots that are not stale, by generation (R307, R311). -/
def olderSnap (d : Db) : Option (Fin 2) :=
  match d.snaps[0], d.snaps[1] with
  | some a, some b =>
    if a.stale then (if b.stale then none else some 1)
    else if b.stale || !genLater a.generation b.generation then some 0 else some 1
  | some a, none => if a.stale then none else some 0
  | none, some b => if b.stale then none else some 1
  | none, none => none

/-- A snapshot goes stale and its copies are freed (R311). -/
def staleSnap (k : Fin 2) (d : Db) : Db :=
  { d with snaps := d.snaps.set k (d.snaps[k].map fun p => { p with stale := true }), reserve := dropCopies k d.reserve }

/-- The prior contents of a record copied for every open snapshot that lacks them (R311). -/
def copyPrior (prior : DbRec) (d : Db) : Db :=
  let lacks := fun (d : Db) (k : Fin 2) => freshSnap d.snaps[k] && !hasCopy d.reserve k prior.index
  let make := fun (d : Db) =>
    if lacks d 0 || lacks d 1 then { d with reserve := d.reserve ++ [⟨prior, lacks d 0, lacks d 1⟩] } else d
  if lacks d 0 || lacks d 1 then
    if d.reserve.length < 4096 then make d
    else match olderSnap d with
      | some k => let d1 := staleSnap k d
                  if d1.reserve.length < 4096 then make d1
                  else (match olderSnap d1 with | some k => staleSnap k d1 | none => d1)
      | none => d
  else d

/-- Ends the work on a boundary: confirmations, copies for the snapshots, and one step of the generation for the stroke,
however often records change on it (R51, R297, R311). -/
def finishDb (now : Nat) (w : DbWork) (d : Db) : Db :=
  let recs1 := w.recs.map fun r => if r.body == .free then r else { r with confirmed := confirmedNow d.recs w.named now r }
  let changedIdx := (recs1.filter fun r => imageOf r != imageOf (priorOf d.recs r.index)).map (·.index)
  let d1 := { d with overflow := bump d.overflow (w.overflow + if w.dropped then 1 else 0) }
  if changedIdx.isEmpty then { d1 with recs := recs1 }
  else
    let stepped := d.steppedAt == some (strokeOf now)
    let g := if stepped then d.generation else d.generation + 1
    let d2 := changedIdx.foldl (fun d i => copyPrior (priorOf d1.recs i) d) d1
    { d2 with
      recs := recs1.map fun r => if changedIdx.contains r.index then { r with generation := g } else r
      generation := g, stepsSince := if stepped then d.stepsSince else d.stepsSince + 1
      steppedAt := some (strokeOf now) }

/-- The changes that fall due on the boundary, in timestamp order (R300). -/
def dueChanges (stroke : Nat) (d : Db) : List DbChange :=
  sortBy (fun a b => a.ts ≤ b.ts) (d.pending.filter fun c => c.due ≤ stroke)

/-- The database at a stroke boundary: due changes, references, pins, expiry, and one step of the generation. -/
def dbBoundary (s : State) : State :=
  let stroke := s.latch.stroke
  let now := stroke * 24576
  let due := dueChanges stroke s.db
  let w := due.foldl (applyChange s now) { recs := s.db.recs, named := [], byHost := [], dropped := false, overflow := 0 }
  let recs1 := relink w.recs
  let recs2 := recs1.map fun r => { r with pinned := r.body != .free && pinnedNow s recs1 r }
  let old := (recs2.filter fun r => expiryDue s.side.cfg.expiryS now (confirmedNow s.db.recs w.named now r) r).map (·.index)
  let recs3 := old.foldl (fun rs i => freeRec i none rs) recs2
  let d := { s.db with
    pending := s.db.pending.filter fun c => !(c.due ≤ stroke), expired := bump s.db.expired old.length }
  { s with db := finishDb now { w with recs := recs3 } d }

/-- Records whose `generation` took a value in the steps since the last event (R566). -/
def recordsChanged (d : Db) : Nat :=
  (d.recs.filter fun r => genLater r.generation (d.generation - BitVec.ofNat 32 d.stepsSince)).length

/-- `EV_DB_GENERATION` is due at the boundary (R308). -/
def generationDue (s : State) : Bool :=
  0 < s.db.stepsSince &&
    (match s.db.lastEvent with | some t => t + s.side.cfg.dbEventMs ≤ s.latch.stroke | none => true)

/-- DB_GENERATION_EVENT as a rule of the boundary (R308, R566). -/
def generationRule (s : State) : State :=
  if generationDue s then
    let s1 := queueEventAt s (s.latch.stroke * 24576) evDbGeneration 0xFFFF
      (u32 s.db.generation.toNat ++ u32 s.db.stepsSince ++ u32 (recordsChanged s.db))
    { s1 with db := { s1.db with lastEvent := some s.latch.stroke, stepsSince := 0 } }
  else s

/-- A database latched again after a rule on the same boundary. -/
def relatchDb (s : State) : State := { s with latch := { s.latch with db := s.db, side := s.side } }

/-- A database row acts on a boundary when something of its own is due (R300). -/
def dbRow (due : State → Bool) (s : State) : State :=
  if atBoundary s && due s then relatchDb (generationRule (dbBoundary s)) else s

/-- A change of a source is due at the boundary. -/
def sourceDue (source : Nat) (s : State) : Bool :=
  s.db.pending.any fun c => c.source == source && c.due ≤ s.latch.stroke

/-- DB_RDS_APPLY (R300). -/
def execDbRdsApply (s : State) : Out := .next (dbRow (sourceDue 0) s)
/-- DB_FIC_APPLY (R257, R300). -/
def execDbFicApply (s : State) : Out := .next (dbRow (sourceDue 1) s)
/-- DB_RECORD_EXPIRY of a record (R301). -/
def execDbRecordExpiry (i : Nat) (s : State) : Out :=
  .next (dbRow (fun s => s.db.recs.any fun r => r.index == i && expiryDue s.side.cfg.expiryS (s.latch.stroke * 24576) r.confirmed r) s)
/-- DB_GENERATION_EVENT (R308). -/
def execDbGenerationEvent (s : State) : Out := .next (if atBoundary s then generationRule s else s)

/-- A change waits for its boundary. -/
def queueChange (c : DbChange) (s : State) : State := { s with db := { s.db with pending := s.db.pending ++ [c] } }

/-! ### Snapshots (R52, R53, R309) -/

/-- A record as it stands in a snapshot. -/
def snapRec (d : Db) (k : Fin 2) (i : Nat) : DbRec :=
  match d.reserve.find? fun c => c.content.index == i && (if k = 0 then c.for1 else c.for2) with
  | some c => c.content
  | none => priorOf d.recs i

/-- Whether a snapshot serves a read: `ST_BAD_STATE` when it is not open, `ST_STALE_SNAPSHOT` when it is stale. -/
def snapStatus (d : Db) (k : Fin 2) : Option Status :=
  match d.snaps[k] with
  | none => some .badState
  | some p => if p.stale then some .staleSnapshot else none

/-- The lowest free snapshot number. -/
def freeSnap (d : Db) : Option (Fin 2) :=
  if d.snaps[0].isNone then some 0 else if d.snaps[1].isNone then some 1 else none

/-- The body of `DB_SNAPSHOT_OPEN` (R309, R100). -/
def openSnapshot (s : State) : Served :=
  match freeSnap s.db with
  | none => refuse .noResource s
  | some k =>
    .answer .ok (u8 (k.val + 1) ++ zeros 3 ++ u32 s.db.generation.toNat)
      { s with db := { s.db with snaps := s.db.snaps.set k (some ⟨s.db.generation, false⟩) } }

/-- A `snapshot` byte of 1 or 2 as an index. -/
def snapIndex (n : Nat) : Option (Fin 2) := if n = 1 then some 0 else if n = 2 then some 1 else none

/-- Parses a payload of one `snapshot` byte. -/
def parseSnap (p : List Byte) : Option (Fin 2) := if p.length = 1 then snapIndex (getU 1 0 p) else none

/-- The body of `DB_SNAPSHOT_CLOSE` (R309): a stream that still reads the snapshot is cut short as by staleness. -/
def closeSnapshot (k : Fin 2) (s : State) : Served :=
  if s.db.snaps[k].isNone then refuse .badState s
  else
    let cut := s.db.stream.map fun t => if t.snapshot = k.val then { t with snapshot := 2 } else t
    .answer .ok [] { s with db :=
      { s.db with snaps := s.db.snaps.set k none, reserve := dropCopies k s.db.reserve, stream := cut } }

/-- Parses `DB_READ` (R309). -/
def parseDbRead (p : List Byte) : Option (Fin 2 × Nat) :=
  if p.length = 4 ∧ getU 1 1 p = 0 ∧ getU 2 2 p ≤ 4095 then (snapIndex (getU 1 0 p)).map fun k => (k, getU 2 2 p) else none

/-- The body of `DB_READ` (R309). -/
def readRecord (a : Fin 2 × Nat) (s : State) : Served :=
  match snapStatus s.db a.1 with
  | some st => refuse st s
  | none => .answer .ok (dbBytes (snapRec s.db a.1 a.2)) s

/-- Parses `DB_CHANGES`: snapshot, kind mask, start, since (R309). -/
def parseDbChanges (p : List Byte) : Option (Fin 2 × Nat × Nat × Word) :=
  if p.length = 8 then
    (snapIndex (getU 1 0 p)).map fun k => (k, getU 1 1 p, getU 2 2 p, BitVec.ofNat 32 (getU 4 4 p))
  else none

/-- Whether `DB_CHANGES` lists a record of a snapshot; an index never used has no step that freed it. -/
def changeListed (g : Word) (mask start : Nat) (since : Word) (r : DbRec) : Bool :=
  start ≤ r.index && r.used && mask / 2 ^ kindCode r.body % 2 == 1 && genLater r.generation since && !genLater r.generation g

/-- The body of `DB_CHANGES` (R309). -/
def listChanges (a : Fin 2 × Nat × Nat × Word) (s : State) : Served :=
  let (k, mask, start, since) := a
  match s.db.snaps[k] with
  | none => refuse .badState s
  | some p =>
    if p.stale then refuse .staleSnapshot s
    else
      let idx := sortBy (fun a b : Nat => a ≤ b) ((s.db.recs.map fun r => snapRec s.db k r.index).filterMap fun r =>
        if changeListed p.generation mask start since r then some r.index else none)
      let out := idx.take 240
      let next := if 240 < idx.length then out.getLastD 0 + 1 else 0xFFFF
      .answer .ok (u16 out.length ++ u16 next ++ out.flatMap u16) s

/-- The bulk stream window takes a new stream (R106, R563): in the host-to-device direction half 0 is the host's to
fill first. -/
def mapStream (t : Stream) (hostToDev : Bool) (s : State) : State :=
  { s with bulk := { BulkWin.reset with mapped := some t, hostToDev := hostToDev, hostOwned := if hostToDev then 3 else 0 } }

/-- The next record of a `DB_STREAM`, or its terminator, waits in queue HB (R309, R426); every packet has 256 bytes. -/
def feedDb (s : State) : State :=
  match s.db.stream with
  | some t =>
    if t.ended then s
    else { s with dispatch := modQueue s.dispatch 0x71 fun q =>
      if q.active && q.items.isEmpty then { q with items := [{ Packet.reset with length := 256, tag := 0x71 }] } else q }
  | none => s

/-- The body of `DB_STREAM` (R309, R310, R563). -/
def startDbStream (k : Fin 2) (s : State) : Served :=
  if s.bulk.mapped.isSome then refuse .busy s
  else match snapStatus s.db k with
    | some st => refuse st s
    | none =>
      let s1 := refreshQueues { mapStream .dbStream false s with db := { s.db with stream := some ⟨k.val, 0, 0, false⟩ } }
      .answer .ok [] (feedDb s1)

/-- DB_SNAPSHOT_OPEN. -/
def execDbSnapshotOpen (ch : Fin 4) (s : State) : Out :=
  .next (serve ch 0x0501 .immediate noPayload (fun _ _ s => openSnapshot s) s)
/-- DB_SNAPSHOT_CLOSE. -/
def execDbSnapshotClose (ch : Fin 4) (s : State) : Out :=
  .next (serve ch 0x0502 .immediate parseSnap (fun k _ s => closeSnapshot k s) s)
/-- DB_READ. -/
def execDbRead (ch : Fin 4) (s : State) : Out :=
  .next (serve ch 0x0503 .read parseDbRead (fun a _ s => readRecord a s) s)
/-- DB_CHANGES. -/
def execDbChanges (ch : Fin 4) (s : State) : Out :=
  .next (serve ch 0x0504 .read parseDbChanges (fun a _ s => listChanges a s) s)
/-- DB_STREAM. -/
def execDbStream (ch : Fin 4) (s : State) : Out :=
  .next (serve ch 0x0505 .immediate parseSnap (fun k _ s => startDbStream k s) s)

end Sys2Proof.Machine
end

