-- ==== Sys2Proof/Machine/Side.lean ====
section
/-! DEFINITION. Side-data settings, the side-data stream and its staging area, and PAD: dynamic label, DL Plus and MOT
(08_side_data_database.md, R272, R285 to R294, R592). -/

namespace Sys2Proof.Machine

/-! ### Settings (R272) -/

/-- Parses `SIDE_SET` (R272, 9 bytes). -/
def parseSideSet (p : List Byte) : Option SideCfg :=
  let c : SideCfg := ⟨getU 1 0 p == 1, getU 1 1 p, BitVec.ofNat 8 (getU 1 2 p), getU 2 3 p, getU 4 5 p⟩
  if p.length = 9 ∧ getU 1 0 p ≤ 1 ∧ c.correct ≤ 2 ∧ c.dbEventMs ≤ 10000
      ∧ (c.expiryS = 0 ∨ (60 ≤ c.expiryS ∧ c.expiryS ≤ 2592000)) then some c else none

/-- `SIDE_SET` applies: data stamped before the apply stroke keeps the earlier settings (R272). -/
def applySideSet (c : SideCfg) (s : State) : State :=
  { s with side := { s.side with cfg := c, past := (s.now, s.side.cfg) :: s.side.past } }

/-- The settings in force at a time, from those replaced, newest first. -/
def settingsAt {α : Type} (ts : Nat) : List (Nat × α) → α → α
  | [], c => c
  | (t, before) :: rest, c => if ts < t then settingsAt ts rest before else c

/-- The settings in force for data of a timestamp (R272). -/
def sideAt (s : State) (ts : Nat) : SideCfg := settingsAt ts s.side.past s.side.cfg

/-! ### The side-data stream (R291 to R294) -/

/-- Parses `SIDE_STREAM_SET` (R291, 16 bytes). -/
def parseSideStream (p : List Byte) : Option SideStreamCfg :=
  if p.length = 16 ∧ getU 1 0 p ≤ 2 ∧ getU 1 1 p ≤ 1 ∧ getU 1 2 p ≤ 1 ∧ getU 1 3 p ≤ 1 ∧ getU 1 4 p ≤ 1
      ∧ zeroAt 2 6 p ∧ zeroAt 2 14 p then
    some ⟨getU 1 0 p, getU 1 1 p == 1, getU 1 2 p == 1, getU 1 3 p == 1, getU 1 4 p == 1, BitVec.ofNat 8 (getU 1 5 p),
      BitVec.ofNat 48 (getU 8 8 p)⟩
  else none

/-- `SIDE_STREAM_SET` applies: it maps the stream with an empty staging area (R291). -/
def applySideStream (c : SideStreamCfg) (s : State) : State :=
  refreshQueues { mapStream .sideData false s with side := { s.side with stream := c, staging := [], dropped := 0 } }

/-- The stream is mapped. -/
def sideMapped (s : State) : Bool := s.bulk.mapped == some .sideData
/-- The stream takes records of a slot. -/
def slotSelected (s : State) (i : Fin 48) : Bool := sideMapped s && s.side.stream.slotMask.getLsbD i.val
/-- The stream takes records of an output. -/
def outputSelected (s : State) (o : Fin 8) : Bool := sideMapped s && s.side.stream.outputMask.getLsbD o.val

/-- A group type that R280 decodes. -/
def groupDecoded (type : Nat) (vb : Bool) : Bool :=
  type == 0 || (type == 1 && !vb) || type == 2 || (type == 4 && !vb) || (type == 10 && !vb) || type == 14 || type == 15

/-- `rds_raw` selects a group (R291): every one, or those of ODAs and of types that R280 does not decode. -/
def rawSelected (raw type : Nat) (vb oda : Bool) : Bool := raw == 2 || (raw == 1 && (!groupDecoded type vb || oda))

/-- The bytes of a record: the header of R292, the payload, and padding to 4. -/
def sideBytes (r : SideRec) : List Byte :=
  let n := 4 * ceilDiv r.payload.length 4
  u16 r.kind.toNat ++ u16 r.source.toNat ++ u32 (16 + n) ++ u64 r.timestamp ++ fillBytes n 0 r.payload

/-- Bytes that a record takes. -/
def sideLength (r : SideRec) : Nat := 16 + 4 * ceilDiv r.payload.length 4

/-- Records enter the staging area together, after a gap record where some were dropped, with the source and timestamp of the
record that follows it (DESIGN CHOICE, log entry 118); when they do not fit they are
dropped and count as one (R291, R294). The staging area is what waits in queue HD (R426, R444). -/
def sideAppend (rs : List SideRec) (s : State) : State :=
  match rs with
  | [] => s
  | r :: _ =>
    let gap : List SideRec := if s.side.dropped = 0 then [] else [⟨0x000F, r.source, r.timestamp, u32 s.side.dropped⟩]
    let all := gap ++ rs
    let s1 := accrue s
    if ((s.side.staging ++ all).map sideLength).sum ≤ 262144 then
      { s1 with
        side := { s1.side with staging := s1.side.staging ++ all, dropped := 0 }
        dispatch := modQueue s1.dispatch 0x70 fun q =>
          { q with items := q.items ++ all.map fun x => { Packet.reset with length := sideLength x, tag := 0x70 } } }
    else
      { s1 with
        side := { s1.side with dropped := min 0xFFFFFFFF (s1.side.dropped + 1) }
        dispatch := modQueue s1.dispatch 0x70 fun q => { q with drops := bump q.drops 1 } }

/-- A record of a slot goes to its consumer: in a remote to LD, whole (R498); else to the stream, when that selects it. -/
def sideOut (wanted : Bool) (r : SideRec) (s : State) : State :=
  if isRemote s then
    if linkUp s then enqueueAll s 0x60 (framesOf (frameMax s 0x60) 4 0x0100 (sideLength r) (sideBytes r)) else s
  else if wanted then sideAppend [r] s else s

/-- `source` of an output. -/
def outSource (o : Fin 8) : Half := BitVec.ofNat 16 (0x100 + o.val)

/-! ### PAD (R285 to R290) -/

/-- The leg that an output hears: of its follower when that is on, else its own source (R312). -/
def heardLeg (s : State) (o : Fin 8) : LegRef :=
  let f := s.follow[o]
  if f.state = .off then ⟨some s.outs[o].cfg.srcSlot, s.outs[o].cfg.srcSid, s.outs[o].cfg.srcScids⟩
  else if f.activeB then f.legB else f.legA

/-- The component an output decodes: from the store's rec through a cursor, or from its active leg. -/
def heardComponent (s : State) (o : Fin 8) : Word × Byte :=
  if s.outs[o].cfg.cursor then
    match s.store.recs.find? fun r => r.recNo == s.store.cursors[o].recNo with
    | some r => (r.sid, r.scids)
    | none => (0, 0)
  else ((heardLeg s o).sid, (heardLeg s o).scids)

/-- The PAD state of one output replaced. -/
def modPad (s : State) (o : Fin 8) (f : PadRx → PadRx) : State := { s with side := { s.side with pad := vmod s.side.pad o f } }

/-- A text change of the service whose primary component the output decodes, due on the next boundary (R289); none
from a store cursor (R286). -/
def labelChange (o : Fin 8) (g : PadGroup) (flags : Byte) (charset : Nat) (text : List Byte) (s : State) : State :=
  let (sid, scids) := heardComponent s o
  let primary := match findKey s.db.recs (.component sid scids.toNat) with
    | some r => (match r.body with | .component c => c.flags.getLsbD 0 | _ => false)
    | none => false
  if g.fromStore || !primary then s
  else queueChange
    { source := 2, due := strokeFrom (s.now + 1), ts := g.ts, key := .service true sid 0
      field := .text charset flags text, rbds := false, eon := false, census := false } s

/-- A DL record of the stream (R293). -/
def dlRecord (s : State) (o : Fin 8) (g : PadGroup) (toggle : Bool) (charset : Nat) (text : List Byte) : SideRec :=
  let (sid, scids) := heardComponent s o
  ⟨0x0003, outSource o, g.ts, u32 sid.toNat ++ u8 scids.toNat ++ u8 charset ++ u8 text.length
    ++ u8 (bitAt toggle 0 + bitAt g.fromStore 1) ++ text⟩

/-- A DL Plus record of the stream (R293). -/
def plusRecord (s : State) (o : Fin 8) (g : PadGroup) (c : DlPlus) : SideRec :=
  let (sid, scids) := heardComponent s o
  ⟨0x0004, outSource o, g.ts, u32 sid.toNat ++ u8 scids.toNat
    ++ u8 (bitAt c.link 0 + bitAt g.fromStore 1 + bitAt c.itemToggle 2 + bitAt c.itemRunning 3) ++ u8 c.tags.length ++ zeros 1
    ++ fillBytes 12 0 (c.tags.flatMap fun t => u8 t.content ++ u8 t.start ++ u8 t.length)⟩

/-- `text_flags` of a dynamic label (R298). -/
def dlFlags (toggle plus : Bool) : Byte := BitVec.ofNat 8 (bitAt toggle 0 + 2 + bitAt plus 2)

/-- A DL Plus command is applied to the label in force: its tags go to the stream and the record notes them (R288). -/
def deliverPlus (o : Fin 8) (g : PadGroup) (s : State) (c : DlPlus) : State :=
  let s2 := if s.side.stream.dlPlus && outputSelected s o then sideAppend [plusRecord s o g c] s else s
  match s.side.pad[o].label with
  | some (t, text) => labelChange o g (dlFlags t true) s.side.pad[o].labelCharset.toNat text s2
  | none => s2

/-- A label is in force, with no text when it is removed, and the record and the stream take it (R287). -/
def publishLabel (o : Fin 8) (g : PadGroup) (toggle : Bool) (charset : Nat) (text : List Byte) (s : State) : State :=
  let s1 := modPad s o fun p =>
    { p with label := some (toggle, text), labelCharset := BitVec.ofNat 8 charset, dlText := [], dlSegs := 0 }
  let s2 := labelChange o g (dlFlags toggle false) charset text s1
  if s.side.stream.dl && outputSelected s o then sideAppend [dlRecord s o g toggle charset text] s2 else s2

/-- A label completes (R287), and the DL Plus commands that waited for it are applied in turn. -/
def completeLabel (o : Fin 8) (g : PadGroup) (toggle : Bool) (charset : Nat) (text : List Byte) (s : State) : State :=
  let s1 := publishLabel o g toggle charset text s
  let held := s1.side.pad[o].plusHeld
  (held.filter (·.link == toggle)).foldl (deliverPlus o g)
    (modPad s1 o fun p => { p with plusHeld := held.filter (·.link != toggle) })

/-- A DL Plus command that waits for its label is discarded when the toggle changes to another than its own (R288). -/
def keepPlus (toggle : Bool) (p : PadRx) : PadRx :=
  { p with plusHeld := p.plusHeld.filter (fun c => p.dlSeen == some toggle || c.link == toggle), dlSeen := some toggle }

/-- One DL segment (R287): a first segment or a toggle change abandons an incomplete label, and so does a segment that
does not follow the one before it. -/
def takeSegment (o : Fin 8) (g : PadGroup) (first last toggle : Bool) (number charset : Nat) (text : List Byte) (s : State) : State :=
  let s0 := modPad s o (keepPlus toggle)
  let p := s0.side.pad[o]
  let follows := first || (p.dlSegs != 0 && p.dlToggle == some toggle && number == p.dlSegs)
  let text1 := if first then text else p.dlText ++ text
  let segs := if first then 1 else p.dlSegs + 1
  let cs := if first then charset else p.dlCharset.toNat
  if !follows || 8 < segs || 128 < text1.length then modPad s0 o fun p => { p with dlText := [], dlSegs := 0, dlToggle := none }
  else
    let s1 := modPad s0 o fun p =>
      { p with dlText := text1, dlSegs := segs, dlToggle := some toggle, dlCharset := BitVec.ofNat 8 cs }
    if last then completeLabel o g toggle cs text1 s1 else s1

/-- The object in progress is dropped and counted (R290); what still comes of it is not collected again. -/
def abandonMot (o : Fin 8) (s : State) : State :=
  let s1 := modPad s o fun p => { p with motId := none, motHeader := none, motSegs := [], motLast := none, motDropped := p.motId }
  { s1 with side := { s1.side with motAbandoned := bump s1.side.motAbandoned 1 } }

/-- A segment of an object: a new transport id abandons the object in progress (R290). -/
def openMot (o : Fin 8) (id : Nat) (s : State) : State :=
  if s.side.pad[o].motId = some id then s
  else
    let s1 := if s.side.pad[o].motId.isSome then abandonMot o s else s
    modPad s1 o fun p => { p with motId := some id, motFrom := s.now, motDropped := none }

/-- The body of an object, when every segment up to the last has arrived (R290). -/
def motBodyOf (p : PadRx) : Option (List Byte) :=
  match p.motLast with
  | none => none
  | some last =>
    let segs := (List.range (last + 1)).map fun k => (p.motSegs.find? fun e => e.1 == k).map (·.2)
    if segs.all (·.isSome) then some (segs.flatMap fun e => e.getD []) else none

/-- The parts of a MOT object: its record, and continuations of at most 16,384 bytes each (R293, R294). -/
def motParts (s : State) (o : Fin 8) (g : PadGroup) (id : Nat) (h : MotHeader) (body : List Byte) : List SideRec :=
  let (sid, scids) := heardComponent s o
  let data := fillBytes (4 * ceilDiv h.ext.length 4) 0 h.ext ++ body
  let fixed := u32 sid.toNat ++ u8 scids.toNat ++ u8 (bitAt g.fromStore 1) ++ u16 id ++ u8 h.contentType ++ zeros 1
    ++ u16 h.contentSubtype ++ u32 body.length ++ u16 h.ext.length ++ zeros 2
  let rest := data.drop 16348
  ⟨0x0005, outSource o, g.ts, fixed ++ data.take 16348⟩ ::
    (List.range (ceilDiv rest.length 16360)).map fun k =>
      ⟨0x0006, outSource o, g.ts, u16 id ++ u16 (k + 1) ++ u32 (16348 + 16360 * k) ++ (rest.drop (16360 * k)).take 16360⟩

/-- An object that is complete goes to the stream, with the timestamp of the frame that completed it (R290). -/
def finishMot (o : Fin 8) (g : PadGroup) (s : State) : State :=
  let p := s.side.pad[o]
  match p.motId, p.motHeader, motBodyOf p with
  | some id, some h, some body =>
    let s1 := modPad s o fun p => { p with motId := none, motHeader := none, motSegs := [], motLast := none }
    if s.side.stream.mot && outputSelected s o then sideAppend (motParts s o g id h body) s1 else s1
  | _, _, _ => s

/-- The header of an object (R290). -/
def takeMotHeader (o : Fin 8) (g : PadGroup) (id : Nat) (h : MotHeader) (s : State) : State :=
  let s1 := openMot o id s
  if s.side.pad[o].motDropped = some id then s
  else if 98304 < h.bodyLength then abandonMot o s1
  else finishMot o g (modPad s1 o fun p => { p with motHeader := some h })

/-- A body segment of an object (R290). -/
def takeMotBody (o : Fin 8) (g : PadGroup) (id k : Nat) (last : Bool) (bytes : List Byte) (s : State) : State :=
  let s1 := modPad (openMot o id s) o fun p =>
    { p with motSegs := upsert (fun e => e.1 == k) (k, bytes) p.motSegs, motLast := if last then some k else p.motLast }
  if s.side.pad[o].motDropped = some id then s
  else if 98304 < ((s1.side.pad[o].motSegs.map fun e => e.2.length).sum) then abandonMot o s1 else finishMot o g s1

/-- A DL Plus command belongs to the label in force (R288). -/
def plusInForce (c : DlPlus) (p : PadRx) : Bool := match p.label with | some (t, _) => t == c.link | none => false

/-- What a PAD data group carries is taken (R287 to R290). -/
def takePad (o : Fin 8) (g : PadGroup) (s : State) : State :=
  match g.content with
  | .dlSegment first last toggle number charset text => takeSegment o g first last toggle number charset text s
  | .dlRemove toggle => publishLabel o g toggle 0 [] (modPad s o fun p => { keepPlus toggle p with dlToggle := none })
  | .dlPlus c =>
    if plusInForce c s.side.pad[o] then deliverPlus o g s c else modPad s o fun p => { p with plusHeld := p.plusHeld ++ [c] }
  | .motHeader id h => takeMotHeader o g id h s
  | .motBody id k last bytes => takeMotBody o g id k last bytes s
  | .motDirectory => modPad s o fun p => { p with directory := bump p.directory 1 }

/-- What an output has assembled belongs to its old source: a new one begins afresh, and an object in progress is abandoned (R286,
R290). -/
def resetPad (o : Fin 8) (s : State) : State :=
  let s1 := if s.side.pad[o].motId.isSome then abandonMot o s else s
  modPad s1 o fun p => { PadRx.reset with directory := p.directory }

/-- PAD_DATA_GROUP (R285, R286): only for a selected output that decodes, from its active leg, from a good frame, with a good
CRC. -/
def execPadDataGroup (o : Fin 8) (g : PadGroup) (s : State) : Out :=
  if (sideAt s g.ts).padOutputs.getLsbD o.val && s.outs[o].state != .stopped && g.legB == s.follow[o].activeB
      && g.fromStore == s.outs[o].cfg.cursor && !g.frameBad then
    if g.crcOk then .next (takePad o g s)
    else .next { s with side := { s.side with padDgFailed := bump s.side.padDgFailed 1 } }
  else .next s

/-- MOT_TIMEOUT (R290): 120 s after its first segment an object that is still incomplete is abandoned. -/
def motTimeoutRule (o : Fin 8) (s : State) : State :=
  if s.side.pad[o].motId.isSome && s.side.pad[o].motFrom + 120 * 24576000 ≤ s.now then abandonMot o s else s

/-- MOT_TIMEOUT. -/
def execMotTimeout (o : Fin 8) (s : State) : Out := .next (motTimeoutRule o s)

/-- DB_DL_APPLY (R289): the label of the output's service is due at the boundary. -/
def execDbDlApply (o : Fin 8) (s : State) : Out :=
  .next (dbRow (fun s => s.db.pending.any fun c =>
    c.source == 2 && c.due ≤ s.latch.stroke && c.key == .service true (heardComponent s o).1 0) s)

end Sys2Proof.Machine
end

