-- ==== Sys2Proof/Machine/Rds.lean ====
section
/-! DEFINITION. RDS and RBDS reception: blocks, groups, confirmation, the groups decoded, AF lists and text assembly
(08_side_data_database.md, R273 to R284). The generator polynomial and the offset words are those of IEC 62106, which
R276 names and does not print (PRESUMED, notes/assumptions/14.md). -/

namespace Sys2Proof.Machine

/-! ### Blocks (R276, R277) -/

/-- The remainder of a 26-bit word by the RDS generator polynomial x^10 + x^8 + x^7 + x^5 + x^4 + x^3 + 1. -/
def rdsRemainder (w : BitVec 26) : BitVec 26 :=
  (List.range 16).foldl (fun r k => if r.getLsbD (25 - k) then r ^^^ ((0x5B9 : BitVec 26) <<< (15 - k)) else r) w

/-- The offset words A, B, C, D by position, C′ and E (IEC 62106). -/
def rdsOffset (k : Nat) (prime : Bool) : BitVec 26 :=
  if k = 0 then 0x0FC else if k = 1 then 0x198 else if k = 2 then (if prime then 0x350 else 0x168) else 0x1B4

/-- The bursts of up to a number of bits: their length and their pattern, shortest first. -/
def bursts (limit : Nat) : List (Nat × BitVec 26) :=
  (List.range limit).flatMap fun b =>
    (List.range (26 - b)).flatMap fun pos =>
      ((List.range (2 ^ (b - 1))).map fun mid =>
        if b = 0 then (1, (1 : BitVec 26) <<< pos)
        else (b + 1, (BitVec.ofNat 26 (2 ^ b + 2 * mid + 1)) <<< pos))

/-- The limit of `rds_correct` in bits (R272). -/
def burstLimit (correct : Nat) : Nat := if correct = 0 then 0 else if correct = 1 then 2 else 5

/-- A block decoded against an offset: its word and status (R277). -/
def decodeBlock (limit : Nat) (offset bits : BitVec 26) : RdsBlock :=
  let w := bits ^^^ offset
  let r := rdsRemainder w
  if r = 0 then ⟨(w >>> 10).setWidth 16, 0⟩
  else match (bursts limit).find? fun e => rdsRemainder e.2 == r with
    | some (n, e) => ⟨((w ^^^ e) >>> 10).setWidth 16, BitVec.ofNat 8 n⟩
    | none => ⟨(w >>> 10).setWidth 16, 0xFF⟩

/-- The position whose offset a block carries with zero syndrome error, 2 for both C and C′ (R276). -/
def blockPosition (bits : BitVec 26) : Option Nat :=
  [(0, false), (1, false), (2, false), (2, true), (3, false)].findSome? fun (k, p) =>
    if rdsRemainder (bits ^^^ rdsOffset k p) = 0 then some k else none

/-- One slot's RDS reception replaced. -/
def modRds (s : State) (i : Fin 48) (f : RdsRx → RdsRx) : State := modSlot s i fun x => { x with rds := f x.rds }

/-- A block that was not received (R277). -/
def notReceived : RdsBlock := ⟨0, 0xFE⟩

/-- The time of 26 bits at 1,187.5 bit/s, in ticks to the nearest (R273, R276). -/
def rdsBlockTicks (n : Nat) : Nat := (n * 26 * 49152000 + 1187) / 2375

/-- The runs of consecutive offsets that a block continues or begins, at 26-bit spacing to within half a bit; runs that
no block can continue any more are dropped (R276). -/
def seekRuns (ts k : Nat) (runs : List (Nat × Nat × Nat)) : Nat × List (Nat × Nat × Nat) :=
  let due := fun (e : Nat × Nat × Nat) =>
    e.1 + rdsBlockTicks 1 ≤ ts + 10348 && ts ≤ e.1 + rdsBlockTicks 1 + 10348 && (e.2.1 + 1) % 4 == k
  let count := match runs.find? due with
    | some e => e.2.2 + 1
    | none => 1
  (count, (runs.filter fun e => ts < e.1 + rdsBlockTicks 1 + 10348 && !due e) ++ [(ts, k, count)])

/-- A block while synchronisation is being sought, at every bit: three successive blocks with consecutive offsets acquire it. The
blocks of the group before it is regained count as not received. -/
def seekBlock (bits : BitVec 26) (ts : Nat) (x : RdsRx) : RdsRx :=
  match blockPosition bits with
  | none => x
  | some k =>
    let (count, runs) := seekRuns ts k x.acquire
    if count < 3 then { x with acquire := runs }
    else
      let b := decodeBlock 0 (rdsOffset k (rdsRemainder (bits ^^^ rdsOffset 2 true) == 0)) bits
      { x with
        synced := true, acquire := [], recent := [false], group := List.replicate k notReceived ++ [b]
        groupTs := ts - rdsBlockTicks k }

/-- Version B of the group in progress, from a usable block 2 (R276, R278). -/
def groupIsB (g : List RdsBlock) : Bool :=
  match g[1]? with
  | some b => b.status.toNat ≤ 5 && b.word.getLsbD 11
  | none => false

/-- A block while synchronisation holds: its offset follows from its position, a block of offset E is discarded, and
synchronisation is lost when more than 40 of the last 50 blocks are uncorrectable. -/
def syncedBlock (limit : Nat) (bits : BitVec 26) (ts : Nat) (x : RdsRx) : RdsRx :=
  let g := if 4 ≤ x.group.length then [] else x.group
  if rdsRemainder bits = 0 then x
  else
    let b := decodeBlock limit (rdsOffset g.length (groupIsB g)) bits
    let recent := keepLast 50 (x.recent ++ [b.status == 0xFF])
    let g1 := g ++ [b]
    let x1 := { x with group := g1, groupTs := if g.isEmpty then ts else x.groupTs, recent := recent }
    if 40 < (recent.filter id).length then
      { x1 with synced := false, acquire := [], recent := [], group := g1 ++ List.replicate (4 - g1.length) notReceived }
    else x1

/-! ### Confirmation (R279) -/

/-- The numbers of the fields that R279 tracks. -/
def fPi : Nat := 0
def fTp : Nat := 1
def fPty : Nat := 2
def fTa : Nat := 3
def fMs : Nat := 4
def fDi : Nat := 5
def fPs : Nat := 10
def fAf : Nat := 14
def fEcc : Nat := 15
def fPin : Nat := 16
def fOda : Nat := 17
def fClock : Nat := 18
def fPtyn : Nat := 20
def fTextAb : Nat := 24
def fPtynAb : Nat := 25
def fText : Nat := 32
def fLong : Nat := 48
def fEon : Nat := 64

/-- A group of a type arrives: corrected values live for the next four groups of that type. -/
def ageConfirms (g : Nat) (l : List Confirm) : List Confirm :=
  (l.map fun c => if c.group = g then { c with left := c.left - 1 } else c).filter fun c => 0 < c.left

/-- Whether a field is applied, with the confirmations that wait afterwards. -/
def accept (g field value : Nat) (status : List Byte) (l : List Confirm) : Bool × List Confirm :=
  if status.any fun b => 5 < b.toNat then (false, l)
  else if status.all fun b => b == 0 then (true, l)
  else
    let same := fun (c : Confirm) => c.group == g && c.field == field && c.value == value
    (l.any same, upsert same ⟨g, field, value, 5⟩ l)

/-- A field to apply: its number, value, the statuses of its blocks, and what applying it does to the decoder and which
changes it makes. -/
structure RdsField where
  field : Nat
  value : Nat
  status : List Byte
  effect : RdsRx → RdsRx × List (DbKey × DbField × Bool)

/-- The fields of a group in turn; those that R279 accepts take effect. -/
def runFields (g : Nat) : List RdsField → RdsRx → List (DbKey × DbField × Bool) → RdsRx × List (DbKey × DbField × Bool)
  | [], x, out => (x, out)
  | f :: fs, x, out =>
    let (ok, l) := accept g f.field f.value f.status x.confirms
    let x1 := { x with confirms := l }
    if ok then
      let (x2, more) := f.effect x1
      runFields g fs x2 (out ++ more)
    else runFields g fs x1 out

/-! ### AF lists (R281) -/

/-- The frequency of an AF code in Hz, none for a code that names none. -/
def afFreq (lfmf : Bool) (code : Nat) : Option Nat :=
  if lfmf then
    (if 1 ≤ code ∧ code ≤ 15 then some (153000 + 9000 * (code - 1))
     else if 16 ≤ code ∧ code ≤ 135 then some (531000 + 9000 * (code - 16)) else none)
  else if 1 ≤ code ∧ code ≤ 204 then some (87500000 + 100000 * code) else none

/-- The kind of an AF frequency (R299): 0 FM, 1 AM. -/
def afKindOf (hz : Nat) : Nat := if 64000000 ≤ hz then 0 else 1

/-- One code taken into a list (R281): wherever it stands, a length code begins a list, and code 250 marks the next one as
LF/MF. What no list has begun for is not held. -/
def afCode (code : Nat) (l : AfList) : AfList :=
  if l.lfmf then { l with lfmf := false, freqs := if l.wanted.isSome then l.freqs ++ (afFreq true code).toList else [] }
  else if 224 ≤ code ∧ code ≤ 249 then { wanted := some (code - 224), freqs := [], lfmf := false }
  else if code = 250 then { l with lfmf := true }
  else { l with freqs := if l.wanted.isSome then l.freqs ++ (afFreq false code).toList else [] }

/-- A list is complete: as many codes have been applied as its length code states (R281), which may be none. -/
def afComplete (l : AfList) : Bool := l.wanted.any (· ≤ l.freqs.length)

/-- The codes of a block taken in turn: the list in progress, and the lists that they complete. -/
def afCodes : List Nat → AfList → AfList × List AfList
  | [], l => (l, [])
  | c :: rest, l =>
    let l1 := afCode c l
    if afComplete l1 then
      let r := afCodes rest AfList.reset
      (r.1, l1 :: r.2)
    else afCodes rest l1

/-- The pairs of a list of even length. -/
def inPairs : List Nat → Option (List (Nat × Nat))
  | [] => some []
  | [_] => none
  | a :: b :: rest => (inPairs rest).map ((a, b) :: ·)

/-- The entries of method A: the frequencies as they stand. -/
def plainEntries (l : List Nat) : List SetEntry := l.map fun f => ⟨f, afKindOf f, 0, 0⟩

/-- The method of a complete list and its entries (R281, R299): method B when the tuned frequency comes first and stands in every
pair after it; its entries carry the regional flag when the pair is in descending order. -/
def afEntries (tuned : Nat) (l : AfList) : Nat × List SetEntry :=
  match l.freqs.head?, inPairs (l.freqs.drop 1) with
  | some f, some pairs =>
    if f = tuned ∧ !pairs.isEmpty ∧ pairs.all fun p => p.1 == tuned || p.2 == tuned then
      (1, pairs.map fun p => let f := if p.1 = tuned then p.2 else p.1
                             ⟨f, afKindOf f, if p.2 < p.1 then 1 else 0, 0⟩)
    else (0, plainEntries l.freqs)
  | _, _ => (0, plainEntries l.freqs)

/-! ### Groups (R278 to R284) -/

/-- The service key of a slot's PI (R295). -/
def fmKey (x : RdsRx) (pi : Half) : DbKey := .service false (pi.zeroExtend 32) x.ecc

/-- The characters of a 16-bit word. -/
def chars2 (w : Half) : List Byte := [(w >>> 8).setWidth 8, w.setWidth 8]

/-- Segments all applied, as one text. -/
def joinSegs {w : Nat} (f : BitVec w → List Byte) (l : List (Option (BitVec w))) : Option (List Byte) :=
  if l.all (·.isSome) then some (l.flatMap fun o => match o with | some v => f v | none => []) else none

/-- The RadioText from segment 0 up to the one that holds 0x0D or the last (R282). -/
def radioText : List (Option (List Byte)) → Option (List Byte)
  | [] => some []
  | none :: _ => none
  | some t :: rest =>
    if t.contains 0x0D then some (t.takeWhile (· != 0x0D))
    else (radioText rest).map (t ++ ·)

/-- A block's bit field. -/
def bitsOf (w : Half) (lo n : Nat) : Nat := w.toNat / 2 ^ lo % 2 ^ n

/-- One flag of `svc_flags` (R298). -/
def flagField (bit v : Nat) : DbField := .flagBits (BitVec.ofNat 8 (2 ^ bit)) (BitVec.ofNat 8 (v * 2 ^ bit))

/-- TP, PTY, TA, MS and DI of block 2, in 0A, 0B and 15B (R280). -/
def basicFields (key : DbKey) (b2 : Half) (st : List Byte) : List RdsField :=
  let simple := fun (n v : Nat) (f : DbField) => (⟨n, v, st, fun x => (x, [(key, f, false)])⟩ : RdsField)
  let seg := bitsOf b2 0 2
  [simple fTp (bitsOf b2 10 1) (flagField 0 (bitsOf b2 10 1)), simple fPty (bitsOf b2 5 5) (.pty (bitsOf b2 5 5)),
   simple fTa (bitsOf b2 4 1) (flagField 1 (bitsOf b2 4 1)), simple fMs (bitsOf b2 3 1) (flagField 2 (bitsOf b2 3 1)),
   simple (fDi + seg) (bitsOf b2 2 1) (flagField (7 - seg) (bitsOf b2 2 1))]

/-- A PS segment (R282). The segments begin anew when the record's field changes; a whole text that is the one held confirms
it. -/
def psField (key : DbKey) (seg : Nat) (w : Half) (st : List Byte) : RdsField :=
  ⟨fPs + seg, w.toNat, st, fun x =>
    let segs := x.psSegs.set seg (some w)
    match joinSegs chars2 segs with
    | some t =>
      if t = x.psHeld then ({ x with psSegs := segs }, [(key, .label 0 0 t, false)])
      else ({ x with psSegs := List.replicate 4 none, psHeld := t }, [(key, .label 0 0 t, false)])
    | none => ({ x with psSegs := segs }, [])⟩

/-- The AF codes of a block 3 of 0A (R281): a complete list replaces the record of its method. -/
def afField (tuned : Nat) (pi : Half) (w : Half) (st : List Byte) : RdsField :=
  ⟨fAf, w.toNat, st, fun x =>
    let (l, done) := afCodes [bitsOf w 8 8, bitsOf w 0 8] x.afList
    ({ x with afList := l }, done.map fun l =>
      let e := afEntries tuned l
      (.afSet false (pi.zeroExtend 32) x.ecc e.1, .entries e.2, false))⟩

/-- The A/B flag of RadioText: a change of it clears the assembly buffer, whatever the text of its group is (R282). -/
def textFlag (ab : Bool) (st : List Byte) : RdsField :=
  ⟨fTextAb, bitAt ab 0, st, fun x =>
    (if x.rtAb = some ab then x else { x with rtAb := some ab, rtSegs := List.replicate 16 none }, [])⟩

/-- The A/B flag of PTYN acts as that of RadioText (R282). -/
def ptynFlag (ab : Bool) (st : List Byte) : RdsField :=
  ⟨fPtynAb, bitAt ab 0, st, fun x =>
    (if x.ptynAb = some ab then x else { x with ptynAb := some ab, ptynSegs := List.replicate 2 none }, [])⟩

/-- A RadioText segment (R282). -/
def textField (key : DbKey) (ab : Bool) (seg : Nat) (last : Nat) (t : List Byte) (st : List Byte) : RdsField :=
  ⟨fText + seg, bitAt ab 32 + leNat t, st, fun x =>
    let segs0 := if x.rtAb = some ab then x.rtSegs else List.replicate 16 none
    let segs := segs0.set seg (some t)
    let x1 := { x with rtAb := some ab, rtSegs := segs }
    match radioText (segs.take last) with
    | some text => (x1, [(key, .text 0 (BitVec.ofNat 8 (bitAt ab 0)) text, false)])
    | none => (x1, [])⟩

/-- A PTYN segment (R282). -/
def ptynField (key : DbKey) (ab : Bool) (seg : Nat) (v : Word) (st : List Byte) : RdsField :=
  ⟨fPtyn + seg, bitAt ab 32 + v.toNat, st, fun x =>
    let segs := (if x.ptynAb = some ab then x.ptynSegs else List.replicate 2 none).set seg (some v)
    match joinSegs beBytes segs with
    | some t =>
      if t = x.ptynHeld then ({ x with ptynAb := some ab, ptynSegs := segs }, [(key, .ptyn t, false)])
      else ({ x with ptynAb := some ab, ptynSegs := List.replicate 2 none, ptynHeld := t }, [(key, .ptyn t, false)])
    | none => ({ x with ptynAb := some ab, ptynSegs := segs }, [])⟩

/-- A long PS segment (R280, R282). -/
def longField (key : DbKey) (seg : Nat) (v : Word) (st : List Byte) : RdsField :=
  ⟨fLong + seg, v.toNat, st, fun x =>
    let segs := x.longSegs.set seg (some v)
    match joinSegs beBytes segs with
    | some t =>
      if t = x.longHeld then ({ x with longSegs := segs }, [(key, .longPs t, false)])
      else ({ x with longSegs := List.replicate 8 none, longHeld := t }, [(key, .longPs t, false)])
    | none => ({ x with longSegs := segs }, [])⟩

/-- The PS of another network, segment by segment (R280, R282). -/
def eonPsField (key : DbKey) (pi : Half) (seg : Nat) (w : Half) (st : List Byte) : RdsField :=
  ⟨fEon + seg, pi.toNat * 65536 + w.toNat, st, fun x =>
    let old := (x.eonPs.find? fun e => e.1 == pi).getD (pi, List.replicate 4 none, [])
    let segs := old.2.1.set seg (some w)
    match joinSegs chars2 segs with
    | some t =>
      if t = old.2.2 then ({ x with eonPs := upsert (fun e => e.1 == pi) (pi, segs, t) x.eonPs }, [(key, .label 0 0 t, true)])
      else ({ x with eonPs := upsert (fun e => e.1 == pi) (pi, List.replicate 4 none, t) x.eonPs }, [(key, .label 0 0 t, true)])
    | none => ({ x with eonPs := upsert (fun e => e.1 == pi) (pi, segs, old.2.2) x.eonPs }, [])⟩

/-- The AF codes of another network (R280, R281), method 3. -/
def eonAfField (pi : Half) (w : Half) (st : List Byte) : RdsField :=
  ⟨fEon + 4, pi.toNat * 65536 + w.toNat, st, fun x =>
    let old := (x.eonAf.find? fun e => e.1 == pi).getD (pi, AfList.reset)
    let (l, done) := afCodes [bitsOf w 8 8, bitsOf w 0 8] old.2
    ({ x with eonAf := upsert (fun e => e.1 == pi) (pi, l) x.eonAf }, done.map fun l =>
      (.afSet false (pi.zeroExtend 32) x.ecc 3, .entries (plainEntries l.freqs), true))⟩

/-- The fields of 14A by variant (R280); in variant 12 a set is hard unless it is extended generic (log entry 14). -/
def eonFields (x : RdsRx) (b2 b3 b4 : Half) (st : List Byte) : List RdsField :=
  let v := bitsOf b2 0 4
  let key := fmKey x b4
  let simple := fun (n val : Nat) (l : List (DbKey × DbField × Bool)) =>
    (⟨fEon + n, b4.toNat * 65536 + val, st, fun x => (x, l)⟩ : RdsField)
  let named := simple 9 0 [(key, .touch, true)]
  let own := if v < 4 then [eonPsField key b4 v b3 st]
    else if v = 4 then [eonAfField b4 b3 st]
    else if v = 12 then
      let lk : DbKey := .linkage (bitsOf b3 0 12) (bitsOf b3 14 1 == 0) (bitsOf b3 13 1 == 1)
      [simple 5 b3.toNat [(lk, .linkState (bitsOf b3 15 1 == 1) true, false), (lk, .addEntry ⟨b4.toNat, 1, 0, 0⟩, false)]]
    else if v = 13 then
      [simple 6 b3.toNat [(key, .pty (bitsOf b3 11 5), true), (key, flagField 1 (bitsOf b3 0 1), true)]]
    else if v = 14 then [simple 7 b3.toNat [(key, .pin b3, true)]]
    else []
  if own.isEmpty then [] else named :: own

/-- The fields of a group by type (R280). -/
def groupFields (tuned : Nat) (pi : Half) (b : List RdsBlock) (x : RdsRx) : List RdsField :=
  let w := fun (k : Nat) => (b.getD k notReceived).word
  let t := fun (k : Nat) => (b.getD k notReceived).status
  let type := bitsOf (w 1) 12 4
  let vb := bitsOf (w 1) 11 1 == 1
  let key := fmKey x pi
  let ab := bitsOf (w 1) 4 1 == 1
  let long := fun (k : Nat) => BitVec.ofNat 32 ((w k).toNat * 65536 + (w (k + 1)).toNat)
  match type, vb with
  | 0, _ => basicFields key (w 1) [t 1] ++ [psField key (bitsOf (w 1) 0 2) (w 3) [t 1, t 3]]
      ++ (if vb then [] else [afField tuned pi (w 2) [t 1, t 2]])
  | 1, false =>
    (if bitsOf (w 2) 12 3 = 0 ∧ bitsOf (w 2) 0 8 ≠ 0 then
      [⟨fEcc, bitsOf (w 2) 0 8, [t 1, t 2], fun x =>
        ({ x with ecc := BitVec.ofNat 8 (bitsOf (w 2) 0 8) }, [(fmKey x pi, .ecc (BitVec.ofNat 8 (bitsOf (w 2) 0 8)), false)])⟩]
     else [])
      ++ [⟨fPin, (w 3).toNat, [t 1, t 3], fun x => (x, [(fmKey x pi, .pin (w 3), false)])⟩]
  | 2, false => [textFlag ab [t 1], textField key ab (bitsOf (w 1) 0 4) 16 (chars2 (w 2) ++ chars2 (w 3)) [t 1, t 2, t 3]]
  | 2, true => [textFlag ab [t 1], textField key ab (bitsOf (w 1) 0 4) 16 (chars2 (w 3)) [t 1, t 3]]
  | 3, false => [⟨fOda, bitsOf (w 1) 0 5 * 65536 + (w 3).toNat, [t 1, t 3], fun x =>
      ({ x with oda := upsert (fun e => e.1 == bitsOf (w 1) 0 5) (bitsOf (w 1) 0 5, w 3) x.oda }, [])⟩]
  | 4, false =>
    let c : Clock := ⟨bitsOf (w 1) 0 2 * 32768 + bitsOf (w 2) 1 15, bitsOf (w 2) 0 1 * 16 + bitsOf (w 3) 12 4,
      bitsOf (w 3) 6 6, if bitsOf (w 3) 5 1 = 1 then -(bitsOf (w 3) 0 5 : Int) else bitsOf (w 3) 0 5⟩
    [⟨fClock, (bitsOf (w 1) 0 2 * 65536 + (w 2).toNat) * 65536 + (w 3).toNat, [t 1, t 2, t 3],
      fun x => (x, [(key, .clock c 0, false)])⟩]
  | 10, false => [ptynFlag ab [t 1], ptynField key ab (bitsOf (w 1) 0 1) (long 2) [t 1, t 2, t 3]]
  | 14, false => eonFields x (w 1) (w 2) (w 3) [t 1, t 2, t 3]
  | 14, true =>
    let k := fmKey x (w 3)
    [⟨fEon + 10, (w 3).toNat * 4 + bitsOf (w 1) 3 2, [t 1, t 3], fun x =>
      (x, [(k, .touch, true), (k, flagField 0 (bitsOf (w 1) 4 1), true), (k, flagField 1 (bitsOf (w 1) 3 1), true)])⟩]
  | 15, false => [longField key (bitsOf (w 1) 0 3) (long 2) [t 1, t 2, t 3]]
  | 15, true => basicFields key (w 1) [t 1]
  | _, _ => []

/-- The PI of a group (R279): the PI, or none when the group's fields belong to no PI, and the decoder afterwards. -/
def groupPi (g : Nat) (b : List RdsBlock) (x : RdsRx) : Option Half × RdsRx :=
  let b1 := b.getD 0 notReceived
  let b3 := b.getD 2 notReceived
  let vb := groupIsB b
  if b1.status = 0 then (some b1.word, x)
  else if vb && b3.status == 0 then (some b3.word, x)
  else
    let pis := ([b1] ++ (if vb then [b3] else [])).filter fun p => p.status.toNat ≤ 5
    let step := fun (acc : Option Half × List Confirm) (p : RdsBlock) =>
      if acc.1 = some p.word then acc
      else
        let (ok, l) := accept g fPi p.word.toNat [p.status] acc.2
        (if ok then some p.word else acc.1, l)
    let (pi, l) := pis.foldl step (x.piLast, x.confirms)
    let x1 := { x with confirms := l }
    match pi with
    | some v => if pis.all fun p => p.word == v then (some v, x1) else (none, x1)
    | none => (none, x1)

/-- A PI other than the last applied starts the partial segments anew (log entry 25). -/
def takePi (pi : Half) (x : RdsRx) : RdsRx :=
  if x.piLast = some pi then x
  else { RdsRx.reset with
    synced := x.synced, acquire := x.acquire, recent := x.recent, group := x.group, groupTs := x.groupTs, ecc := x.ecc
    confirms := x.confirms, oda := x.oda, groupsLost := x.groupsLost, piLast := some pi }

/-- The text that a record is going to hold once the changes that wait have applied, by the field that a change sets; the empty
text while there is no record. -/
def textToCome (s : State) (key : DbKey) (pick : DbField → Option (List Byte)) (field : ServiceRec → List Byte) : List Byte :=
  match (s.db.pending.filterMap fun c => if c.key = key then pick c.field else none).getLast? with
  | some t => t
  | none => match findKey s.db.recs key with
    | some r => (match r.body with | .service v => field v | _ => [])
    | none => []

/-- The PS that a record is going to hold. -/
def psToCome (s : State) (key : DbKey) : List Byte :=
  textToCome s key (fun f => match f with | .label _ _ t => some t | _ => none) (·.label.take 8)

/-- The texts of a record as the decoder knows them; where the record has changed otherwise, its segments begin anew (R282). -/
def syncTexts (s : State) (key : DbKey) (x : RdsRx) : RdsRx :=
  let ps := psToCome s key
  let ptyn := textToCome s key (fun f => match f with | .ptyn t => some t | _ => none) (·.ptyn)
  let long := textToCome s key (fun f => match f with | .longPs t => some t | _ => none) (·.longPs)
  let x1 := if ps = x.psHeld then x else { x with psHeld := ps, psSegs := List.replicate 4 none }
  let x2 := if ptyn = x.ptynHeld then x1 else { x1 with ptynHeld := ptyn, ptynSegs := List.replicate 2 none }
  let x3 := if long = x.longHeld then x2 else { x2 with longHeld := long, longSegs := List.replicate 8 none }
  { x3 with eonPs := x3.eonPs.map fun e =>
    let t := psToCome s (fmKey x e.1)
    if t = e.2.2 then e else (e.1, List.replicate 4 none, t) }

/-- The record of a group (R291, R293), when `rds_raw` selects it; a remote sends every one (R498). The groups of a census visit
go to no stream (DESIGN CHOICE, log entry 117). -/
def rawGroup (i : Fin 48) (s : State) : State :=
  let x := s.slots[i].rds
  let w := (x.group.getD 1 notReceived).word
  let type := bitsOf w 12 4
  let vb := bitsOf w 11 1 == 1
  let oda := x.oda.find? fun e => e.1 == type * 2 + bitAt vb 0
  let aid := match oda with | some e => e.2 | none => 0
  if s.slots[i].visit then s
  else sideOut (slotSelected s i && rawSelected s.side.stream.rdsRaw type vb oda.isSome)
    ⟨0x0001, BitVec.ofNat 16 i.val, x.groupTs,
      (x.group.flatMap fun b => u16 b.word.toNat) ++ (x.group.map (·.status)) ++ u16 aid.toNat
        ++ u8 (type * 16 + bitAt vb 3) ++ zeros 1⟩ s

/-- The changes that a group makes, due 100 ms after its timestamp (R300). -/
def queueGroup (i : Fin 48) (ts : Nat) (l : List (DbKey × DbField × Bool)) (s : State) : State :=
  let c := fun (e : DbKey × DbField × Bool) => (
    { source := 0, due := strokeFrom (ts + 2457600), ts := ts, key := e.1, field := e.2.1, rbds := (sideAt s ts).rbds
      eon := e.2.2, census := s.slots[i].visit } : DbChange)
  l.foldl (fun s e => queueChange (c e) s) s

/-- A complete group (R278 to R284); a group that R280 does not decode, and 3A, names no record (R295). One without its block 2 is discarded, and counted when its block 1 formed it; decoded and passed raw only while the
slot is LIVE. -/
def groupRule (i : Fin 48) (s : State) : State :=
  let x := s.slots[i].rds
  if x.group.length < 4 then s
  else if 5 < (x.group.getD 1 notReceived).status.toNat then
    modRds s i fun x => { x with
      group := [], groupsLost := if (x.group.getD 0 notReceived).status.toNat ≤ 5 then bump x.groupsLost 1 else x.groupsLost }
  else if s.slots[i].state ≠ .live then modRds s i fun x => { x with group := [] }
  else
    let g := bitsOf (x.group.getD 1 notReceived).word 11 5
    let x0 := { x with confirms := ageConfirms g x.confirms }
    let (pi, x1) := groupPi g x.group x0
    let (x2, out) := match pi with
      | none => (x1, [])
      | some v =>
        let x2 := syncTexts s (fmKey x1 v) (takePi v x1)
        let (x3, more) := runFields g (groupFields s.slots[i].tune.freq v x.group x2) x2 []
        let named := if groupDecoded (g / 2) (g % 2 == 1) then
          [(fmKey x2 v, .touch, false), (fmKey x2 v, .freq s.slots[i].tune.freq, false)] else []
        (x3, named ++ more)
    let s1 := queueGroup i x.groupTs out (modRds s i fun _ => x2)
    modRds (rawGroup i s1) i fun x => { x with group := [] }

/-- RDS_GROUP (R278). -/
def execRdsGroup (i : Fin 48) (s : State) : Out := .next (groupRule i s)

/-- The 57 kHz subcarrier is held: three times the pilot while its PLL is locked, or by the carrier loop within its
pull-in range of 10 Hz, `carrier` being the subcarrier's offset in 0.1 Hz (R273). -/
def rdsCarrierHeld (x : Slot) (carrier : Int) : Bool := x.reading.pilotLocked || carrier.natAbs ≤ 100

/-- The timestamp of the group that a block belongs to: of the group in progress, or its own (R272, R274). -/
def blockStamp (ts : Nat) (r : RdsRx) : Nat := if r.group.isEmpty then ts else r.groupTs

/-- RDS_BLOCK (R272, R273, R276, R277): one block of 26 bits of an FM slot, with the timestamp of its first bit. -/
def execRdsBlock (i : Fin 48) (bits : BitVec 26) (ts : Nat) (carrier : Int) (s : State) : Out :=
  let x := s.slots[i]
  if !isLocal s && isFm x.tune.type && x.state != .linkLost && x.state != .free && rdsCarrierHeld x carrier then
    let s1 := groupRule i s
    .next (modRds s1 i fun r =>
      if r.synced then syncedBlock (burstLimit (sideAt s (blockStamp ts r)).correct) bits ts r else seekBlock bits ts r)
  else .next s

end Sys2Proof.Machine
end

