-- ==== Sys2Proof/Machine/Dab.lean ====
section
/-! DEFINITION. Ensemble slots: the OFDM receiver, the flywheel, the FIC, the time de-interleaver, subchannel units and
reconfiguration (07_dab.md, R244 to R270). -/

namespace Sys2Proof.Machine

/-- Ticks of one CIF (R249). -/
def cifTicks : Nat := 589824
/-- Ticks of one transmission frame at the nominal rate. -/
def frameTicks : Nat := 2359296

/-- One slot's ensemble receiver replaced. -/
def modDab (s : State) (i : Fin 48) (f : DabRx → DabRx) : State := modSlot s i fun x => { x with dab := f x.dab }

/-- The slot's receiver runs: an assigned ensemble slot, or a visit, that is not lost with its link or converter; a local has no
receiver of its own. -/
def dabRuns (s : State) (x : Slot) : Bool := !isLocal s && x.tune.type == .dab && x.state != .free && x.state != .linkLost && x.state != .fault

/-! ### The held configuration (R255, R267 to R269) -/

/-- A FIG 0/1 entry as a subchannel that starts; what no component names is stream-mode data (log entry 127). -/
def subOf (e : OrgEntry) (ts : Nat) : SubCh :=
  { SubCh.reset with id := e.id, start := e.start, size := e.size, protection := e.protection, bitrate := e.bitrate
                     kind := 3, lastSeen := ts }

/-- Start address, size and protection are the same (R267). -/
def sameOrg (a b : SubCh) : Bool := a.start == b.start && a.size == b.size && a.protection == b.protection

/-- A change of configuration waits for the database (R257): 29 ms after its first CIF. -/
def ficDue (ts : Nat) : Nat := strokeFrom (ts + 712704)

/-- `kind` of R263 by the component that a subchannel carries: stream audio is Layer II, or DAB+ by ASCTy 63. -/
def kindOf (comps : List CompEntry) (u : SubCh) : Nat :=
  match comps.find? fun c => c.subch == some u.id with
  | some c => if c.tmid = 0 then (if c.cty = 63 then 1 else 0) else if c.tmid = 1 then 3 else 2
  | none => u.kind

/-- A subchannel whose de-interleaver state and superframe sync begin anew at a CIF (R261, R267). -/
def restartSub (ts : Nat) (u : SubCh) : SubCh :=
  { u with first := true, beginTs := ts, frames := [], runs := SubCh.reset.runs, failRun := 0, synced := false }

/-- The kinds of the subchannels held brought up to date with the component map. -/
def refreshKinds (d : DabRx) : DabRx :=
  { d with subchs := d.subchs.map fun u =>
    if kindOf d.comps u = u.kind then u
    else { u with kind := kindOf d.comps u, frames := [], runs := SubCh.reset.runs, failRun := 0, synced := false } }

/-- Organisations that ended, as far as logical frames of them can still come. -/
def keepOld (ts : Nat) (l : List SubCh) : List SubCh := l.filter fun o => ts < o.endTs + 20 * cifTicks

/-- The changes to the organisation at one CIF: entries added or changed, and identifiers removed. Unchanged
subchannels run on; the old organisation stays until its last logical frames are out. -/
def adoptSubchs (ts : Nat) (entries : List SubCh) (removed : List Nat) (d : DabRx) : DabRx :=
  let changed := entries.filter fun e => !(d.subchs.any fun o => o.id == e.id && sameOrg o e)
  let ending := d.subchs.filter fun o => removed.contains o.id || changed.any fun e => e.id == o.id
  let kept := d.subchs.filter fun o => !(ending.any fun e => e.id == o.id)
  if changed.isEmpty && ending.isEmpty then d
  else refreshKinds { d with
    subchs := kept ++ changed.map (restartSub ts)
    oldSubchs := keepOld ts d.oldSubchs ++ ending.map fun o => { o with endTs := ts, removed := removed.contains o.id }
    orgGens := keepLast 4 (d.orgGens ++ [(ts, ficDue ts, none)]) }

/-- A change of a record that the FIC of a slot makes (R257). -/
def ficChange (s : State) (i : Fin 48) (ts : Nat) (key : DbKey) (f : DbField) (eon : Bool) : DbChange :=
  { source := 1, due := ficDue ts, ts := ts, key := key, field := f, rbds := false, eon := eon, census := s.slots[i].visit }

/-- Changes queued in turn. -/
def queueAll (l : List DbChange) (s : State) : State := { s with db := { s.db with pending := s.db.pending ++ l } }

/-- `comp_flags` [1:0] of a map entry (R298). -/
def compFlags (e : CompEntry) : Byte := BitVec.ofNat 8 (bitAt e.primary 0 + bitAt e.ca 1)

/-- The components that a subchannel carries and whose SCIdS is known. -/
def compsOf (d : DabRx) (id : Nat) : List (CompEntry × Nat) :=
  d.comps.filterMap fun c => if c.subch = some id then c.scids.map fun k => (c, k) else none

/-- The organisation of the components that a subchannel carries, as changes of the database (R298). -/
def orgChanges (s : State) (i : Fin 48) (ts : Nat) (d : DabRx) (u : SubCh) : List DbChange :=
  (compsOf d u.id).flatMap fun e =>
    let k : DbKey := .component e.1.sid e.2
    [ficChange s i ts k (.compOrg u.protection u.start u.size u.bitrate) false,
     ficChange s i ts k (.flagBits 0x04 (if u.kind = 1 then 0x04 else 0)) false,
     ficChange s i ts k (.flagBits 0x08 (if u.fec then 0x08 else 0)) false]

/-- A component map entry as changes of the database (R255, R298); one whose SCIdS is not known has no record yet. -/
def compChanges (s : State) (i : Fin 48) (ts : Nat) (eid : Half) (e : CompEntry) : List DbChange :=
  let freq := s.slots[i].tune.freq
  let svc : DbKey := .service true e.sid 0
  [ficChange s i ts svc (.ofEnsemble eid freq) false, ficChange s i ts svc (.freq freq) false,
   ficChange s i ts svc (.flagBits 0x08 (if e.ca then 0x08 else 0)) false]
  ++ match e.scids with
    | some k =>
      let comp : DbKey := .component e.sid k
      [ficChange s i ts comp (.compMap e.subch e.tmid e.cty (compFlags e)) false,
       ficChange s i ts comp (.ofEnsemble eid freq) false, ficChange s i ts comp (.packet e.packet) false]
    | none => []

/-- A component that the map no longer holds, as changes of the database. -/
def unmapChanges (s : State) (i : Fin 48) (ts : Nat) (e : CompEntry) : List DbChange :=
  match e.scids with
  | some k => [ficChange s i ts (.component e.sid k) (.compMap none e.tmid e.cty (compFlags e)) false]
  | none => []

/-- Every record that the FIC of a slot has given, as changes of the database (R255, R269). -/
def rebuildChanges (s : State) (i : Fin 48) (ts : Nat) (d : DabRx) : List DbChange :=
  match d.eid with
  | some e => d.comps.flatMap (compChanges s i ts e) ++ d.subchs.flatMap (orgChanges s i ts d)
  | none => []

/-- The announcement's end in the ensemble record. -/
def unannounce (s : State) (i : Fin 48) (ts : Nat) : List DbChange :=
  match s.slots[i].dab.eid with
  | some e => [ficChange s i ts (.ensemble e s.slots[i].tune.freq) (.announce false 0) false]
  | none => []

/-! ### The component map (R255) -/

/-- A map entry with what is known of it from elsewhere: the SCIdS of the same component before, and for packet mode what
FIG 0/3 gives. -/
def joinComp (d : DabRx) (e : CompEntry) : CompEntry :=
  let e1 := match e.scids with
    | some _ => e
    | none => { e with scids :=
        (d.comps.find? fun o => o.sid == e.sid && o.subch == e.subch && o.scid == e.scid && !o.primary).bind (·.scids) }
  match e.scid.bind fun k => d.packets.find? fun p => p.scid == k with
  | some p => { e1 with subch := some p.subch, cty := p.cty, packet := p.address }
  | none => e1

/-- Whether an entry is the one that another becomes: the same stream or the same SCId. -/
def sameComp (a b : CompEntry) : Bool :=
  a.sid == b.sid && a.tmid == b.tmid && (if a.scid.isSome then a.scid == b.scid else a.subch == b.subch)

/-- The components of one service in FIG 0/2 take the place of those held. -/
def mapService (d : DabRx) (e : Word × List CompEntry) : DabRx :=
  let held := fun (c : CompEntry) => d.comps.find? (sameComp c)
  let l := e.2.map fun c => joinComp d { c with scids := if c.primary then some 0 else (held c).bind fun o => if o.primary then none else o.scids }
  { d with comps := d.comps.filter (fun c => c.sid != e.1) ++ l }

/-- FIG 0/3: packet-mode components know their subchannel, type and address. -/
def mapPacket (d : DabRx) (p : PacketEntry) : DabRx :=
  { d with
    packets := upsert (fun q => q.scid == p.scid) p d.packets
    comps := d.comps.map fun c => if c.scid = some p.scid then { c with subch := some p.subch, cty := p.cty, packet := p.address } else c }

/-- FIG 0/8: the SCIdS of a component. -/
def mapGlobal (d : DabRx) (g : GlobalEntry) : DabRx :=
  { d with comps := d.comps.map fun c =>
    if c.sid = g.sid ∧ (if g.scid.isSome then c.scid == g.scid else c.scid.isNone && c.subch == g.subch) then { c with scids := some g.scids }
    else c }

/-- FIG 0/14: the outer code of subchannels (R262). -/
def mapFec (d : DabRx) (e : Nat × Bool) : DabRx :=
  { d with subchs := d.subchs.map fun u => if u.id = e.1 then { u with fec := e.2 } else u }

/-- What a FIG of the current configuration does to the component map; others leave it. -/
def mapFig (f : Fig) (d : DabRx) : DabRx :=
  match f with
  | .f02 _ services => services.foldl mapService d
  | .f03 _ entries => entries.foldl mapPacket d
  | .f08 _ entries => entries.foldl mapGlobal d
  | .f014 _ entries => entries.foldl mapFec d
  | _ => d

/-- The services that a FIG of the component map names. -/
def figSids (d : DabRx) : Fig → List Word
  | .f02 _ services => services.map (·.1)
  | .f03 _ entries => (d.comps.filter fun c => entries.any fun p => c.scid == some p.scid).map (·.sid)
  | .f08 _ entries => entries.map (·.sid)
  | .f014 _ entries => (d.comps.filter fun c => entries.any fun e => c.subch == some e.1).map (·.sid)
  | _ => []

/-- A FIG of the component map taken into the receiver, with the records of the services that it names (R255, R298). -/
def takeMap (i : Fin 48) (ts : Nat) (s : State) (f : Fig) : State :=
  let d := s.slots[i].dab
  let d1 := refreshKinds (mapFig f d)
  let sids := figSids d1 f
  let named := d1.comps.filter fun c => sids.contains c.sid
  let gone := (d.comps.filter fun c => sids.contains c.sid).filter fun c => !(named.any fun n => n.scids == c.scids && n.sid == c.sid)
  let s1 := modDab s i fun _ => d1
  match d1.eid with
  | some e =>
    queueAll (gone.flatMap (unmapChanges s i ts) ++ named.flatMap (compChanges s i ts e)
      ++ (d1.subchs.filter fun u => named.any fun c => c.subch == some u.id).flatMap (orgChanges s i ts d1)
      ++ [ficChange s i ts (.ensemble e s.slots[i].tune.freq) (.counts (d1.comps.map (·.sid)).eraseDups.length d1.subchs.length) false]) s1
  | none => s1

/-! ### Reconfiguration (R267 to R269) -/

/-- The next configuration's organisations: the union of the FIG 0/1 entries received since the announcement (R267). -/
def nextOrgs (ts : Nat) (figs : List Fig) : List SubCh :=
  (figs.flatMap fun f => match f with | .f01 _ l => l | _ => []).foldl (fun l e => upsert (fun u => u.id == e.id) (subOf e ts) l) []

/-- DAB_RECONFIGURATION at its CIF (R267): every subchannel changes to the next configuration; one that the union lacks is
kept. -/
def reconfigure (i : Fin 48) (ts : Nat) (s : State) : State :=
  let d := s.slots[i].dab
  let d1 := { adoptSubchs ts (nextOrgs ts d.nextFigs) [] d with nextFigs := [], reconfAt := none, candidates := [] }
  let s1 := modDab (d.nextFigs.foldl (takeMap i ts) (modDab s i fun _ => d1)) i fun e =>
    { e with pastComps := if e.comps = d.comps then e.pastComps else ((ts, d.comps) :: e.pastComps).take 4 }
  queueAll (unannounce s i ts ++ s1.slots[i].dab.subchs.flatMap (orgChanges s i ts s1.slots[i].dab)) s1

/-- A CIF of a count is the one of the announced reconfiguration: its lower 8 bits equal the occurrence change (R267). -/
def occursAt (d : DabRx) (count : Nat) : Bool := d.reconfAt == some (count % 256)

/-- A CIF begins: the reconfiguration announced for it takes effect. -/
def beginCif (i : Fin 48) (count ts : Nat) (s : State) : State :=
  if occursAt s.slots[i].dab count then reconfigure i ts s else s

/-- The next CIF, after the last one received or passed, at which the announced reconfiguration occurs: its timestamp. -/
def occurrenceTs (d : DabRx) : Option Nat :=
  ((List.range 256).find? fun k => occursAt d ((d.cif + k + 1) % 5000)).map fun k => (d.cifAt + (k + 1) * (d.period / 4)) / 25

/-- A discontinuity is due: another EId in 2 consecutive frames, or a count that differs (R269). -/
def discDue (s : State) (x : Slot) : Bool :=
  dabRuns s x && (x.dab.discDue || (match x.dab.eidNew with | some (_, n) => 2 ≤ n | none => false))

/-- DAB_RECONFIGURATION (R267): its CIF has begun, by the count that the receiver keeps. A discontinuity at the same CIF
applies alone (R269). -/
def reconfRule (i : Fin 48) (s : State) : State :=
  let x := s.slots[i]
  match occurrenceTs x.dab with
  | some ts => if dabRuns s x && x.dab.tracked && ts ≤ s.now && !discDue s x then reconfigure i ts s else s
  | none => s

/-- DAB_RECONFIGURATION. -/
def execDabReconfiguration (i : Fin 48) (s : State) : Out := .next (reconfRule i s)

/-- DAB_UNANNOUNCED_CHANGE (R268): organisations seen in correct FIBs of 2 consecutive frames are adopted at the first
CIF of the next frame. -/
def unannouncedRule (i : Fin 48) (ts : Nat) (s : State) : State :=
  let d := s.slots[i].dab
  let due := (d.candidates.filter fun c => 2 ≤ c.2).map (·.1)
  if dabRuns s s.slots[i] && !due.isEmpty then
    let d1 := { adoptSubchs ts due [] d with candidates := d.candidates.filter fun c => c.2 < 2 }
    queueAll ((d1.subchs.filter fun u => due.any fun e => e.id == u.id).flatMap (orgChanges s i ts d1)) (modDab s i fun _ => d1)
  else s

/-- The first CIF of the next frame: frames begin at counts divisible by four (R249). -/
def nextFrameTs (d : DabRx) : Nat := (d.cifAt + (4 - d.cif % 4) * (d.period / 4)) / 25

/-- DAB_UNANNOUNCED_CHANGE. -/
def execDabUnannouncedChange (i : Fin 48) (s : State) : Out :=
  .next (unannouncedRule i (nextFrameTs s.slots[i].dab) s)

/-- DAB_SUBCH_ABSENT (R268): a SubChId absent from the current FIG 0/1 for 10 s is removed, with its components' map. -/
def subchAbsentRule (i : Fin 48) (id : Nat) (s : State) : State :=
  let d := s.slots[i].dab
  if dabRuns s s.slots[i] && d.subchs.any fun u => u.id == id && u.lastSeen + 245760000 ≤ s.now then
    let ts := nextFrameTs d
    let gone := d.comps.filter fun c => c.subch == some id
    let d1 := { adoptSubchs ts [] [id] d with comps := d.comps.filter fun c => c.subch != some id }
    queueAll (gone.flatMap (unmapChanges s i ts)) (modDab s i fun _ => d1)
  else s

/-- DAB_SUBCH_ABSENT. -/
def execDabSubchAbsent (i : Fin 48) (subch : Nat) (s : State) : Out := .next (subchAbsentRule i subch s)

/-- Every subchannel reset at one CIF (R269): its old logical frames that reach the CIF are bad, and a new start follows. -/
def resetSubchs (ts : Nat) (d : DabRx) : DabRx :=
  { d with
    subchs := d.subchs.map (restartSub ts)
    oldSubchs := keepOld ts d.oldSubchs ++ d.subchs.map fun o => { o with endTs := ts }
    orgGens := keepLast 4 (d.orgGens ++ [(ts, ficDue ts, none)]) }

/-- DAB_DISCONTINUITY (R269): every subchannel is reset, and the records of the slot are rebuilt. With another EId the map
was the other ensemble's: its components are no longer mapped, and the FIC that follows gives the new ones. -/
def discontinuityRule (i : Fin 48) (ts : Nat) (s : State) : State :=
  let d := s.slots[i].dab
  if discDue s s.slots[i] then
    let eid := match d.eidNew with | some (e, n) => if 2 ≤ n then some e else d.eid | none => d.eid
    let d1 := { resetSubchs ts d with
      eid := eid, eidNew := none, discDue := false, nextFigs := [], reconfAt := none, candidates := [] }
    if eid = d.eid then
      queueAll (unannounce s i ts ++ rebuildChanges s i ts d1) (modDab s i fun _ => d1)
    else
      queueAll (unannounce s i ts ++ d.comps.flatMap (unmapChanges s i ts))
        (modDab s i fun _ => { d1 with comps := [], packets := [], others := [], freqInfos := [], relearn := true })
  else s

/-- DAB_DISCONTINUITY. -/
def execDabDiscontinuity (i : Fin 48) (s : State) : Out :=
  .next (discontinuityRule i (nextFrameTs s.slots[i].dab) s)

/-! ### The time de-interleaver (R246, R250, R258) -/

/-- By how many CIFs each of 16 successive bits is late (EN 300 401; PRESUMED, log entry 14). -/
def bitDelay : List Nat := [0, 8, 4, 12, 2, 10, 6, 14, 1, 9, 5, 13, 3, 11, 7, 15]

/-- The soft decision of bit j of a subchannel, from the 16 CIFs of the area: those at and after the end of its organisation
carry others' bits and give none. -/
def deinterleaved (u : SubCh) (area : List CifRx) (j : Nat) : Int :=
  match area[15 - bitDelay.getD (j % 16) 0]? with
  | some c => if u.endTs ≠ 0 ∧ u.endTs ≤ c.ts + cifTicks / 2 then 0 else c.soft.getD (64 * u.start + j) 0
  | none => 0

/-- The logical frame of an organisation that begins with the oldest CIF of a full area; none when that CIF is none of its. -/
def readyFrame (area : List CifRx) (u : SubCh) : Option ReadyFrame :=
  match area[15]? with
  | none => none
  | some n =>
    if n.ts + cifTicks / 2 < u.beginTs ∨ (u.endTs ≠ 0 ∧ u.endTs ≤ n.ts + cifTicks / 2) then none
    else some
      { subch := u.id, beginTs := u.beginTs, count := n.count, ts := n.ts
        soft := (List.range (64 * u.size)).map (deinterleaved u area)
        erased := area.any (·.erased), crossed := u.endTs != 0 && area.any fun c => u.endTs ≤ c.ts + cifTicks / 2 }

/-- A CIF enters the area, and the logical frame of every subchannel that it completes waits for its decoder (R258). -/
def enterCif (c : CifRx) (at25 : Nat) (d : DabRx) : DabRx :=
  let area := (c :: d.area).take 16
  { d with
    area := area, cif := c.count, cifAt := at25
    ready := d.ready ++ (d.oldSubchs ++ d.subchs).filterMap (readyFrame area) }

/-- The flywheel passes a CIF: it enters the de-interleaver as erasures (R250), after the reconfiguration that occurs at it. -/
def passCif (i : Fin 48) (s : State) : State :=
  let d := s.slots[i].dab
  let count := (d.cif + 1) % 5000
  let at25 := d.cifAt + d.period / 4
  modDab (beginCif i count (at25 / 25) s) i (enterCif { CifRx.reset with count := count, ts := at25 / 25, erased := true } at25)

/-- Several CIFs passed. -/
def passCifs (i : Fin 48) : Nat → State → State
  | 0, s => s
  | n + 1, s => passCifs i n (passCif i s)

/-- DAB_FLYWHEEL_CIF (R250): outside TRACK the flywheel advances one CIF each quarter of the last frame period. -/
def flywheelRule (i : Fin 48) (s : State) : State :=
  let d := s.slots[i].dab
  if dabRuns s s.slots[i] && d.tracked && d.sync != .track && d.cifAt + d.period / 2 ≤ 25 * s.now then passCif i s else s

/-- DAB_FLYWHEEL_CIF. -/
def execDabFlywheelCif (i : Fin 48) (s : State) : Out := .next (flywheelRule i s)

/-! ### Acquisition and tracking (R247, R248) -/

/-- DAB_NULL_DETECT: two dips of at least 10 dB, 2,656 ± 64 samples long, 196,608 ± 8 samples apart. -/
def execDabNullDetect (i : Fin 48) (depthDb length spacing : Nat) (s : State) : Out :=
  if dabRuns s s.slots[i] && s.slots[i].dab.sync == .search && 10 ≤ depthDb && 2592 ≤ length && length ≤ 2720
      && 196600 ≤ spacing && spacing ≤ 196616 then
    .next (modDab s i fun d => { d with sync := .coarse, framesIn := 0 })
  else .next s

/-- A PRS correlation peak, in 0.1 dB above the mean correlation, exceeds it by 12 dB (R247, R248); one of exactly 12 dB passes
(log entry 92). -/
def prsPasses (peak : Nat) : Bool := 120 ≤ peak

/-- The integer carrier offsets in kHz in the order in which COARSE tries them: outward from the starting point (R247). -/
def coarseOrder (start : Int) : List Int :=
  let c := roundDiv start 1000
  sortBy (fun a b : Int => (a - c).natAbs ≤ (b - c).natAbs) ((List.range 61).map fun (k : Nat) => (k : Int) - 30)

/-- The offset at which the PRS shows itself, from the peaks at the 61 offsets from −30 to 30 kHz. -/
def coarseOffset (start : Int) (peaks : List Nat) : Option Int :=
  (coarseOrder start).find? fun k => prsPasses (peaks.getD (k + 30).toNat 0)

/-- DAB_COARSE_LOCK: the PRS peak exceeds the mean by 12 dB at one integer carrier offset within ±30 kHz; else one frame
has passed without it. -/
def execDabCoarseLock (i : Fin 48) (peaks : List Nat) (s : State) : Out :=
  if dabRuns s s.slots[i] && s.slots[i].dab.sync == .coarse then
    match coarseOffset s.slots[i].dab.coarseFrom peaks with
    | some k => .next (modDab s i fun d => { d with sync := .fine, framesIn := 0, freqHz := some (1000 * k) })
    | none => .next (modDab s i fun d => { d with framesIn := min 3 (d.framesIn + 1) })
  else .next s

/-- A return to SEARCH that is no clear (R247): it drops the timing and frequency estimates alone, and the last frequency
estimate is the starting point of the next COARSE search. -/
def toSearch (d : DabRx) : DabRx :=
  { d with sync := .search, framesIn := 0, prsFails := 0, trackedAllStroke := false, window := none
           coarseFrom := d.freqHz.getD d.coarseFrom, freqHz := none }

/-- COARSE has had 3 frames, or FINE 4, without success. -/
def syncTimeoutDue (s : State) (x : Slot) : Bool :=
  dabRuns s x && ((x.dab.sync == .coarse && 3 ≤ x.dab.framesIn) || (x.dab.sync == .fine && 4 ≤ x.dab.framesIn))

/-- DAB_SYNC_TIMEOUT: the return to SEARCH is no clear. -/
def syncTimeoutRule (i : Fin 48) (s : State) : State :=
  if syncTimeoutDue s s.slots[i] then modDab s i toSearch else s

/-- DAB_SYNC_TIMEOUT. -/
def execDabSyncTimeout (i : Fin 48) (s : State) : Out := .next (syncTimeoutRule i s)

/-- How many CIFs after the last one received or passed a time lies: the nearest whole number of quarter periods. -/
def cifsAfter (d : DabRx) (at25 : Nat) : Nat := (at25 + d.period / 8 - d.cifAt) / (d.period / 4)

/-- The flywheel's count for the CIF that a frame begins with. -/
def flywheelFor (d : DabRx) (at25 : Nat) : Nat := (d.cif + cifsAfter d at25) % 5000

/-- Entry to TRACK with the frame of a count and a timestamp: the first since the clear starts the flywheel; a later one
compares the counts, and the received one holds from then on (R250, R269). What lies before that frame was not received. -/
def enterTrackDab (i : Fin 48) (cif ts : Nat) (s : State) : State :=
  let d := s.slots[i].dab
  let differs := d.tracked && flywheelFor d (25 * ts) != cif % 5000
  let s1 := if d.tracked then passCifs i (min 64 (cifsAfter d (25 * ts)) - 1) s else s
  modDab s1 i fun d => { d with
    sync := .track, framesIn := 0, prsFails := 0, tracked := true, trackedAllStroke := false, discDue := d.discDue || differs
    cif := (cif + 4999) % 5000, cifAt := 25 * ts - d.period / 4 }

/-- DAB_FINE_LOCK: a residual error below 50 Hz and a window that moved by at most 2 samples over a whole frame. -/
def execDabFineLock (i : Fin 48) (errorHz moved cif ts : Nat) (s : State) : Out :=
  if dabRuns s s.slots[i] && s.slots[i].dab.sync == .fine then
    if errorHz < 50 ∧ moved ≤ 2 then .next (enterTrackDab i cif ts s)
    else .next (modDab s i fun d => { d with framesIn := min 4 (d.framesIn + 1) })
  else .next s

/-- DAB_PRS_FAIL: 4 consecutive frames in TRACK have failed the PRS test. What was seen in consecutive frames begins anew
(R268, R269). -/
def prsFailRule (i : Fin 48) (s : State) : State :=
  let x := s.slots[i]
  if dabRuns s x && x.dab.sync == .track && 4 ≤ x.dab.prsFails then
    modDab s i fun d => { toSearch d with candidates := [], eidNew := none }
  else s

/-- DAB_PRS_FAIL. -/
def execDabPrsFail (i : Fin 48) (s : State) : Out := .next (prsFailRule i s)

/-! ### The FIC (R254 to R256) -/

/-- What the FIGs of one frame bring together: the state, and whether another EId and which differing organisations the frame
carried. -/
structure FicWork where
  s : State
  otherEid : Option Half
  cands : List SubCh
deriving DecidableEq, Repr

/-- FIG 0/0: the ensemble's identity, the announcement of a reconfiguration and the alarm flag (R255, R267, R269). -/
def figEnsemble (i : Fin 48) (ts : Nat) (eid : Half) (change : Bool) (occ : Nat) (alarm : Bool) (w : FicWork) : FicWork :=
  let s := w.s
  let d := s.slots[i].dab
  if d.eid.isSome && d.eid != some eid then { w with otherEid := some eid }
  else
    let key : DbKey := .ensemble eid s.slots[i].tune.freq
    let again := change && d.reconfAt == some occ
    let d1 := { d with
      eid := some eid, reconfAt := if change then some occ else none, nextFigs := if again then d.nextFigs else [] }
    let changes :=
      [ficChange s i ts key (.announce change occ) false,
       ficChange s i ts key (.flagBits 0x02 (if alarm then 0x02 else 0)) false,
       ficChange s i ts key (.slotOf (if s.slots[i].visit then 0xFF else i.val)) false]
      ++ if d.eid.isNone then rebuildChanges s i ts d1 else []
    { w with s := queueAll changes (modDab s i fun _ => d1) }

/-- One FIG 0/1 entry of the current configuration (R268): the first FIB that carries any is held at once; after that
an entry that differs, or that is new, waits for a second frame. -/
def figOrgCurrent (i : Fin 48) (ts : Nat) (known : Bool) (w : FicWork) (e : OrgEntry) : FicWork :=
  let d := w.s.slots[i].dab
  let u := subOf e ts
  let seen := { d with subchs := d.subchs.map fun o => if o.id = e.id then { o with lastSeen := ts } else o }
  if d.subchs.any fun o => o.id == e.id && sameOrg o u then { w with s := modDab w.s i fun _ => seen }
  else if known then { w with s := modDab w.s i fun _ => seen, cands := upsert (fun c => c.id == e.id) u w.cands }
  else { w with s := modDab w.s i (adoptSubchs ts [u] []) }

/-- The FIGs of the next configuration are held apart since the announcement (R255, R267). -/
def holdNext (i : Fin 48) (f : Fig) (s : State) : State :=
  modDab s i fun d =>
    if d.reconfAt.isNone ∨ d.nextFigs.contains f then d else { d with nextFigs := d.nextFigs ++ [f] }

/-- The alternative frequencies that FIG 0/21 gives for a service: those of the FM service with its identifier, and those of the
ensembles that carry it (R255; log entry 14). -/
def altsOf (d : DabRx) (sid : Word) : List SetEntry :=
  let eids := d.eid.toList ++ (d.others.filter fun e => e.1 == sid).flatMap (·.2)
  (d.freqInfos.filter fun f => if f.dab then eids.any fun e => e.toNat == f.id else BitVec.ofNat 32 f.id == sid).flatMap (·.entries)

/-- The AF sets of the services that the ensemble names, where there is an alternative. -/
def altChanges (s : State) (i : Fin 48) (ts : Nat) (d : DabRx) : List DbChange :=
  ((d.comps.map (·.sid)) ++ d.others.map (·.1)).eraseDups.filterMap fun sid =>
    let l := altsOf d sid
    if l.isEmpty then none else some (ficChange s i ts (.afSet true sid 0 2) (.entries l) false)

/-- An ensemble that only FIG 0/24 names: the database holds none of its EId that was received. -/
def onlyByReference (recs : List DbRec) (e : Half) : Bool :=
  !(recs.any fun r => match r.body with | .ensemble v => v.eid == e && v.freq != 0 | _ => false)

/-- FIG 0/24: a service and the other ensembles that carry it (R255, R295). -/
def otherChanges (s : State) (i : Fin 48) (ts : Nat) (e : Word × List Half) : List DbChange :=
  (e.2.filter fun x => s.slots[i].dab.eid != some x).flatMap fun x =>
    (if onlyByReference s.db.recs x then [ficChange s i ts (.ensemble x 0) .touch true] else [])
      ++ [ficChange s i ts (.service true e.1 0) (.otherEnsemble x) true]

/-- A raw FIG's record (R256, R293); those of a census visit go nowhere (DESIGN CHOICE, log entry 117). -/
def rawFig (i : Fin 48) (ts cif type ext : Nat) (data : List Byte) (s : State) : State :=
  if s.slots[i].visit then s
  else sideOut (s.side.stream.rawFig && slotSelected s i)
    ⟨0x0002, BitVec.ofNat 16 i.val, ts, u16 cif ++ u8 type ++ u8 ext ++ u8 data.length ++ zeros 3 ++ data⟩ s

/-- One FIG (R255, R256). -/
def takeFig (i : Fin 48) (ts cif : Nat) (known : Bool) (w : FicWork) (f : Fig) : FicWork :=
  let s := w.s
  let d := s.slots[i].dab
  let freq := s.slots[i].tune.freq
  let ch := fun (k : DbKey) (g : DbField) => ficChange s i ts k g false
  let add := fun (l : List DbChange) => { w with s := queueAll l s }
  match f with
  | .f00 e _ change occ alarm => figEnsemble i ts e change occ alarm w
  | .f01 next entries =>
    if next then { w with s := holdNext i f s }
    else
      let w1 := entries.foldl (figOrgCurrent i ts known) w
      let s1 := modDab w1.s i fun d => { d with subchKnown := true, relearn := false }
      { w1 with s := queueAll ((s1.slots[i].dab.subchs.filter fun u => entries.any fun e => e.id == u.id && sameOrg u (subOf e ts)).flatMap
          (orgChanges s i ts s1.slots[i].dab)) s1 }
  | .f02 next _ => { w with s := if next then holdNext i f s else takeMap i ts s f }
  | .f03 next _ => { w with s := if next then holdNext i f s else takeMap i ts s f }
  | .f08 next _ => { w with s := if next then holdNext i f s else takeMap i ts s f }
  | .f014 next _ => { w with s := if next then holdNext i f s else takeMap i ts s f }
  | .f06 sets =>
    add (sets.flatMap fun l =>
      let k : DbKey := .linkage l.lsn l.hard l.international
      ch k (.linkState l.active false) :: if l.entries.isEmpty then [] else [ch k (.entries l.entries)])
  | .f010 c => add (d.eid.toList.map fun e => ch (.ensemble e freq) (.clock c ts))
  | .f017 entries => add (entries.map fun e => ch (.service true e.1 0) (.pty e.2))
  | .f021 infos =>
    let d1 := { d with freqInfos := infos.foldl (fun l f => upsert (fun g => g.id == f.id && g.dab == f.dab) f l) d.freqInfos }
    { w with s := queueAll (altChanges s i ts d1) (modDab s i fun _ => d1) }
  | .f024 entries =>
    let d1 := { d with others := entries.foldl (fun l e => upsert (fun g => g.1 == e.1) e l) d.others }
    { w with s := queueAll (entries.flatMap (otherChanges s i ts)) (modDab s i fun _ => d1) }
  | .f10 eid cs m t => if d.eid.isNone || d.eid == some eid then add [ch (.ensemble eid freq) (.label cs m t)] else w
  | .f11 sid cs m t => add [ch (.service true sid 0) (.label cs m t)]
  | .f14 sid scids cs m t => add [ch (.component sid scids) (.label cs m t)]
  | .raw type ext data => { w with s := rawFig i ts cif type ext data s }

/-- The candidates after a frame: those it carried, with the consecutive frames that carried each (R268). -/
def nextCandidates (old : List (SubCh × Nat)) (seen : List SubCh) : List (SubCh × Nat) :=
  seen.map fun u =>
    match old.find? fun c => c.1.id == u.id && sameOrg c.1 u with
    | some c => (u, c.2 + 1)
    | none => (u, 1)

/-- One CIF of a frame: the reconfiguration that occurs at it, the FIGs of its three FIBs, and its capacity units (R254, R258,
R267). -/
def takeCif (i : Fin 48) (f : FrameRx) (base : Nat) (known : Bool) (w : FicWork) (k : Nat) : FicWork :=
  let count := (base + k) % 5000
  let ts := f.ts + k * cifTicks
  let figs := (fibsOf (f.fic.getD k [])).flatMap figsOf
  let w1 := figs.foldl (takeFig i ts count known) { w with s := beginCif i count ts w.s }
  let cif : CifRx := { CifRx.reset with count := count, ts := ts, soft := f.msc.getD k [] }
  { w1 with s := modDab w1.s i (enterCif cif (25 * ts + f.fraction)) }

/-- The CIFs of one frame and what its FIC as a whole has shown (R254 to R256, R268, R269). A frame without FIG 0/0 takes its
count from the flywheel. -/
def takeCifs (i : Fin 48) (f : FrameRx) (s : State) : State :=
  let d := s.slots[i].dab
  let base := (countOf ((f.fic.flatMap fibsOf).flatMap figsOf)).getD ((d.cif + 1) % 5000)
  let w := (List.range 4).foldl (takeCif i f base (d.subchKnown && !d.relearn)) { s := s, otherEid := none, cands := [] }
  modDab w.s i fun e => { e with
    candidates := nextCandidates d.candidates w.cands
    eidNew := match w.otherEid with
      | some n => (match d.eidNew with | some (o, k) => if o = n then some (n, k + 1) else some (n, 1) | none => some (n, 1))
      | none => none }

/-- The paths of a channel impulse response that lie within 20 dB of the strongest (R248, R270). -/
def strongPaths (cir : List CirPath) : List CirPath :=
  let top := cir.foldl (fun m p => max m p.level) (cir.headD ⟨0, 0⟩).level
  cir.filter fun p => top - 200 ≤ p.level

/-- The places of the first and the last of them. -/
def pathSpan (cir : List CirPath) : Option (Int × Int) :=
  match strongPaths cir with
  | [] => none
  | p :: rest => some (rest.foldl (fun m q => min m q.place) p.place, rest.foldl (fun m q => max m q.place) p.place)

/-- The FFT window after a frame (R248): 32 samples before the first path, moved by at most 8 samples a frame. -/
def nextWindow (held : Option Int) (cir : List CirPath) : Option Int :=
  match pathSpan cir, held with
  | none, w => w
  | some (a, _), none => some (a - 32)
  | some (a, _), some w => some (max (w - 8) (min (w + 8) (a - 32)))

/-- `cir_spread` in 0.1 µs: the delay from the first to the last path, a sample being 1/2.048 µs (R270). -/
def cirSpread (cir : List CirPath) : Nat :=
  match pathSpan cir with
  | some (a, b) => (roundDiv ((b - a) * 10000) 2048).toNat
  | none => 0

/-- `ber_pre` in 10⁻⁵ (R259, R270). -/
def berPre (errors compared : Nat) : Nat := if compared = 0 then 0 else (200000 * errors + compared) / (2 * compared)

/-- The gap between two frames counts as the frame period when it lies within 1 % of 96 ms (DESIGN CHOICE, log entry 116). -/
def periodOf (gap : Nat) : Option Nat := if 58392576 ≤ gap ∧ gap ≤ 59572224 then some gap else none

/-- The frequency estimate after a frame, held within ±30 kHz: the guard correlation of each symbol turns by one turn per
kHz, a carrier spacing, and the PRS gives one estimate more (R248). -/
def nextFrequency (f : FrameRx) (held : Option Int) : Int :=
  let errors := f.guards.map fun g => roundDiv (cArg g * 1000 * 256) (2 * unitOne)
  max (-30000) (min 30000 (held.getD 0 + Config.afcStep errors f.prsHz))

/-- The metrics and times of one frame received in TRACK (R248 to R250, R270). -/
def frameMetrics (f : FrameRx) (d : DabRx) : DabRx :=
  let at25 := 25 * f.ts + f.fraction
  let gap := d.frameAt.bind fun t => periodOf (at25 - t)
  { d with
    prsFails := if prsPasses f.prsPeak then 0 else d.prsFails + 1
    freqHz := some (nextFrequency f d.freqHz), window := nextWindow d.window f.cir
    period := gap.getD d.period, gaps := match gap with | some g => keepLast 64 (d.gaps ++ [g]) | none => d.gaps
    frameAt := some at25, lastFrameOk := true, frameEnd := f.ts + frameTicks
    snr := f.snr, berPre := berPre d.errors d.compared, errors := 0, compared := 0, cirSpread := cirSpread f.cir
    ficFail := ((f.fic.flatMap fibsOf).filter fun b => !fibStands b).length }

/-- What the flywheel has to pass before a frame: CIFs that lie between the last one and it. -/
def fillGap (i : Fin 48) (at25 : Nat) (s : State) : State := passCifs i (min 64 (cifsAfter s.slots[i].dab at25) - 1) s

/-- DAB_FRAME (R249, R254): a frame in TRACK has ended, 96 ms after its timestamp. What was due at the first CIF of this frame
takes effect first. -/
def execDabFrame (i : Fin 48) (f : FrameRx) (s : State) : Out :=
  if dabRuns s s.slots[i] && s.slots[i].dab.sync == .track && f.ts + frameTicks ≤ s.now then
    let s1 := fillGap i (25 * f.ts + f.fraction) s
    let s2 := unannouncedRule i f.ts (discontinuityRule i f.ts s1)
    .next (takeCifs i f (modDab s2 i (frameMetrics f)))
  else .next s

/-! ### Subchannel units (R253, R258 to R265) -/

/-- The generation whose organisation decoded a unit (R263). -/
def unitGeneration (now : Word) (d : DabRx) (ts : Nat) : Word :=
  match (d.orgGens.filter fun e => e.1 ≤ ts + cifTicks / 2).getLast? with
  | some (_, _, some g) => g
  | _ => now

/-- That generation is readable (R264). -/
def generationReadable (d : DabRx) (ts : Nat) : Bool :=
  match (d.orgGens.filter fun e => e.1 ≤ ts + cifTicks / 2).getLast? with
  | some (_, _, g) => g.isSome
  | none => true

/-- The fire code of a superframe that begins with logical frame `cif` (R261). Out of sync every alignment is searched,
and two passes in a row at one alignment declare sync; in sync three failures in a row at the alignment held lose it. -/
def superframeSync (fireOk : Bool) (cif : Nat) (u : SubCh) : SubCh :=
  let a := cif % 5
  if u.synced then
    if a ≠ u.align then u
    else if fireOk then { u with failRun := 0 }
    else if u.failRun + 1 < 3 then { u with failRun := u.failRun + 1 }
    else { u with failRun := 0, synced := false, runs := SubCh.reset.runs }
  else
    let n := if fireOk then u.runs.getD a 0 + 1 else 0
    if 2 ≤ n then { u with synced := true, align := a, failRun := 0, runs := SubCh.reset.runs }
    else { u with runs := u.runs.set a n }

/-- Codeword c of a superframe of s codewords: byte j of it stands at position j × s + c (ETSI TS 102 563). -/
def superframeWord (s : Nat) (bytes : List Nat) (c : Nat) : List Nat := (List.range 120).map fun j => bytes.getD (j * s + c) 0

/-- Reed–Solomon decoding of a superframe (R261), the bytes of bad logical frames marked as erasures: the codewords, those
outside the bound left as they are, the count of corrected bytes, and which codewords stayed uncorrected. -/
def superframeRs (s : Nat) (badFrames : List Nat) (bytes : List Nat) : List (List Nat) × Nat × List Nat :=
  let erased := badFrames.flatMap fun f => (List.range 24).map (24 * f + ·)
  let words := (List.range s).map fun c =>
    let w := superframeWord s bytes c
    (w, rsDecode gf256 10 erased w)
  (words.map fun e => match e.2 with | some (v, _) => v | none => e.1,
    (words.map fun e => match e.2 with | some (_, n) => n | none => 0).sum,
    (List.range s).filter fun c => match words[c]? with | some e => e.2.isNone | none => false)

/-- A superframe with its parity removed: byte k stands in codeword k mod s (R263). -/
def superframePayload (s : Nat) (words : List (List Nat)) : List Byte :=
  (List.range (110 * s)).map fun k => BitVec.ofNat 8 ((words.getD (k % s) []).getD (k / s) 0)

/-- Five logical frames decoded as a superframe: its payload, the bytes corrected and the codewords that were not. -/
def superframeOf (s : Nat) (frames : List MscFrame) : List Byte × Nat × List Nat :=
  let bad := (List.range frames.length).filter fun k => match frames[k]? with | some m => m.bad | none => false
  let (words, corrected, failed) := superframeRs s bad (frames.flatMap fun m => m.bytes.map (·.toNat))
  (superframePayload s words, corrected, failed)

/-- The length of a unit's payload (R263). -/
def unitLength (u : SubCh) : Nat := if u.kind = 1 then 110 * u.bitrate / 8 else u.bitrate * 3

/-- The CIFs of programme that one unit carries, as logical frames. -/
def unitFrames (u : SubCh) : Nat := if u.kind = 1 then 5 else 1

/-- No unit of the organisation follows one whose last logical frame has a timestamp: it ends first. -/
def noneFollows (u : SubCh) (ts : Nat) : Bool := u.endTs != 0 && u.endTs ≤ ts + unitFrames u * cifTicks + cifTicks / 2

/-- The header of a unit of logical frames (R263): bad when a bit came from an erased CIF or its de-interleaving reaches a
change of the organisation, a DAB+ unit when any AU is bad; last when its subchannel ends with it. -/
def unitHeader (i : Fin 48) (gen : Word) (u : SubCh) (frames : List MscFrame) (closing : Bool) (corrected aus : Nat) (auBad : Byte) :
    UnitHeader :=
  let first := frames.headD MscFrame.reset
  let lastTs := (frames.getLast?.getD MscFrame.reset).ts
  let bad := if u.kind = 1 then auBad != 0 else frames.any (·.bad)
  let last := closing || (u.removed && noneFollows u lastTs)
  { slot := i.val, subch := u.id, kind := u.kind
    flags := BitVec.ofNat 8 (bitAt bad 0 + bitAt (frames.any (·.erased)) 1 + bitAt u.first 2 + bitAt last 3)
    cifCount := first.count, length := unitLength u, timestamp := first.ts, generation := gen
    rsCorrected := if u.kind = 1 then corrected else 0
    auCount := if u.kind = 1 then aus else 0, auBad := if u.kind = 1 then auBad else 0, bitrate := u.bitrate }

/-- The 32 bytes of a unit header (R263). -/
def unitHeaderBytes (h : UnitHeader) : List Byte :=
  u8 h.slot ++ u8 h.subch ++ u8 h.kind ++ u8 h.flags.toNat ++ u16 h.cifCount ++ u16 h.length ++ u64 h.timestamp
    ++ u32 h.generation.toNat ++ u16 h.rsCorrected ++ u8 h.auCount ++ u8 h.auBad.toNat ++ u16 h.bitrate ++ zeros 6

/-- The bytes of a unit: its header and its payload (R263). -/
def dabUnitBytes (w : DabUnit) : List Byte := unitHeaderBytes w.header ++ fillBytes w.header.length 0 w.payload

/-- A unit from its bytes, as it crosses the link unchanged (R263, R264). -/
def dabUnitOf (m : List Byte) : DabUnit :=
  { header :=
      { slot := getU 1 0 m, subch := getU 1 1 m, kind := getU 1 2 m, flags := BitVec.ofNat 8 (getU 1 3 m), cifCount := getU 2 4 m
        length := getU 2 6 m, timestamp := getU 8 8 m, generation := BitVec.ofNat 32 (getU 4 16 m), rsCorrected := getU 2 20 m
        auCount := getU 1 22 m, auBad := BitVec.ofNat 8 (getU 1 23 m), bitrate := getU 2 24 m }
    payload := m.drop 32 }

/-- One subchannel replaced, in the organisation in force or in one that has ended. -/
def modSubch (d : DabRx) (u : SubCh) : DabRx :=
  let f := fun (o : SubCh) => if o.id = u.id ∧ o.beginTs = u.beginTs then u else o
  { d with subchs := d.subchs.map f, oldSubchs := d.oldSubchs.map f }

/-- A unit comes to stand in Hearth, where the last 2 s are held (log entry 127). -/
def holdUnit (w : DabUnit) (l : List DabUnit) : List DabUnit :=
  (l.filter fun o => w.header.timestamp < o.header.timestamp + 49152000) ++ [w]

/-- A unit is complete (R263, R264): the consumers find it in Hearth, and in the remote role it also goes to the slot's link
queue. -/
def putUnit (i : Fin 48) (u : SubCh) (w : DabUnit) (s : State) : State :=
  let s1 := modDab s i fun d =>
    { modSubch d { u with first := false } with
      unitsBad := if w.header.flags.getLsbD 0 then bump d.unitsBad 1 else d.unitsBad
      units := holdUnit w d.units }
  if isRemote s then
    let bytes := dabUnitBytes w
    enqueueAll s1 (0x30 + i.val) (framesOf (frameMax s (0x30 + i.val)) 2 i.val bytes.length bytes)
  else s1

/-- A logical frame out of its decoder, with the hard decisions that differ from the bits encoded again and those compared
(R259, R260). -/
def decodeReady (u : SubCh) (r : ReadyFrame) : MscFrame × Nat × Nat :=
  let (bits, errors, compared) := decodeFrame (profileBlocks u.protection u.bitrate) r.soft
  ({ count := r.count, ts := r.ts, bytes := bytesOfBits (disperse bits), bad := r.erased || r.crossed, erased := r.erased },
    errors, compared)

/-- Packet mode with an outer code has it applied (R262). -/
def framePayload (u : SubCh) (m : MscFrame) : List Byte := if u.kind = 2 ∧ u.fec then Config.outerCode m.bytes else m.bytes

/-- The unit of one logical frame of kind 0, 2 or 3. -/
def frameUnit (i : Fin 48) (gen : Word) (u : SubCh) (closing : Bool) (m : MscFrame) : DabUnit :=
  ⟨unitHeader i gen u [m] closing 0 0 0, fillBytes (unitLength u) 0 (framePayload u m)⟩

/-- The unit of a DAB+ superframe. -/
def superUnit (i : Fin 48) (gen : Word) (u : SubCh) (closing : Bool) (frames : List MscFrame) : DabUnit :=
  let (payload, corrected, failed) := superframeOf (u.bitrate / 8) frames
  ⟨unitHeader i gen u frames closing corrected (auCount payload) (auBadOf (u.bitrate / 8) failed payload), payload⟩

/-- A logical frame of a DAB+ subchannel (R261): with the four before it a superframe at its alignment is tried; a LIVE slot in
sync completes a unit. -/
def takeSuper (i : Fin 48) (gen : Word) (u : SubCh) (m : MscFrame) (s : State) : State :=
  let u1 := { u with frames := keepLast 5 (u.frames ++ [m]) }
  let start := (u1.frames.headD m).count
  if u1.frames.length < 5 ∨ (u.synced ∧ start % 5 ≠ u.align) then modDab s i fun d => modSubch d u1
  else
    let (payload, corrected, failed) := superframeOf (u.bitrate / 8) u1.frames
    let u2 := superframeSync (firePasses payload) start u1
    let counted := modDab s i fun d =>
      if u.synced || u2.synced then
        { modSubch d u2 with rsCorrected := bump d.rsCorrected corrected, rsFailed := bump d.rsFailed failed.length }
      else modSubch d u2
    if s.slots[i].state = .live ∧ u2.synced then putUnit i u2 (superUnit i gen u2 false u1.frames) counted else counted

/-- A logical frame of another subchannel: a LIVE slot completes a unit (R253, R260). -/
def takeLogical (i : Fin 48) (gen : Word) (u : SubCh) (m : MscFrame) (s : State) : State :=
  if s.slots[i].state = .live then putUnit i u (frameUnit i gen u false m) s else s

/-- The oldest logical frame of a subchannel that waits, and the organisation that decodes it. -/
def nextReady (d : DabRx) (id : Nat) : Option (ReadyFrame × Option SubCh) :=
  (d.ready.find? fun r => r.subch == id).map fun r =>
    (r, (d.oldSubchs ++ d.subchs).find? fun u => u.id == id && u.beginTs == r.beginTs)

/-- The oldest logical frame of a subchannel is decoded (R259 to R264), once the generation that its unit names is readable;
what no organisation is held for is dropped. -/
def completeReady (i : Fin 48) (id : Nat) (s : State) : State :=
  let d := s.slots[i].dab
  match nextReady d id with
  | none => s
  | some (r, org) =>
    let taken := modDab s i fun d => { d with ready := d.ready.erase r }
    match org with
    | none => taken
    | some u =>
      if !generationReadable d r.ts then s
      else
        let (m, errors, compared) := decodeReady u r
        let gen := unitGeneration s.db.generation d r.ts
        let s1 := modDab taken i fun d => { d with errors := d.errors + errors, compared := d.compared + compared }
        if u.kind = 1 then takeSuper i gen u m s1 else takeLogical i gen u m s1

/-- DAB_LOGICAL_FRAME_COMPLETE (R261 to R264). -/
def execDabLogicalFrameComplete (i : Fin 48) (subch : Nat) (s : State) : Out :=
  .next (if dabRuns s s.slots[i] then completeReady i subch s else s)

/-- Every logical frame that would be complete too late after this boundary is completed: 400 ms after its timestamp at the
latest (R264). -/
def completeDue (i : Fin 48) (s : State) : State :=
  if dabRuns s s.slots[i] then
    (s.slots[i].dab.ready.filter fun r => r.ts + 9830400 < s.now + 24576).foldl (fun s r => completeReady i r.subch s) s
  else s

/-- The logical frame that a subchannel would complete next, cut short: the CIFs still to come are erasures. -/
def cutFrame (d : DabRx) (u : SubCh) : Option ReadyFrame :=
  let at25 := d.cifAt + d.period / 4
  readyFrame (({ CifRx.reset with count := (d.cif + 1) % 5000, ts := at25 / 25, erased := true } :: d.area).take 16) u

/-- The last superframe of a subchannel, cut short: the logical frames that it lacks are erased. -/
def cutSuper (u : SubCh) (m : MscFrame) : List MscFrame :=
  let have_ := keepLast ((m.count + 5 - u.align) % 5 + 1) (u.frames ++ [m])
  have_ ++ List.replicate (5 - have_.length) { MscFrame.reset with bytes := zeros (3 * u.bitrate), ts := m.ts, bad := true, erased := true }

/-- The last unit of a subchannel (R253; log entry 127). -/
def closeSubch (i : Fin 48) (s : State) (u : SubCh) : State :=
  let d := s.slots[i].dab
  match cutFrame d u with
  | none => s
  | some r =>
    let (m, _, _) := decodeReady u r
    let gen := unitGeneration s.db.generation d r.ts
    let u1 := if u.kind = 1 then { u with frames := keepLast 5 (u.frames ++ [m]) } else u
    if u.kind = 1 then (if u.synced then putUnit i u1 (superUnit i gen u true (cutSuper u m)) s else s)
    else putUnit i u1 (frameUnit i gen u true m) s

/-- Entry to NO_SIGNAL ends the units of every subchannel: what waits is completed, and the last unit carries `last` (R253). -/
def endUnits (i : Fin 48) (s : State) : State :=
  let s1 := s.slots[i].dab.ready.foldl (fun s r => completeReady i r.subch s) s
  s1.slots[i].dab.subchs.foldl (closeSubch i) s1

/-! ### Life cycle (R251 to R253) -/

/-- The detect condition over the stroke just ended (R251). -/
def dabDetect (d : DabRx) : Bool := d.sync == .track && d.trackedAllStroke && d.lastFrameOk && d.ficFail ≤ 6

/-- The stroke of an ensemble slot that ends, before anything that its boundary changes (R239, R251, R270): its readings, the
detect runs, and the age of the last frame. -/
def closeDabStroke (s : State) (x : Slot) : Slot :=
  let met := dabDetect x.dab
  let r := dabReading x
  let boundary := (s.latch.stroke + 1) * 24576
  nextStroke { x with
    reading := { r with rssi := correctLevel s x.tune.input x.tune.freq r.rssi }
    metRun := if met then x.metRun + 1 else 0
    failRun := if met then 0 else x.failRun + 1
    dab := { x.dab with
      trackedAllStroke := x.dab.sync == .track
      lastFrameOk := x.dab.lastFrameOk && (x.dab.sync == .track || 25 * boundary < 25 * x.dab.frameEnd + x.dab.period) } }

/-- The rules stand aside for a hold or a converter FAULT (R217). -/
def dabRulesOpen (s : State) (x : Slot) : Bool :=
  x.tune.type == .dab && !holdArose s x && !converterFault s x && x.movedAt != s.now

/-- The acquisition rule is due (R252): the slot is ACQUIRING, no hold stands, and either 24 strokes met the detect
condition or 500 ms have passed since the hold cleared. -/
def dabAcquireDue (s : State) (x : Slot) : Bool :=
  x.tune.type == .dab && x.state == .acquiring && !holdStands s x && !converterFault s x && x.movedAt != s.now
    && (24 ≤ x.metRun || holdCleared s x + 12288000 ≤ s.now)

/-- DAB_ACQUISITION (R252). -/
def dabAcquisitionRule (i : Fin 48) (s : State) : State :=
  if dabAcquireDue s s.slots[i] then
    if 24 ≤ s.slots[i].metRun then setSlotStateAt s.now i .live reasonDetect s
    else setSlotStateAt s.now i .noSignal reasonLoss s
  else s

/-- DAB_LOSS (R252): 500 failed strokes. -/
def dabLossRule (i : Fin 48) (s : State) : State :=
  let x := s.slots[i]
  if x.state == .live && dabRulesOpen s x && 500 ≤ x.failRun then
    setSlotStateAt s.now i .noSignal reasonLoss (endUnits i s)
  else s

/-- DAB_RECOVERY (R252): 24 strokes that met the detect condition. -/
def dabRecoveryRule (i : Fin 48) (s : State) : State :=
  let x := s.slots[i]
  if x.state == .noSignal && dabRulesOpen s x && 24 ≤ x.metRun then setSlotStateAt s.now i .live reasonDetect s else s

/-- DAB_ACQUISITION. -/
def execDabAcquisition (i : Fin 48) (s : State) : Out := .next (slotRule dabAcquisitionRule i s)
/-- DAB_LOSS. -/
def execDabLoss (i : Fin 48) (s : State) : Out := .next (slotRule dabLossRule i s)
/-- DAB_RECOVERY. -/
def execDabRecovery (i : Fin 48) (s : State) : Out := .next (slotRule dabRecoveryRule i s)

/-- The generation that became readable with an organisation, noted at its boundary (R257, R263). -/
def noteGeneration (stroke : Nat) (g : Word) (d : DabRx) : DabRx :=
  { d with orgGens := d.orgGens.map fun e => if e.2.1 ≤ stroke ∧ e.2.2.isNone then (e.1, e.2.1, some g) else e }

end Sys2Proof.Machine
end

