-- ==== Sys2Proof/Machine/Sources.lean ====
section
/-! DEFINITION. The sources of the output chain (10_output_chain.md R341, R355, R368): the records of the store that a
cursor reads, the units of a component (R265), the AAC-LC frames that reach a local (R498, R500), the frames that an
output's decoder finds in them (R266), and what each source's rate and arrival offset are. -/

namespace Sys2Proof.Machine

/-! ### The record stream (R392, R397) -/

/-- A record that is a Billet. -/
def isBillet (r : StoredRec) : Bool := r.kind < 4

/-- The rec of a number; an unused one has its reset values. -/
def recOf (st : Store) (n : Nat) : Rec :=
  match st.recs.find? fun r => r.recNo == n with
  | some r => r
  | none => { Rec.reset with recNo := n }

/-- A record is reachable: it is not older than its rec's oldest (R397). -/
def reachable (st : Store) (r : StoredRec) : Bool := (r.seq - (recOf st r.recNo).oldest).toNat < 2147483648

/-- The reachable records of a rec, in the order of the stream; a relocated copy is no record beside its original. -/
def reachOf (st : Store) (n : Nat) : List StoredRec :=
  st.vol.stream.filter fun r => r.recNo == n && r.origin == 0 && reachable st r

/-- The span of a Billet in ticks (R392). -/
def billetTicks : Nat := 2949120

/-- The reachable Billet that covers a position. -/
def covering (st : Store) (n pos : Nat) : Option StoredRec :=
  (reachOf st n).find? fun r => isBillet r && decide (r.timestamp ≤ pos ∧ pos < r.timestamp + billetTicks)

/-! ### Components and their units (R265) -/

/-- The component of a slot's current configuration, with whether it is DAB+: from the ensemble receiver, or from
the mirrored database in the local role (R265, R298). -/
def slotComponent (s : State) (slot : Fin 48) (sid : Word) (scids : Byte) : Option (CompEntry × Bool) :=
  if isLocal s then
    s.db.recs.findSome? fun r =>
      match r.body with
      | .component c =>
        let here := match c.ensemble.bind (recAt s.db.recs) with
          | some e => (match e.body with | .ensemble v => v.freq == s.slots[slot].tune.freq | _ => false)
          | none => false
        if here && c.sid == sid && c.scids == scids.toNat && c.subch.isSome then
          some (⟨c.sid, some c.scids, c.subch, none, c.tmid, c.cty, c.flags.getLsbD 0, c.flags.getLsbD 1, c.packet⟩, c.flags.getLsbD 2)
        else none
      | _ => none
  else
    (s.slots[slot].dab.comps.find? fun c => c.sid == sid && c.scids == some scids.toNat).map fun c =>
      (c, s.slots[slot].dab.subchs.any fun u => c.subch == some u.id && u.kind == 1)

/-- The arrival offset of a live source in ticks (R355, R500); a component not known is taken as Layer II. -/
def arrivalTicks (s : State) (minLatency : Bool) (k : LegRef) : Nat :=
  match k.slot with
  | none => 98304
  | some i =>
    match s.slots[i].tune.type with
    | .dab => (match slotComponent s i k.sid k.scids with | some (_, true) => 15237120 | _ => 11108352)
    | .am => if isLocal s then 1769472 else if minLatency then 73728 else 98304
    | _ => if isLocal s then 1769472 else if minLatency then 36864 else 98304

/-- The subchannel that carries a component at a time (R265): after a reconfiguration the old one up to the first CIF of the
new configuration. In the local role it is the one that the database names (DESIGN CHOICE, log entry 128). -/
def subchAt (s : State) (i : Fin 48) (sid : Word) (scids : Byte) (ts : Nat) : Option Nat :=
  if isLocal s then (slotComponent s i sid scids).bind (·.1.subch)
  else
    let d := s.slots[i].dab
    ((settingsAt ts d.pastComps d.comps).find? fun c => c.sid == sid && c.scids == some scids.toNat).bind (·.subch)

/-- The units of a leg's component that stand in Hearth, in timestamp order (R264, R265). -/
def legUnits (s : State) (k : LegRef) : List DabUnit :=
  match k.slot with
  | none => []
  | some i => s.slots[i].dab.units.filter fun w => subchAt s i k.sid k.scids w.header.timestamp == some w.header.subch

/-! ### Frames (R266, R368) -/

/-- A frame as a decoder takes it: its timestamp, its samples and their rate, the decoder delay of R368, whether it is bad
(R266), and whether it stands for audio that is not valid. -/
structure SrcFrame where
  ts : Nat
  n : Nat
  rate : Nat
  delay : Nat
  bad : Bool
  silent : Bool
deriving DecidableEq, Repr

/-- `n` samples of a rate in ticks, to the nearest tick. -/
def samplesTicks (n rate : Nat) : Nat := (49152000 * n + rate) / (2 * rate)

/-- Where a frame ends. -/
def SrcFrame.finish (f : SrcFrame) : Nat := f.ts + samplesTicks f.n f.rate

/-- The decoder delay of a superframe's format in output samples (R368): AAC-LC, HE-AAC v1 or HE-AAC v2. -/
def superframeDelay (payload : List Byte) : Nat :=
  let h := getU 1 2 payload
  if h / 32 % 2 = 0 then 960 else if h / 8 % 2 = 0 then 2882 else 3266

/-- The AUs of a superframe (R261, R368). -/
def auFrames (w : DabUnit) : List SrcFrame :=
  let n := max 1 w.header.auCount
  let rate := superframeRate w.payload
  (List.range w.header.auCount).map fun i =>
    ⟨w.header.timestamp + i * (billetTicks / n), rate * 120 / 1000 / n, rate, superframeDelay w.payload, w.header.auBad.getLsbD i, false⟩

/-- The Layer II frame that begins with a logical frame (R266): at 24 kHz it takes two of them. `held` is the rate while no
header tells. -/
def layer2Frame (held : Nat) (l : List DabUnit) (w : DabUnit) : Option SrcFrame :=
  let sync := layer2Sync w.payload && !w.header.flags.getLsbD 0
  let rate := if sync then layer2Rate w.payload else held
  if rate = 24000 then
    (l.find? fun v => v.header.timestamp == w.header.timestamp + cifTicks).map fun v =>
      ⟨w.header.timestamp, 1152, 24000, 481, !sync || v.header.flags.getLsbD 0, false⟩
  else some ⟨w.header.timestamp, 1152, 48000, 481, !sync, false⟩

/-- The frames of a run of units. -/
def audioFrames (held : Nat) (l : List DabUnit) : List SrcFrame :=
  l.flatMap fun w =>
    if w.header.kind = 1 then auFrames w else if w.header.kind = 0 then (layer2Frame held l w).toList else []

/-- The ticks of one AAC-LC frame of 1,024 samples at 48 kHz. -/
def aacTicks : Nat := 524288

/-- An AAC-LC frame of an analogue service (R368, R499). -/
def aacFrame (ts : Nat) (valid : Bool) : SrcFrame := ⟨ts, 1024, 48000, 2048, false, !valid⟩

/-- The frames of a Billet of kind 0, each a u16 length and an access unit; their number bounds the fuel (R392). -/
def billetAus : Nat → List Byte → List (List Byte)
  | 0, _ => []
  | n + 1, l => ((l.drop 2).take (getU 2 0 l)) :: billetAus n (l.drop (2 + getU 2 0 l))

/-- The units of a DAB Billet as its payload holds them (R392). -/
def billetUnits (r : StoredRec) : List DabUnit :=
  let head : UnitHeader := { UnitHeader.reset with timestamp := r.timestamp, bitrate := r.bitrate }
  if r.kind = 2 then [⟨{ head with kind := 1, auCount := r.unitCount, auBad := r.unitBad }, r.payload⟩]
  else if r.kind = 1 then (List.range r.unitCount).map fun k =>
    ⟨{ head with timestamp := r.timestamp + k * cifTicks, flags := BitVec.ofNat 8 (bitAt (r.unitBad.getLsbD k) 0) },
      (r.payload.drop (k * (3 * r.bitrate))).take (3 * r.bitrate)⟩
  else []

/-- The frames of the stored Billets of a rec from a position on. AAC-LC frames lie on multiples of their own length (DESIGN
CHOICE, log entry 46). -/
def billetFrames (held : Nat) (l : List StoredRec) : List SrcFrame :=
  (l.flatMap fun r => if r.kind = 0 then
      (List.range (billetAus r.unitCount r.payload).length).map fun k => aacFrame ((ceilDiv r.timestamp aacTicks + k) * aacTicks) true
    else []) ++ audioFrames held (l.flatMap billetUnits)

/-- A path's source (R339): the cursor of an output, or a live leg. -/
structure PathSource where
  cursor : Bool
  leg : LegRef
deriving DecidableEq, Repr

/-- The Billets that a cursor has still to play. -/
def cursorBillets (s : State) (o : Fin 8) : List StoredRec :=
  let c := s.store.cursors[o]
  (reachOf s.store c.recNo).filter fun r => isBillet r && decide (c.position < r.timestamp + 2 * billetTicks ∧ r.timestamp < c.position + 2 * billetTicks)

/-- The frames that stand ready for a path's decoder, in timestamp order (R265, R341, R500). -/
def readyFrames (s : State) (o : Fin 8) (held : Nat) (k : PathSource) : List SrcFrame :=
  if k.cursor then billetFrames held (cursorBillets s o)
  else match k.leg.slot with
    | none => []
    | some i =>
      if s.slots[i].tune.type = .dab then audioFrames held (legUnits s k.leg)
      else s.slots[i].aac.map fun a => aacFrame a.ts (a.flags.getLsbD 0)

/-- A path takes slot audio as it is; every other source is decoded (R339, R341, R500). -/
def takesSlotAudio (s : State) (k : PathSource) : Bool :=
  !k.cursor && !isLocal s && (match k.leg.slot with | some i => s.slots[i].tune.type != .dab | none => true)

/-- The next frame of a decoder (R266): the first that begins no earlier than the last one ended; a decoder that has decoded
none begins with a good one. -/
def nextFrameOf (lastEnd : Option Nat) (l : List SrcFrame) : Option SrcFrame :=
  match lastEnd with
  | some e => l.find? fun f => decide (e ≤ f.ts)
  | none => l.find? fun f => !f.bad

/-! ### Rates and arrival offsets (R341, R355, R500) -/

/-- The rate that the newest of some units announces. -/
def unitsRate (l : List DabUnit) : Option Nat :=
  l.reverse.findSome? fun w =>
    if w.header.kind = 1 then some (superframeRate w.payload)
    else if w.header.kind = 0 && layer2Sync w.payload && !w.header.flags.getLsbD 0 then some (layer2Rate w.payload) else none

/-- The rate at the decoder output of a path's source (R341); 48 kHz where no frame of it has told. -/
def sourceRate (s : State) (o : Fin 8) (k : PathSource) : Nat :=
  if k.cursor then
    match covering s.store s.store.cursors[o].recNo s.store.cursors[o].position with
    | some r => (unitsRate (billetUnits r)).getD 48000
    | none => 48000
  else match k.leg.slot with
    | some i => if s.slots[i].tune.type = .dab then (unitsRate (legUnits s k.leg)).getD 48000 else 48000
    | none => 48000

end Sys2Proof.Machine
end

