-- ==== Sys2Proof/Machine/Outputs.lean ====
section
/-! DEFINITION. Programme outputs and TDM ports (10_output_chain.md, R339 to R376): the output ROM responses, the
banks and their swaps, start, stop and restart, the port states, what a frame at the pins says of its content, and the
status records. The audio itself passes through Audio.lean. -/

namespace Sys2Proof.Machine

/-! ### Rates, sources and arrival offsets (R341, R343, R355, R500) -/

/-- Frame rate of a code of R343. -/
def rateHz : Nat → Nat
  | 0 => 44100 | 1 => 48000 | _ => 96000

/-- The rate of the port of an output. -/
def outRate (s : State) (o : Fin 8) : Nat := rateHz s.ports[s.outs[o].cfg.port].cfg.rate

/-- An output follows (R315). -/
def follows (s : State) (o : Fin 8) : Bool := s.follow[o].state != .off

/-- The leg of a follower that is heard is B. -/
def heardB (s : State) (o : Fin 8) : Bool := follows s o && s.follow[o].activeB

/-- The buffers of an output replaced by a function of them. -/
def modAudio (s : State) (o : Fin 8) (f : AudioPath → AudioPath) : State := { s with audio := vmod s.audio o f }

/-- The path of a leg of an output; `true` is B. -/
def legPath (s : State) (o : Fin 8) (b : Bool) : LegPath := if b then s.audio[o].legB else s.audio[o].legA
/-- One leg's path replaced by a function of it. -/
def modLeg (s : State) (o : Fin 8) (b : Bool) (f : LegPath → LegPath) : State :=
  modAudio s o fun p => if b then { p with legB := f p.legB } else { p with legA := f p.legA }

/-- The rate at which a leg's path of an output takes its source, and that of the heard leg (R341). -/
def legRate (s : State) (o : Fin 8) (b : Bool) : Nat := (legPath s o b).rate
def heardRate (s : State) (o : Fin 8) : Nat := legRate s o (heardB s o)

/-- The source of a leg of an output: a leg of its follower, or its one source as leg A (R315, R339, R350). -/
def legSource (s : State) (o : Fin 8) (b : Bool) : PathSource :=
  if follows s o then ⟨false, if b then s.follow[o].legB else s.follow[o].legA⟩
  else if s.outs[o].cfg.cursor then ⟨true, LegRef.none⟩ else ⟨false, heardLeg s o⟩

/-- The source of the heard leg. -/
def heardSource (s : State) (o : Fin 8) : PathSource := legSource s o (heardB s o)

/-- A leg takes its source at a rate (R341). -/
def setLegRate (o : Fin 8) (b : Bool) (rate : Nat) (s : State) : State := modLeg s o b fun p => { p with rate := rate }

/-- A delay of a follower in ticks, in multiples of 32 (Alignment delays, 09_programme_following.md). -/
def delayTicks (d : Nat) : Nat := d / 1000000 / 32 * 32

/-- The alignment delay of the heard leg in ticks. -/
def heardDelay (s : State) (o : Fin 8) : Nat :=
  if follows s o then delayTicks (if s.follow[o].activeB then s.follow[o].delayB else s.follow[o].delayA) else 0

/-- The arrival offset of a source of an output: its cursor's, or a live source's (R355). -/
def arrivalOf (s : State) (o : Fin 8) (k : PathSource) : Nat :=
  if k.cursor then s.store.cursors[o].arrival else arrivalTicks s s.outs[o].cfg.minLatency k.leg

/-- The arrival offset of the source that an output hears. -/
def sourceArrival (s : State) (o : Fin 8) : Nat := arrivalOf s o (heardSource s o)

/-- Arrival offset plus alignment delay of the heard path. -/
def pathLatency (s : State) (o : Fin 8) : Nat := sourceArrival s o + heardDelay s o

/-! ### Output ROM responses (R360 to R362) -/

/-- A response of R360: its stage, whether it serves the minimum mode (none: either), group delay, taps and settle. -/
structure Response where
  stage : Nat
  minimum : Option Bool
  delay : Nat
  taps : Nat
  settle : Nat
deriving DecidableEq, Repr

/-- The table of R360. -/
def responseOf : Nat → Option Response
  | 0 => some ⟨0, some false, 63, 127, 64⟩ | 1 => some ⟨0, some true, 18, 95, 48⟩
  | 2 => some ⟨0, some false, 47, 95, 48⟩ | 3 => some ⟨0, some true, 14, 71, 36⟩
  | 4 => some ⟨1, some false, 16, 32, 32⟩ | 5 => some ⟨1, some false, 16, 32, 32⟩
  | 6 => some ⟨1, some false, 16, 32, 32⟩ | 7 => some ⟨1, some true, 4, 32, 32⟩
  | 8 => some ⟨1, some true, 4, 32, 32⟩ | 9 => some ⟨1, some true, 4, 32, 32⟩
  | 10 => some ⟨2, some false, 8, 16, 16⟩ | 11 => some ⟨2, some true, 2, 4, 4⟩
  | 12 => some ⟨3, none, 0, 0, 2048⟩ | 13 => some ⟨3, none, 0, 0, 2048⟩ | 14 => some ⟨3, none, 0, 0, 4096⟩
  | 15 => some ⟨3, none, 0, 0, 2560⟩ | 16 => some ⟨3, none, 0, 0, 2560⟩ | 17 => some ⟨3, none, 0, 0, 5120⟩
  | 18 => some ⟨4, none, 0, 12, 12⟩ | 19 => some ⟨4, none, 0, 12, 12⟩
  | 20 => some ⟨1, some false, 16, 32, 32⟩ | 21 => some ⟨1, some true, 4, 32, 32⟩
  | _ => none

/-- The rate into RSM (R341). -/
def rsmInput (src : Nat) : Nat := if src = 32000 then 64000 else 48000

/-- The rates column of R360 for a response, by the source rate and the output rate. -/
def ratesSuit (fr src out : Nat) : Bool :=
  if fr = 0 ∨ fr = 1 then src == 32000
  else if fr = 2 ∨ fr = 3 then src == 24000
  else if fr = 5 ∨ fr = 8 then rsmInput src == 48000 && out == 44100
  else if fr = 6 ∨ fr = 9 then rsmInput src == 64000
  else if fr = 4 ∨ fr = 7 ∨ fr = 20 ∨ fr = 21 then rsmInput src == 48000 && out != 44100
  else if fr = 12 ∨ fr = 15 then out == 44100
  else if fr = 13 ∨ fr = 16 then out == 48000
  else if fr = 14 ∨ fr = 17 ∨ fr = 19 then out == 96000
  else if fr = 18 then out != 96000
  else true

/-- A response suits a stage, the rates and the latency mode (R362, R363); 0xFF is flat weighting, and the bypass of
PRE. -/
def suits (fr : Byte) (stage src out : Nat) (minLatency : Bool) : Bool :=
  if fr = 0xFF then stage == 3 || (stage == 0 && src == 48000)
  else match responseOf fr.toNat with
    | some r => r.stage == stage && r.minimum.all (· == minLatency) && ratesSuit fr.toNat src out
    | none => false

/-- The stage of a bank: PRE A, RSM A, PRE B, RSM B, FINE, DETW, TP. -/
def stageOfBank (k : Fin 7) : Nat := [0, 1, 0, 1, 2, 3, 4].getD k.val 0

/-- The bank of a stage and leg (R363). -/
def bankOf (stage : Nat) (legB : Bool) : Fin 7 :=
  match stage with
  | 0 => if legB then 2 else 0
  | 1 => if legB then 3 else 1
  | 2 => 4
  | 3 => 5
  | _ => 6

/-- The default response of a stage (R362). -/
def defaultFr (stage src out : Nat) (minLatency : Bool) : Byte :=
  let m := if minLatency then 1 else 0
  match stage with
  | 0 => if src = 32000 then BitVec.ofNat 8 m else if src = 24000 then BitVec.ofNat 8 (2 + m) else 0xFF
  | 1 => BitVec.ofNat 8 ((if rsmInput src = 64000 then 6 else if out = 44100 then 5 else 4) + 3 * m)
  | 2 => BitVec.ofNat 8 (10 + m)
  | 3 => 0xFF
  | _ => if out = 96000 then 19 else 18

/-- The delay and taps of an active response (R363). -/
def frShape (fr : Byte) : Nat × Nat :=
  match responseOf fr.toNat with
  | some r => (r.delay, r.taps)
  | none => (0, 0)

/-- The settle of an active response in its input samples (R360). -/
def frSettle (fr : Byte) : Nat :=
  match responseOf fr.toNat with
  | some r => r.settle
  | none => 0

/-- Minimum-phase responses of the audio path (R370). -/
def isMinPhase (fr : Byte) : Bool := [1, 3, 7, 8, 9, 21].contains fr.toNat

/-- How a restart treats the banks: every default, only those that do not suit the new rates, or none (R362, R363). -/
inductive BankLoad where
  | defaults | unsuited | keep
deriving DecidableEq, Repr

/-- The banks of an output's path with the rates of its legs (R362). Leg B's banks are empty unless the output follows. -/
def loadBanks (how : BankLoad) (two : Bool) (rateA rateB out : Nat) (x : Output) : Output :=
  let lat := x.cfg.minLatency
  let src := fun (k : Fin 7) => if k = 2 ∨ k = 3 then rateB else rateA
  let act := fun (k : Fin 7) =>
    if (k = 2 ∨ k = 3) ∧ !two then (0xFE : Byte)
    else if how = .defaults ∨ (how = .unsuited ∧ !suits x.active[k] (stageOfBank k) (src k) out lat) ∨ x.active[k] = 0xFE then
      defaultFr (stageOfBank k) (src k) out lat
    else x.active[k]
  let shad := fun (k : Fin 7) =>
    if how = .keep ∨ suits x.shadow[k] (stageOfBank k) (src k) out lat then x.shadow[k] else (0xFE : Byte)
  { x with active := Vector.ofFn act, shadow := Vector.ofFn shad }

/-! ### What a frame at the pins carries (R346, R353, R356, R365, R369, R370) -/

/-- The active FINE response. -/
def fineFr (x : Output) : Byte := if x.active[(4 : Fin 7)] = 0xFE then (if x.cfg.minLatency then 11 else 10) else x.active[(4 : Fin 7)]

/-- From the crossfade stage to the pins: FINE's group delay, a fine delay in ticks, and the 16 frames of AUDQ (R356). -/
def pinTail (s : State) (o : Fin 8) (d : Nat) : Nat :=
  samplesTicks ((frShape (fineFr s.outs[o])).1 + 16) (outRate s o) + d

/-- The pin latency of an output for fine delay zero (R356). -/
def pinLatency (s : State) (o : Fin 8) : Nat := pathLatency s o + pinTail s o 0

/-- The cursor of an output gives audio (R414, R417): mounted, playing, and not in a gap. -/
def cursorPlays (s : State) (o : Fin 8) : Bool :=
  s.store.state == .mounted && s.store.cursors[o].set && s.store.cursors[o].run && !s.store.cursors[o].gap

/-- The frame of an output that its status refers to at a boundary (R375): the first of its port whose start at the ball is at
or after it. -/
def statusFrame (s : State) (o : Fin 8) (stroke : Nat) : FrameInfo :=
  let x := s.ports[s.outs[o].cfg.port]
  if x.state ≠ .run then FrameInfo.reset
  else if x.sentAt.any (stroke * 24576 ≤ ·) then x.sent[o]
  else if x.refill then FrameInfo.reset
  else match x.audq with
    | f :: _ => f.info[o]
    | [] => FrameInfo.reset

/-! ### States (R349, R352, R353) -/

def modOut (s : State) (o : Fin 8) (f : Output → Output) : State := { s with outs := vmod s.outs o f }
def modPort (s : State) (p : Fin 2) (f : Port → Port) : State := { s with ports := vmod s.ports p f }

/-- Codes of R352. -/
def outCode : OutState → Nat
  | .stopped => 0 | .settling => 1 | .running => 2 | .clockHold => 3
/-- Codes of R349. -/
def portCode : PortState → Nat
  | .off => 0 | .starting => 1 | .run => 2 | .clockError => 3

/-- Causes of `EV_OUTPUT_STATE` (R566). -/
def outByCommand : Nat := 1
def outSettledCause : Nat := 2
def outByRestart : Nat := 3
def outByPort : Nat := 4

/-- An output changes state, with its event (R376, R566). -/
def setOutState (o : Fin 8) (new : OutState) (cause : Nat) (s : State) : State :=
  let old := s.outs[o].state
  if old = new then s
  else
    let s1 := noteState s.now 4 o.val (outCode old) (outCode new) (modOut s o fun x => { x with state := new })
    let f := statusFrame s1 o (stampOf s1 / 24576)
    queueEvent s1 evOutputState o.val
      (u8 (outCode old) ++ u8 (outCode new) ++ u8 cause ++ zeros 1 ++ u32 (pinLatency s1 o)
        ++ u64 (if f.tsValid then f.stamp else 0))

/-- A delay in millionths of a tick at an output rate (R359): whole samples in the delay unit, and the remainder by which they
exceed it, which is added to the RSM input position (DEDUCED, log entry 130). -/
def delaySplit (rate delay : Nat) : Nat × Nat :=
  let n := ceilDiv (delay * rate) 24576000000000
  (n, n * 24576000000000 / rate - delay)

/-- The trim of a leg in 0.01 dB (R325, R339). -/
def legTrim (s : State) (o : Fin 8) (b : Bool) : Int :=
  if follows s o then roundDiv (if b then s.follow[o].trimB else s.follow[o].trimA) 600 else 0

/-- The banks of a leg: PRE and RSM (R363). -/
def legBanks (x : Output) (b : Bool) : Byte × Byte :=
  if b then (x.active[(2 : Fin 7)], x.active[(3 : Fin 7)]) else (x.active[(0 : Fin 7)], x.active[(1 : Fin 7)])

/-- Step 1 of R353: the path in force fades out on the samples stamped at or after c_old. -/
def fadeOldPath (s : State) (o : Fin 8) : OldPath :=
  let lat := pathLatency s o
  let c := strokeFrom (s.now + 49152 - lat) * 24576
  let k := heardSource s o
  let (pre, rsm) := legBanks s.outs[o] (heardB s o)
  { leg := k.leg, cursor := k.cursor, port := s.outs[o].cfg.port, arrival := sourceArrival s o, latency := lat, fadeFrom := c
    finish := c + 245760 + lat, pre := pre, rsm := rsm, fine := fineFr s.outs[o], delay := heardDelay s o
    trim := legTrim s o (heardB s o) }

/-- The stamp of the first input of a source's path that begins at the present stroke, in 1/25 tick (R353): the cursor's
position, or c_new. -/
def firstInput (s : State) (o : Fin 8) (k : PathSource) : Int :=
  if k.cursor then 25 * s.store.cursors[o].position
  else 25 * ((strokeFrom (s.now + 49152 - arrivalOf s o k) * 24576 : Nat) : Int)

/-- The stages of a leg, reset (R353, R365); the histories of the lag measurement run on (R321), and so does the time since a
concealment (R326). -/
def resetLeg (rate : Nat) (from_ : Int) (p : LegPath) : LegPath :=
  { LegPath.reset with
    rate := rate, takeFrom := from_, mono := p.mono, history := p.history, lagAt := p.lagAt, concealAt := p.concealAt }

/-- A leg of an output begins anew at the present stroke, at the rate that it has. -/
def beginLeg (o : Fin 8) (b : Bool) (s : State) : State :=
  modLeg s o b fun p => resetLeg p.rate (firstInput s o (legSource s o b)) p

/-- An output in RUNNING whose path is not stopping: a restart or a stop fades it out (R352, R353). -/
def pathFades (x : Output) : Bool := x.state == .running && x.stopAt.isNone

/-- The path of a state before a change goes on to its fade-out (R353); on a change of port it keeps its fine delay line there. -/
def keepOldPath (o : Fin 8) (before s : State) : State :=
  if pathFades before.outs[o] then
    modAudio (modOut s o fun x => { x with oldPath := some (fadeOldPath before o) }) o fun p =>
      { p with old := legPath before o (heardB before o), fineOld := [] }
  else s

/-- A change of port begins with an empty fine delay line on the new one (R365). -/
def turnFine (o : Fin 8) (before s : State) : State :=
  if before.outs[o].cfg.port = s.outs[o].cfg.port then s
  else modAudio s o fun p => { p with fine := [], fineOld := before.audio[o].fine }

/-- A restart (R353) with the banks it loads: the path of the state before fades, the new path's stages are reset and take
their first input at c_new. On a port in CLOCK_ERROR the output waits for its return (R352). -/
def restartOut (o : Fin 8) (cause : Nat) (how : BankLoad) (before s : State) : State :=
  let b := heardB s o
  let k := heardSource s o
  let fresh := before.outs[o].state = .stopped ∨ k.cursor ∨ k ≠ heardSource before o
  let s0 := turnFine o before (keepOldPath o before (if fresh then modLeg (resetPad o s) o b fun p => { p with concealAt := none } else s))
  let s1 := if how = .defaults then setLegRate o b (sourceRate s o (heardSource s o)) s0 else s0
  let s2 := beginLeg o true (beginLeg o false s1)
  let s3 := modOut s2 o fun x =>
    loadBanks how (follows s o) (legRate s2 o false) (legRate s2 o true) (outRate s o) { x with stopAt := none, firstValid := none }
  if s.ports[s.outs[o].cfg.port].state = .clockError then
    setOutState o .clockHold outByPort (modOut s3 o fun x => { x with oldPath := none })
  else setOutState o .settling cause s3

/-- A stop (R352): from RUNNING after the fade-out of the path in force, from SETTLING and CLOCK_HOLD at once. -/
def stopOut (o : Fin 8) (before s : State) : State :=
  let x := s.outs[o]
  if pathFades x then
    let s1 := keepOldPath o before s
    modOut (beginLeg o true (beginLeg o false s1)) o fun x =>
      { x with firstValid := none, stopAt := x.oldPath.map fun p => strokeFrom p.finish }
  else if x.state = .settling ∨ x.state = .clockHold then
    setOutState o .stopped outByCommand (modOut s o fun x => { x with firstValid := none, oldPath := none })
  else s

/-- The first valid sample of the new path has left the crossfade stage (R352). -/
def outSettledDue (s : State) (o : Fin 8) : Bool :=
  s.outs[o].state == .settling && s.outs[o].firstValid.any (· < s.now)
/-- SETTLING to RUNNING at the next stroke boundary (R352). -/
def outSettledRule (o : Fin 8) (s : State) : State :=
  if outSettledDue s o then
    setOutState o .running outSettledCause s
  else s

/-- The fade-out of a stop has ended (R352). -/
def outFadeDue (s : State) (o : Fin 8) : Bool := s.outs[o].stopAt.any (· ≤ curStroke s)
/-- RUNNING to STOPPED after the fade-out (R352). -/
def outFadeRule (o : Fin 8) (s : State) : State :=
  if outFadeDue s o then
    setOutState o .stopped outByCommand (modOut s o fun x => { x with stopAt := none, oldPath := none })
  else s

/-! ### Swaps (R363, R364) -/

/-- The banks that a swap names. -/
def swapBanks (stages : BitVec 5) (legs : BitVec 2) : List (Fin 7) :=
  (List.finRange 7).filter fun k =>
    stages.getLsbD (stageOfBank k) && (3 < k.val || legs.getLsbD (if k = 2 ∨ k = 3 then 1 else 0))

/-- A follower fade or dip runs on a stroke (R331, R364). -/
def followBusy (s : State) (o : Fin 8) (stroke : Nat) : Bool :=
  match s.follow[o].fade with
  | some f => f.decided + 1 ≤ stroke && stroke < f.leave
  | none => false

/-- A restart's fade runs (R353, R364): that of the old path, or the rise of the new one. -/
def restartBusy (s : State) (o : Fin 8) : Bool :=
  s.outs[o].oldPath.any (s.now < ·.finish) || s.outs[o].firstValid.any (s.now < · + 245760)

/-- What a swap does to a leg's path (R363): with the group delay and taps kept the new response acts from the first sample
stamped at or after the swap; otherwise the standby leg's stages from the swapped one on are reset (R365). -/
def swapLeg (o : Fin 8) (b : Bool) (was : Output) (s : State) : State :=
  let x := s.outs[o]
  let (pre, rsm) := legBanks was b
  let (pre1, rsm1) := legBanks x b
  if pre = pre1 ∧ rsm = rsm1 then s
  else if frShape pre ≠ frShape pre1 then beginLeg o b s
  else if frShape rsm ≠ frShape rsm1 then modLeg s o b fun p => match p.position with
    | some e => { p with unit := [], rsmFrom := e / unitOne + 1, validFrom := e / unitOne + 1 + frSettle rsm1 }
    | none => p
  else modLeg s o b fun p => { p with pastBanks := (s.now, pre, rsm) :: p.pastBanks }

/-- The swap takes place (R363): the banks exchange, the detectors are reset by DETW and TP, and a change of group
delay or taps on the heard path is a restart to the same source. A bank emptied since the swap was held is passed by. -/
def swapNow (o : Fin 8) (stages : BitVec 5) (legs : BitVec 2) (s : State) : State :=
  let x := s.outs[o]
  let named := (swapBanks stages legs).filter fun k => x.shadow[k] != 0xFE
  let x1 := { x with
    active := Vector.ofFn fun (k : Fin 7) => if named.contains k then x.shadow[k] else x.active[k]
    shadow := Vector.ofFn fun (k : Fin 7) => if named.contains k then x.active[k] else x.shadow[k] }
  let det := (named.filter fun k => 4 < k.val).map fun k => s.now + samplesTicks (frSettle x1.active[k]) (outRate s o)
  let heard := fun (k : Fin 7) => k = 4 ∨ (if heardB s o then k = 2 ∨ k = 3 else k = 0 ∨ k = 1)
  let restart := named.any fun k => decide (heard k) && frShape x.active[k] != frShape x1.active[k]
  let x2 := if det.isEmpty then x1 else
    { x1 with detReset := det.foldl max x1.detReset, readings := DetReadings.reset }
  let s0 := if det.isEmpty then s else modAudio s o fun p => { p with points := Vector.replicate 3 DetPoint.reset }
  let s1 := modOut s0 o fun _ => x2
  if restart ∧ (x.state = .settling ∨ x.state = .running) ∧ x.stopAt = none then restartOut o outByRestart .keep s s1
  else swapLeg o true x (swapLeg o false x s1)

/-- A held swap is free to apply (R364). -/
def heldSwapDue (s : State) (o : Fin 8) : Bool :=
  s.outs[o].heldSwap.isSome && !followBusy s o (curStroke s) && !restartBusy s o
/-- A held swap applies on the first stroke after the fade ends (R364). -/
def heldSwapRule (o : Fin 8) (s : State) : State :=
  if heldSwapDue s o then
    match s.outs[o].heldSwap with
    | some (st, lg) => swapNow o st lg (modOut s o fun x => { x with heldSwap := none })
    | none => s
  else s

/-! ### Ports (R343 to R349) -/

/-- A port changes state, with its event and what follows for its outputs (R349, R352). -/
def setPortState (p : Fin 2) (new : PortState) (cause : Nat) (s : State) : State :=
  let old := s.ports[p].state
  if old = new then s
  else
    let s1 := modPort (noteState s.now 5 p.val (portCode old) (portCode new) s) p fun x =>
      { x with state := new, since := s.now, badRun := 0, goodFrom := none, frames := 0, audq := [], servo := 0, refill := true, words := []
               before := [], sentAt := none, edges := if new = .run then x.edges else [] }
    let s2 := queueEvent s1 evPortState (0x100 + p.val)
      (u8 (portCode old) ++ u8 (portCode new) ++ u8 cause ++ zeros 1 ++ s32 s1.ports[p].eps ++ u32 s1.ports[p].badFrames.toNat)
    (List.finRange 8).foldl (fun (s : State) (o : Fin 8) =>
      let x := s.outs[o]
      if x.cfg.port ≠ p then s
      else if new = .clockError ∧ (x.state = .settling ∨ x.state = .running) then
        let s3 := modOut s o fun x =>
          { x with firstValid := none, oldPath := none, stopAt := none }
        setOutState o (if x.stopAt.isSome then .stopped else .clockHold) outByPort s3
      else if new = .run ∧ x.state = .clockHold then restartOut o outByPort .defaults s s
      else s) s2

/-- Parses `PORT_SET` (R343, R344). -/
def parsePortSet (p : List Byte) : Option (Fin 2 × PortCfg) :=
  match finOf 2 (getU 1 0 p) with
  | none => none
  | some i =>
    let g := fun k => getU 1 k p
    if p.length = 12 ∧ g 1 ≤ 1 ∧ g 2 ≤ 1 ∧ g 3 ≤ 2 ∧ g 4 ≤ 2 ∧ [2, 4, 8, 16].contains (g 5) ∧ (g 4 = 0 ∨ g 5 = 2)
        ∧ g 6 ≤ 1 ∧ g 7 ≤ 1 ∧ g 8 ≤ 1 ∧ g 9 ≤ 1 ∧ g 10 ≤ 1 ∧ g 11 ≤ 1 ∧ g 5 * 32 * rateHz (g 3) ≤ 24576000 then
      some (i, ⟨g 1 == 1, g 2 == 1, g 3, g 4, g 5, g 6 == 1, g 7 == 1, g 8 == 1, g 9 == 1, g 10 == 1, g 11 == 1⟩)
    else none

/-- The refusal of `PORT_SET` (R344): a field of a port that a running output uses changes, and the output runs on. -/
def judgePort (p : Fin 2) (before after : State) : Option Status :=
  if before.ports[p].cfg != after.ports[p].cfg
      && (List.finRange 8).any fun o => before.outs[o].cfg.run && before.outs[o].cfg.port == p && after.outs[o].cfg.run
  then some .badState else none

/-- `PORT_SET` applies (R347, R349): frames at 44.1 kHz count from the apply stroke. One that changes no field leaves the port as
it is. -/
def applyPortSet (p : Fin 2) (c : PortCfg) (s : State) : State :=
  let was := s.ports[p].cfg
  let s1 := modPort s p fun x => { x with cfg := c, nextAt := s.now * 441, edges := [] }
  if c = was then s
  else if !c.enable then setPortState p .off 1 (modPort s1 p fun x => { x with eps := 0 })
  else
    let s2 := if was.enable then s1 else setPortState p .starting 1 s1
    if c.target then s2 else setPortState p .run 1 (modPort s2 p fun x => { x with eps := 0 })

/-- Ticks of four frame periods of a port, rounded up. -/
def fourFrames (s : State) (p : Fin 2) : Nat := ceilDiv 98304000 (rateHz s.ports[p].cfg.rate)

/-- The rate error of a target-mode port in 0.001 ppm (R348): frames against device time, over the edges of the last 1.024 s;
fast above zero, and zero until they span 10 ms (DESIGN CHOICE, log entry 131). -/
def portEps (rate : Nat) (edges : List Nat) : Int :=
  match edges with
  | [] => 0
  | t :: rest =>
    let l := rest.filter fun e => decide (t ≤ e + 25165824)
    match l.getLast? with
    | none => 0
    | some e =>
      let real := (t - e) * rate
      if t - e < 245760 then 0 else roundDiv (((l.length * 24576000 : Nat) : Int) * 1000000000 - (real : Int) * 1000000000) real

/-- An active FSYNC edge at the present time, and the rate error that it brings (R348). -/
def takeEdge (now : Nat) (x : Port) : Port :=
  let l := now :: x.edges.filter fun e => decide (now ≤ e + 25165824)
  { x with edges := l, lastFsync := now, eps := portEps (rateHz x.cfg.rate) l }

/-- 100 ms in STARTING have passed (R349). -/
def targetLockDue (s : State) (p : Fin 2) : Bool :=
  s.ports[p].state == .starting && s.ports[p].cfg.target && s.ports[p].since + 2457600 ≤ s.now

/-- The rate error lies beyond 500 ppm (R349). -/
def rateBad (x : Port) : Bool := x.eps < -500000 || 500000 < x.eps

/-- PORT_TARGET_LOCK (R349): 100 ms of good frames within ±500 ppm lead to RUN, anything else to CLOCK_ERROR. The run of
good frames may begin with the first frames after the entry to STARTING (log entry 108). -/
def execPortTargetLock (p : Fin 2) (s : State) : Out :=
  if targetLockDue s p then
    let good := s.ports[p].goodFrom.any fun t => t ≤ s.ports[p].since + fourFrames s p || t + 2457600 ≤ s.now
    if good && !rateBad s.ports[p] then .next (setPortState p .run 2 s) else .next (setPortState p .clockError 7 s)
  else .next s

/-- PORT_CLOCK_ERROR (R349): what stops a port in target mode. In RUN it leads to CLOCK_ERROR; in STARTING it ends the
run of good frames. -/
def execPortClockError (p : Fin 2) (cause : ClockFault) (s : State) : Out :=
  let x := s.ports[p]
  if !x.cfg.target then .next s
  else if x.state = .starting then .next (modPort s p fun x => { x with goodFrom := none })
  else if x.state ≠ .run then .next s
  else match cause with
    | .noFsync => if x.lastFsync + fourFrames s p ≤ s.now then .next (setPortState p .clockError 3 s) else .next s
    | .badFrames =>
      let s1 := modPort s p fun x => { x with badFrames := bump x.badFrames 2 }
      .next (setPortState p .clockError 4
        { s1 with counters := { s1.counters with portBadFrames := vmod s1.counters.portBadFrames p (bump · 2) } })
    | .rateError => if rateBad x then .next (setPortState p .clockError 5 s) else .next s

/-- PORT_FSYNC_RESUME (R349): edges of FSYNC resume in CLOCK_ERROR. -/
def execPortFsyncResume (p : Fin 2) (s : State) : Out :=
  if s.ports[p].state = .clockError then
    .next (setPortState p .starting 6 (modPort s p fun x => { x with lastFsync := s.now }))
  else .next s

/-! ### Configuration of outputs (R350, R351, R354, R366, R363, R373) -/

/-- Parses `OUT_SET` (R350). -/
def parseOutSet (p : List Byte) : Option (Fin 8 × OutCfg) :=
  match finOf 8 (getU 1 0 p), finOf 48 (getU 1 3 p), finOf 2 (getU 1 9 p) with
  | some o, some slot, some port =>
    let g := getS 2 11 p
    if p.length = 15 ∧ getU 1 1 p ≤ 1 ∧ getU 1 2 p ≤ 1 ∧ getU 1 8 p ≤ 15 ∧ getU 1 10 p ≤ 1
        ∧ (g = -32768 ∨ (-9600 ≤ g ∧ g ≤ 1200)) ∧ 10 ≤ getU 2 13 p ∧ getU 2 13 p ≤ 1000 then
      some (o, ⟨getU 1 1 p == 1, getU 1 2 p == 1, slot, BitVec.ofNat 32 (getU 4 4 p), BitVec.ofNat 8 (getU 1 8 p), port,
        getU 1 10 p == 1, if g = -32768 then none else some g, getU 2 13 p⟩)
    else none
  | _, _, _ => none

/-- The last `FOLLOW_SET` that applied, held or not, set `mode` on (R315, R331). -/
def followOn (f : Follower) : Bool := f.cfg.mode != 0 || f.heldSet.any (·.mode != 0)

/-- The source that a follower leaves alone (R316): it follows, and `mode` off has not been set during a fade. -/
def followHolds (s : State) (o : Fin 8) : Bool := follows s o && followOn s.follow[o]

/-- The refusals of `OUT_SET` on the state the transaction produces (R33, R136, R316, R351). The source of an output that
follows is its follower's, and is not judged. -/
def judgeOut (o : Fin 8) (after : State) : Option Status :=
  let c := after.outs[o].cfg
  if followOn after.follow[o] ∧ !c.run then some .badState
  else if c.run ∧ !after.ports[c.port].cfg.enable then some .badState
  else if c.run ∧ (!domainUsable after 4 || !domainUsable after 5) then some .badState
  else if c.cursor then (if after.store.state = .mounted then none else some .badState)
  else if followOn after.follow[o] then none
  else
    let x := after.slots[c.srcSlot]
    if x.state = .free ∨ x.visit then some .badState
    else if x.tune.type = .dab then
      (match slotComponent after c.srcSlot c.srcSid c.srcScids with
        | some (e, _) => if e.tmid = 0 then none else some .badState
        | none => some .badState)
    else none

/-- A gain change starts a ramp from the gain then reached (R354); those before it stay for the samples stamped before it (R30). -/
def addRamp (stroke : Nat) (c : OutCfg) (x : Output) : Output :=
  if c.gain = x.cfg.gain then x else { x with ramps := ⟨c.gain, stroke, c.gainRampMs⟩ :: x.ramps }

/-- `OUT_SET` applies (R316, R352, R353). -/
def applyOutSet (o : Fin 8) (c : OutCfg) (s : State) : State :=
  let x := s.outs[o]
  let c1 := if followHolds s o then
      { c with cursor := x.cfg.cursor, srcSlot := x.cfg.srcSlot, srcSid := x.cfg.srcSid, srcScids := x.cfg.srcScids }
    else c
  let s0 := { s with follow := vmod s.follow o fun f =>
    { f with fade := f.fade.map fun w => if w.stopAfter then { w with keepSource := false } else w } }
  let s1 := modOut s0 o fun x => { addRamp (curStroke s) c1 x with cfg := c1 }
  let srcChange := c1.cursor != x.cfg.cursor || c1.srcSlot != x.cfg.srcSlot || c1.srcSid != x.cfg.srcSid
    || c1.srcScids != x.cfg.srcScids
  let change := (srcChange && !follows s o) || c1.port != x.cfg.port || c1.minLatency != x.cfg.minLatency
  let live := x.state = .settling ∨ x.state = .running
  if c1.run ∧ !x.cfg.run then restartOut o outByCommand .defaults s (modAudio s1 o fun p => { p with fine := [] })
  else if !c1.run ∧ x.cfg.run then stopOut o s s1
  else if c1.run ∧ change ∧ live then restartOut o outByRestart .defaults s s1
  else s1

/-- Parses `OUT_MAP_SET` (R366). -/
def parseOutMap (p : List Byte) : Option (Fin 2 × Fin 16 × MapCfg) :=
  match finOf 2 (getU 1 0 p), finOf 16 (getU 1 1 p), finOf 8 (getU 1 2 p % 8) with
  | some port, some pos, some o =>
    let a := getU 1 2 p
    if p.length = 6 ∧ a / 32 ≤ 4 ∧ a / 8 % 4 = 0 ∧ getU 2 3 p ≤ 4095 then
      some (port, pos, ⟨a / 32, o, getU 2 3 p, getU 1 5 p⟩)
    else none
  | _, _, _ => none

/-- The refusals of `OUT_MAP_SET` (R366): a position outside the frame, and an output of the other port. -/
def judgeMap (p : Fin 2) (pos : Fin 16) (c : MapCfg) (after : State) : Option Status :=
  if after.ports[p].cfg.slots ≤ pos.val then some .badParam
  else if after.outs[c.output].cfg.port ≠ p then some .badState
  else none

/-- `OUT_MAP_SET` applies (R366); what it replaces stays for the samples stamped before it (R30, R367). -/
def applyOutMap (p : Fin 2) (pos : Fin 16) (c : MapCfg) (s : State) : State :=
  modPort s p fun x =>
    let old := x.map[pos]
    if old = c then x else { x with map := x.map.set pos c, past := x.past.set pos ((s.now, old) :: x.past[pos]) }

/-- Parses `OUT_FILTER_SET`: output, stage, leg, response (R363). -/
def parseFilterSet (p : List Byte) : Option (Fin 8 × Nat × Bool × Byte) :=
  match finOf 8 (getU 1 0 p) with
  | none => none
  | some o =>
    let st := getU 1 1 p
    let r := getU 1 3 p
    let known := if r = 0xFF then st == 3 else match responseOf r with | some e => e.stage == st | none => false
    if p.length = 4 ∧ st ≤ 4 ∧ (2 ≤ st ∨ getU 1 2 p ≤ 1) ∧ known then some (o, st, getU 1 2 p == 1, BitVec.ofNat 8 r) else none

/-- The rate that a response for a leg is judged by (R363): its leg's, or the source's of an output that stands still. A leg
B that is not there is judged as the heard one. -/
def judgedRate (s : State) (o : Fin 8) (b : Bool) : Nat :=
  if follows s o && b != heardB s o then legRate s o b
  else if s.outs[o].state = .stopped then sourceRate s o (heardSource s o)
  else heardRate s o

/-- The refusal of `OUT_FILTER_SET` (R363): the response does not suit the rates in force. -/
def judgeFilterSet (o : Fin 8) (stage : Nat) (legB : Bool) (r : Byte) (after : State) : Option Status :=
  if suits r stage (judgedRate after o legB) (outRate after o) after.outs[o].cfg.minLatency then none else some .badParam

/-- `OUT_FILTER_SET`: the shadow bank holds the response (R363). -/
def applyFilterSet (o : Fin 8) (stage : Nat) (legB : Bool) (r : Byte) (s : State) : State :=
  modOut s o fun x => { x with shadow := x.shadow.set (bankOf stage legB) r }

/-- Parses `OUT_FILTER_SWAP`: output, stage mask in [4:0], leg mask in [1:0] (R363). -/
def parseFilterSwap (p : List Byte) : Option (Fin 8 × BitVec 5 × BitVec 2) :=
  match finOf 8 (getU 1 0 p) with
  | none => none
  | some o =>
    if p.length = 3 ∧ getU 1 1 p < 32 ∧ getU 1 2 p < 4 then
      some (o, BitVec.ofNat 5 (getU 1 1 p), BitVec.ofNat 2 (getU 1 2 p)) else none

/-- The refusal of `OUT_FILTER_SWAP` (R363): a named shadow bank is empty. -/
def judgeFilterSwap (o : Fin 8) (stages : BitVec 5) (legs : BitVec 2) (before : State) : Option Status :=
  if (swapBanks stages legs).any fun k => before.outs[o].shadow[k] == 0xFE then some .badState else none

/-- `OUT_FILTER_SWAP` applies, or is held during a fade, replacing one held before (R363, R364). -/
def applyFilterSwap (o : Fin 8) (stages : BitVec 5) (legs : BitVec 2) (s : State) : State :=
  let s1 := modOut s o fun x => { x with heldSwap := none }
  if followBusy s o (curStroke s) || restartBusy s o then modOut s1 o fun x => { x with heldSwap := some (stages, legs) }
  else swapNow o stages legs s1

/-- Parses `OUT_DETECT_SET` (R373). -/
def parseDetect (p : List Byte) : Option (Fin 8 × DetectCfg × Bool) :=
  match finOf 8 (getU 1 0 p) with
  | none => none
  | some o =>
    if p.length = 9 ∧ 10 ≤ getU 2 1 p ∧ getU 2 1 p ≤ 3000 ∧ 1 ≤ getU 2 3 p ∧ getU 2 3 p ≤ 1000 ∧ 1 ≤ getU 2 5 p
        ∧ getU 2 5 p ≤ 10000 ∧ getU 1 7 p ≤ 1 ∧ getU 1 8 p ≤ 1 then
      some (o, ⟨getU 2 1 p, getU 2 3 p, getU 2 5 p, getU 1 7 p == 1⟩, getU 1 8 p == 1)
    else none

/-- The peak holds of the readings of a point cleared. -/
def clearHolds (r : PointReading) : PointReading := { r with holdL := -15000, holdR := -15000, valid := r.valid &&& 0xF3 }

/-- The peaks and peak holds of a point cleared (R373). -/
def clearPeaks (q : DetPoint) : DetPoint :=
  { q with peakL := 0, peakR := 0, peakM := 0, seen := false, holdL := 0, holdR := 0, holdM := 0, held := false }

/-- `OUT_DETECT_SET` applies (R373): `clear_hold` clears every peak hold on the apply stroke; the settings act from the first
sample stamped at or after it, and those before it stay for the samples stamped before (R30). -/
def applyDetect (o : Fin 8) (c : DetectCfg) (clear : Bool) (s : State) : State :=
  let s1 := modOut s o fun x =>
    if c = x.detect then x else { x with detect := c, detectPast := (s.now, x.detect) :: x.detectPast }
  if clear then
    modOut (modAudio s1 o fun p => { p with points := p.points.map clearPeaks }) o fun x =>
      { x with readings := ⟨clearHolds x.readings.a, clearHolds x.readings.b, clearHolds x.readings.out⟩ }
  else s1

/-! ### Decoding (R266, R368) -/

/-- A rise from zero to full level across a frame, or the fall, by a raised cosine (R266). -/
def frameFade (rising : Bool) (pcm : List (Int × Int)) : List (Int × Int) :=
  (List.zip (List.range pcm.length) pcm).map fun (k, l, r) =>
    let up := raisedCosine k pcm.length
    let g : Int := if rising then up else unitOne - up
    (roundDiv (l * g) unitOne, roundDiv (r * g) unitOne)

/-- A sample of the carrier (R340). -/
def carry (v : Int) : Int := clampInt (-2147483648) 2147483647 v

/-- Sample k of a frame with its stamp (R368). -/
def frameSample (f : SrcFrame) (valid concealed : Bool) (k : Nat) (v : Int × Int) : Sample :=
  { Sample.reset with
    stamp := 25 * (f.ts : Int) + ((k : Int) - f.delay) * (614400000 / f.rate : Nat)
    left := if valid then carry v.1 else 0, right := if valid then carry v.2 else 0
    valid := valid, tsValid := true, concealed := concealed }

/-- One input's period in 1/25 tick. -/
def inputPeriod (p : LegPath) : Nat := 614400000 / p.rate

/-- An input enters the line; what is missing before it, by its stamp, counts as inputs that did not come. -/
def addInput (p : LegPath) (x : Sample) : LegPath :=
  match p.line with
  | [] => { p with line := [x], taken := p.taken + 1 }
  | last :: _ =>
    let n := (roundDiv (x.stamp - last.stamp) (inputPeriod p) - 1).toNat
    if n = 0 then { p with line := x :: p.line, taken := p.taken + 1 }
    else if n ≤ 48000 then
      { p with line := x :: (List.replicate n { Sample.reset with stamp := last.stamp } ++ p.line), taken := p.taken + n + 1 }
    else { p with line := [x], taken := p.taken + n + 1 }

/-- Inputs enter a path's line, oldest first; those stamped before its first input are not taken (R353). -/
def intoLine (l : List Sample) (p : LegPath) : LegPath := (l.filter fun x => decide (p.takeFrom ≤ x.stamp)).foldl addInput p

/-- A frame's samples enter a path's line. -/
def putFrame (f : SrcFrame) (valid concealed : Bool) (pcm : List (Int × Int)) (p : LegPath) : LegPath :=
  intoLine ((List.zip (List.range pcm.length) pcm).map fun (k, v) => frameSample f valid concealed k v)
    { p with lastEnd := some f.finish }

/-- As many samples as a frame has. -/
def fitFrame (n : Nat) (pcm : List (Int × Int)) : List (Int × Int) := (pcm ++ List.replicate (n - pcm.length) (0, 0)).take n

/-- A bad frame of a path, or as much of a gap (R266): the good frame before it fading out, and zeros after it. -/
def concealFrame (now : Nat) (f : SrcFrame) (p : LegPath) : LegPath :=
  let pcm := if p.badRun = 0 then frameFade false (fitFrame f.n p.good) else List.replicate f.n (0, 0)
  { putFrame f true true pcm p with badRun := p.badRun + 1, concealAt := some now }

/-- A good frame of a path (R266): the first after bad ones rises from zero. -/
def playFrame (f : SrcFrame) (pcm : List (Int × Int)) (p : LegPath) : LegPath :=
  let l := fitFrame f.n pcm
  { putFrame f (!f.silent) false (if p.badRun = 0 then l else frameFade true l) p with badRun := 0, good := l }

/-- The frame that stands for the next part of a gap: as long as the last good frame, and no longer than the gap (R266). -/
def gapFrame (p : LegPath) (e : Nat) (until_ : Option Nat) (delay : Nat) : SrcFrame :=
  let n := match until_ with
    | some t => min p.good.length ((t - e) * p.rate / 24576000)
    | none => p.good.length
  ⟨e, max 1 n, p.rate, delay, true, false⟩

/-- The path of a selector and its source, where it is there. -/
def pathOf (s : State) (o : Fin 8) : PathSel → Option (LegPath × PathSource)
  | .a => some (s.audio[o].legA, legSource s o false)
  | .b => if follows s o && s.follow[o].legB.slot.isSome then some (s.audio[o].legB, legSource s o true) else none
  | .old => s.outs[o].oldPath.map fun q => (s.audio[o].old, ⟨q.cursor, q.leg⟩)

/-- One path replaced by a function of it. -/
def modPath (s : State) (o : Fin 8) (k : PathSel) (f : LegPath → LegPath) : State :=
  modAudio s o fun p => match k with
    | .a => { p with legA := f p.legA }
    | .b => { p with legB := f p.legB }
    | .old => { p with old := f p.old }

/-- The units of a path feed the concealment of R266: it is a live ensemble component. -/
def conceals (s : State) (k : PathSource) : Bool :=
  !k.cursor && (match k.leg.slot with | some i => s.slots[i].tune.type == .dab | none => false)

/-- What a path has decoded and not yet played ends within 3 ms (log entry 129). -/
def lineEnds (p : LegPath) (now arrival : Nat) : Bool :=
  match p.line with
  | x :: _ => decide (x.stamp + 25 * (arrival : Int) ≤ 25 * ((now : Int) + 73728))
  | [] => true

/-- The source of a path changes its rate (R341, R362): a restart on the heard leg, a new begin on the standby. -/
def changeRate (o : Fin 8) (k : PathSel) (rate : Nat) (s : State) : State :=
  let b := k == .b
  let s1 := setLegRate o b rate s
  if b == heardB s o && (s.outs[o].state == .running || s.outs[o].state == .settling) && s.outs[o].stopAt.isNone then
    restartOut o outByRestart .unsuited s s1
  else beginLeg o b s1

/-- The next frame of a path, decoded or concealed (R266, R326, R341, R368). A frame of another rate waits until what is
before it has been played, and is then a change of rate. A gap before the frame is concealed first. -/
def decodeNext (o : Fin 8) (k : PathSel) (f : SrcFrame) (r : DecodeRx) (p : LegPath) (src : PathSource) (s : State) : State :=
  let gap := conceals s src && p.lastEnd.any (· < f.ts)
  if gap then modPath s o k (concealFrame s.now (gapFrame p (p.lastEnd.getD 0) (some f.ts) f.delay))
  else if f.rate ≠ p.rate ∧ k ≠ .old then
    if lineEnds p s.now (arrivalOf s o src) then changeRate o k f.rate s else s
  else if conceals s src ∧ (f.bad ∨ r.crcBad) then modPath s o k (concealFrame s.now f)
  else modPath s o k (playFrame f r.pcm)

/-- OUT_DECODE_FRAME (R266): the decoder of a path takes the next frame of its source in timestamp order: it decodes it,
`pcm` being the samples of the codec, or conceals it when its units or its CRCs mark it bad. -/
def execOutDecodeFrame (o : Fin 8) (k : PathSel) (r : DecodeRx) (s : State) : Out :=
  match pathOf s o k with
  | none => .next s
  | some (p, src) =>
    if s.outs[o].state = .stopped ∨ s.outs[o].state = .clockHold ∨ takesSlotAudio s src || (src.cursor && !cursorPlays s o) then .next s
    else
      let l := (readyFrames s o p.rate src).filter fun f => decide (p.takeFrom ≤ 25 * (f.finish : Int))
      match nextFrameOf p.lastEnd l with
      | none => .next s
      | some f => .next (decodeNext o k f r p src s)

/-- A gap that comes to its time of playing is concealed, whether or not a unit follows (R266). -/
def starveRule (o : Fin 8) (b : Bool) (s : State) : State :=
  let p := legPath s o b
  let src := legSource s o b
  if conceals s src && p.lastEnd.isSome && !p.good.isEmpty && lineEnds p s.now (arrivalOf s o src) then
    let delay := match p.line with | x :: _ => ((25 * ((p.lastEnd.getD 0 : Nat) : Int) - x.stamp) * p.rate / 614400000).toNat - 1 | [] => 0
    modLeg s o b (concealFrame s.now (gapFrame p (p.lastEnd.getD 0) none delay))
  else s

/-! ### Clock tracking at a stroke (R357, R358) -/

/-- ε_src of a live source in 0.001 ppm (R357): for DAB the rate error that the mean of the last frame periods gives. -/
def legEps (s : State) (k : LegRef) : Int :=
  match k.slot with
  | none => 0
  | some i =>
    let g := s.slots[i].dab.gaps
    if s.slots[i].tune.type != .dab || g.isEmpty then 0
    else roundDiv (((58982400 * g.length : Nat) : Int) * 1000000000 - (g.sum : Int) * 1000000000) g.sum

/-- ε_src of a path; zero for a store cursor (R357). -/
def sourceEps (s : State) (k : PathSource) : Int := if k.cursor then 0 else legEps s k.leg

/-- One slip of 1 ms is due (R358). -/
def slipDue (p : LegPath) : Bool := 1000000000 ≤ p.drift.natAbs

/-- One slip of 1 ms (R358): a fast source has 1 ms of input dropped, a slow one has it repeated, under a crossfade of 2 ms. -/
def slipLeg (rate : Nat) (p : LegPath) : LegPath :=
  let ms : Int := (rsmInput p.rate / 1000 * unitOne : Nat)
  let j := if 0 ≤ p.drift then ms else -ms
  { p with
    drift := if 0 ≤ p.drift then p.drift - 1000000000 else p.drift + 1000000000
    position := p.position.map (· + j), slipJump := j, slipLeft := rate / 500 }

/-- A slip of a leg of an output, counted (R358). -/
def slipRule (o : Fin 8) (b : Bool) (s : State) : State :=
  if slipDue (legPath s o b) then modOut (modLeg s o b (slipLeg (outRate s o))) o fun x => { x with slips := bump x.slips 1 } else s

/-- A drift beyond the clamp of ±500 ppm, in 0.001 ppm. -/
def beyondClamp (diff : Int) : Int := if 500000 < diff then diff - 500000 else if diff < -500000 then diff + 500000 else 0

/-- The clock tracking of a leg over one stroke (R358). -/
def strokeLeg (o : Fin 8) (b : Bool) (s : State) : State :=
  let d := beyondClamp (sourceEps s (legSource s o b) - s.ports[s.outs[o].cfg.port].eps)
  slipRule o b (modLeg s o b fun p => { p with drift := p.drift + d })

/-- The clock tracking of an output over one stroke (R358). -/
def strokeClock (o : Fin 8) (s : State) : State :=
  if s.outs[o].state ≠ .running then s
  else
    let e := sourceEps s (heardSource s o)
    let s1 := modOut s o fun x =>
      { x with epsSrc := e, clockRange := decide (500000 < (e - s.ports[x.cfg.port].eps).natAbs) }
    let s2 := strokeLeg o (heardB s o) s1
    if follows s o && s.follow[o].legB.slot.isSome && s.follow[o].legA.slot.isSome then strokeLeg o (!heardB s o) s2 else s2

/-- The banks of the legs kept to what the legs are (R362): those of a new standby take what suits its rate, and leg B's are
empty while the output does not follow. They stay latched during a fade (R364). -/
def keepLegBanks (o : Fin 8) (s : State) : State :=
  if s.outs[o].state = .stopped ∨ followBusy s o (curStroke s) then s
  else modOut s o (loadBanks .unsuited (follows s o) (legRate s o false) (legRate s o true) (outRate s o))

/-- The decoders of an output at a stroke boundary: gaps that are to be played (R266). -/
def strokeDecoders (o : Fin 8) (s : State) : State :=
  if s.outs[o].state ≠ .settling ∧ s.outs[o].state ≠ .running then s
  else if follows s o then starveRule o true (starveRule o false s) else starveRule o false s

/-- What the output chain does at a stroke boundary, before the followers (R266, R352, R353, R358, R364). -/
def strokeOutputs (s : State) : State :=
  (List.finRange 8).foldl (fun s o =>
    let s1 := keepLegBanks o (heldSwapRule o (outFadeRule o (outSettledRule o s)))
    let s2 := strokeDecoders o (strokeClock o s1)
    modOut s2 o fun x => if x.oldPath.any (fun p => p.finish + 4096 * 24576 ≤ s.now) then { x with oldPath := none } else x) s

/-! ### Event rows -/

/-- An output's and its port's records latched again after a rule that takes effect on the same boundary. -/
def relatchOut (s : State) : State := { s with latch := { s.latch with outs := s.outs, ports := s.ports } }

/-- The events queued since a length of the queue report the present boundary. -/
def restamp (old : Nat) (s : State) : State :=
  { s with evq := s.evq.take old ++ (s.evq.drop old).map fun e => { e with timestamp := s.now } }

/-- A boundary rule of an output as a command of its own. -/
def outRow (rule : State → State) (s : State) : State :=
  if atBoundary s then relatchOut (restamp s.evq.length (rule s)) else s

/-- OUT_SETTLED (R352). -/
def execOutSettled (o : Fin 8) (s : State) : Out := .next (outRow (outSettledRule o) s)
/-- OUT_FADE_OUT_DONE (R352). -/
def execOutFadeOutDone (o : Fin 8) (s : State) : Out := .next (outRow (outFadeRule o) s)
/-- OUT_HELD_SWAP (R364). -/
def execOutHeldSwap (o : Fin 8) (s : State) : Out := .next (outRow (heldSwapRule o) s)
/-- RSM_SLIP (R358): the slips of an output's legs that are due. -/
def execRsmSlip (o : Fin 8) (s : State) : Out := .next (slipRule o true (slipRule o false s))

/-! ### Status (R374 to R376, R559, R564) -/

/-- The state as the latch holds its records (R49). -/
def latchedState (s : State) : State :=
  { s with outs := s.latch.outs, ports := s.latch.ports, follow := s.latch.follow, slots := s.latch.slots
           store := s.latch.store, db := s.latch.db, now := s.latch.stroke * 24576 }

/-- `PORT_STATUS_GET` (R376, R564). -/
def portStatus (p : Fin 2) (s : State) : List Byte :=
  let x := s.latch.ports[p]
  u64 s.latch.stroke ++ u8 (portCode x.state) ++ u8 x.audq.length ++ zeros 2 ++ s32 x.eps ++ u32 x.badFrames.toNat

/-- `OUT_STATUS_GET` (R375). -/
def outStatus (o : Fin 8) (s0 : State) : List Byte :=
  let s := latchedState s0
  let x := s.outs[o]
  let f := statusFrame s o s0.latch.stroke
  let slot := if x.state = .stopped then x.cfg.srcSlot.val else
    if x.cfg.cursor then x.cfg.srcSlot.val else match (heardLeg s o).slot with | some i => i.val | none => 0xFF
  u64 s0.latch.stroke ++ u8 (outCode x.state) ++ uBool x.cfg.cursor ++ u8 slot ++ u8 x.cfg.port.val ++ uBool x.cfg.minLatency
    ++ (x.active.toList.take 6) ++ (x.shadow.toList.take 6) ++ uBool x.heldSwap.isSome
    ++ u64 (if f.tsValid then f.stamp else 0) ++ u32 (pinLatency s o)
    ++ u8 (bitAt f.tsValid 0 + bitAt f.approx 1 + bitAt x.clockRange 2 + bitAt f.fading 3)
    ++ s32 x.epsSrc ++ s32 s.ports[x.cfg.port].eps
    ++ u32 x.underruns.toNat ++ u32 x.slips.toNat ++ u32 x.concealedFrames.toNat ++ u32 x.invalidFrames.toNat

/-- One point of `OUT_DETECT_GET` (R374, R559). -/
def pointBytes (leg : Bool) (r : PointReading) : List Byte :=
  if leg then
    u8 r.valid.toNat ++ ([r.peakL, r.peakR, r.holdL, r.holdR, r.rmsL, r.rmsR, r.rmsM, r.envL, r.envR].flatMap s16)
  else u8 0 ++ (List.replicate 9 (s16 (-32768))).flatten

/-- `OUT_DETECT_GET` (R374, R559): a point with no leg reads 0x8000. -/
def detectStatus (o : Fin 8) (s : State) : List Byte :=
  let r := s.latch.outs[o].readings
  let f := s.latch.follow[o]
  u64 s.latch.stroke ++ pointBytes (f.state == .off || f.legA.slot.isSome) r.a
    ++ pointBytes (f.state != .off && f.legB.slot.isSome) r.b ++ pointBytes true r.out

end Sys2Proof.Machine
end

