-- ==== Sys2Proof/Machine/Resample.lean ====
section
/-! DEFINITION. A leg of the output chain up to its delay unit (10_output_chain.md, R339, R341, R357 to R359, R365, R368 to
R370; 09_programme_following.md R321, R324, R331): the inputs that it takes, PRE, RSM with its position and its slips, and
the stamps that the samples carry. Products are rounded to the nearest value of their carrier (notes/assumptions/21.md). -/

namespace Sys2Proof.Machine

/-! ### Filters of the output ROM (R357, R360) -/

/-- The sum of taps and samples, the taps in 2^-23. -/
def tapSum (tap x : Nat → Int) (n : Nat) : Int := roundDiv (((List.range n).map fun k => tap k * x k).sum) 8388608

/-- Output sample m of PRE, which interpolates by 2 (R339, R341): every second input of its taps is zero. -/
def preSample (fr : Nat) (x : Int → Int) (m : Int) : Int :=
  tapSum (Config.outputTap fr 0) (fun k => if (m - k) % 2 = 0 then x ((m - k) / 2) else 0) (frShape (BitVec.ofNat 8 fr)).2

/-- RSM evaluated at an input position in 2^-32 of an input sample: 32 taps of the phase below it and of the phase above it,
interpolated linearly (R357). -/
def rsmSample (fr : Nat) (x : Int → Int) (position : Int) : Int :=
  let i := position / unitOne
  let phase := (position % unitOne * 256 / unitOne).toNat
  let part := position % unitOne * 256 % unitOne
  let at_ := fun p => tapSum (Config.outputTap fr p) (fun k => x (i - k)) 32
  roundDiv (at_ phase * ((unitOne : Int) - part) + at_ (phase + 1) * part) unitOne

/-! ### Inputs (R339, R353, R355) -/

/-- RSM inputs for one input of the path: PRE interpolates every rate but 48 kHz (R341). -/
def preFactor (p : LegPath) : Nat := if p.rate = 48000 then 1 else 2

/-- An input by its number since the reset; none where none came. -/
def inputAt (p : LegPath) (i : Int) : Option Sample :=
  if 0 ≤ i ∧ i < p.taken then p.line[(p.taken - 1 - i).toNat]? else none

/-- Slot audio as an input (R221, R222, R370). -/
def slotInput (x : Slot) (a : SlotAudio) : Sample :=
  { Sample.reset with stamp := a.ts, left := a.left, right := a.right, valid := a.valid, tsValid := true, approx := x.tune.minChain }

/-- The slot audio that has come since the last input (R339). -/
def takeSlotAudio (x : Slot) (p : LegPath) : LegPath :=
  let after : Int := match p.line with | y :: _ => y.stamp + 1 | [] => p.takeFrom
  ((x.audio.takeWhile fun a => decide (max after p.takeFrom ≤ a.ts)).reverse.map (slotInput x)).foldl addInput p

/-- What a path takes in before it is evaluated. -/
def takeInputs (s : State) (k : PathSource) (p : LegPath) : LegPath :=
  if takesSlotAudio s k then match k.leg.slot with
    | some i => takeSlotAudio s.slots[i] p
    | none => p
  else p

/-! ### Positions and stamps (R353, R357, R359, R365, R369) -/

/-- The 0 Hz group delay of PRE and RSM in RSM inputs (R360). -/
def legGroup (p : LegPath) (banks : Byte × Byte) : Nat := (if preFactor p = 2 then (frShape banks.1).1 else 0) + (frShape banks.2).1

/-- The settle of PRE and RSM, one after the other, in RSM inputs (R365). -/
def legSettle (p : LegPath) (banks : Byte × Byte) : Nat := (if preFactor p = 2 then 2 * frSettle banks.1 else 0) + frSettle banks.2

/-- A path begins with its first input: the frame that enters the delay unit at a device time is stamped with that time less the
arrival offset (R353, R355), and the settle counts from there (R365). -/
def beginPosition (t arrival : Nat) (banks : Byte × Byte) (p : LegPath) : LegPath :=
  match p.position, p.line.getLast? with
  | none, some x =>
    let late : Int := 25 * ((t : Int) - arrival) - x.stamp
    if late < 0 then p
    else { p with position := some (late * rsmInput p.rate * unitOne / 614400000 + legGroup p banks * unitOne)
                  validFrom := legGroup p banks + legSettle p banks }
  | _, _ => p

/-- The stamp of an RSM input position less the group delays (R369), in 1/25 tick. -/
def positionStamp (p : LegPath) (banks : Byte × Byte) (e : Int) : Int :=
  let q := e / preFactor p
  let i := q / unitOne
  let at_ : Int := match inputAt p i, p.line with
    | some x, _ => x.stamp
    | none, y :: _ => y.stamp + (i - (p.taken - 1)) * inputPeriod p
    | none, [] => 0
  at_ + roundDiv (q % unitOne * inputPeriod p) unitOne - legGroup p banks * (inputPeriod p / preFactor p)

/-- An input of RSM: an input of the path, or a sample of PRE; none before RSM's reset (R365). -/
def rsmIn (p : LegPath) (pre : Byte) (side : Sample → Int) (j : Int) : Int :=
  let x := fun i => match inputAt p i with | some v => side v | none => 0
  if j < p.rsmFrom then 0 else if preFactor p = 2 then preSample pre.toNat x j else x j

/-- A channel of a leg at a position, with the crossfade of a slip (R358). -/
def rsmChannel (rate : Nat) (p : LegPath) (banks : Byte × Byte) (side : Sample → Int) (e : Int) : Int :=
  let at_ := rsmSample banks.2.toNat (rsmIn p banks.1 side)
  if p.slipLeft = 0 then at_ e
  else roundDiv (at_ (e - p.slipJump) * p.slipLeft + at_ e * ((rate / 500 : Nat) - p.slipLeft)) (rate / 500)

/-- The inputs within the taps behind a position (R365). -/
def tapInputs (p : LegPath) (banks : Byte × Byte) (e : Int) : List (Option Sample) :=
  let j := e / unitOne
  let f : Int := preFactor p
  let lo := (j - 31 - (if f = 2 then ((frShape banks.1).2 : Int) - 1 else 0)) / f
  (List.range (j / f - lo + 1).toNat).map fun (k : Nat) => inputAt p (lo + k)

/-- What RSM gives at a position (R357, R365, R369, R370): zero and not valid while the settle lasts. -/
def legSample (rate : Nat) (banks : Byte × Byte) (e : Int) (p : LegPath) : Sample :=
  let st := positionStamp p banks e
  if e / unitOne < p.validFrom then { Sample.reset with stamp := st }
  else
    let used := settingsAt (st / 25).toNat p.pastBanks banks
    let l := tapInputs p used e
    { Sample.reset with
      stamp := st, left := carry (rsmChannel rate p used (·.left) e), right := carry (rsmChannel rate p used (·.right) e)
      valid := l.all (·.any (·.valid)), tsValid := l.all (·.any (·.tsValid)), concealed := l.any (·.any (·.concealed))
      approx := l.any (·.any (·.approx)) || (preFactor p == 2 && isMinPhase used.1) || isMinPhase used.2 }

/-! ### Steps and delays (R324, R331, R357 to R359) -/

/-- The delays of both legs, A's first, after a walk by so much (R324): down together while both are above zero and no fade or dip
runs; else the active one toward the delay that alignment needs, when `realign` is 0. -/
def walkMove (f : Follower) (move : Nat) : Nat × Nat :=
  let lo := min f.delayA f.delayB
  let toward := fun (n d : Nat) => if d < n then min n (d + move) else max n (d - move)
  if f.fade.isSome ∨ f.state = .off ∨ f.state = .single then (f.delayA, f.delayB)
  else if 0 < lo then (f.delayA - min move lo, f.delayB - min move lo)
  else match f.need with
    | some n => if f.cfg.dip then (f.delayA, f.delayB)
        else if f.activeB then (f.delayA, toward n f.delayB) else (toward n f.delayA, f.delayB)
    | none => (f.delayA, f.delayB)

/-- The alignment delay of a leg at a device time in millionths of a tick: the follower's, and while it walks what the walk has
brought since the boundary (R324). -/
def legDelay (s : State) (o : Fin 8) (b : Bool) (t : Nat) : Nat :=
  if !follows s o then 0
  else
    let f := s.follow[o]
    let d := if b then f.delayB else f.delayA
    let m := walkMove f (f.cfg.stretchPpm * (t - s.latch.stroke * 24576))
    if walkMove f 1 = (f.delayA, f.delayB) then delayTicks d * 1000000 else if b then m.2 else m.1

/-- The step of RSM in 2^-32 RSM inputs per output sample, but for the walk (R357, R358): the ratio, the clock errors held to
500 ppm apart, and the servo. The walk enters through the remainder of R359: while a delay walks at `stretch_ppm`, the remainder
moves the position by that part of a step. -/
def rsmStep (srcRate outRate : Nat) (epsSrc epsPort servoPpm : Int) : Nat :=
  let src := clampInt (epsPort - 500000) (epsPort + 500000) epsSrc
  (((unitOne * rsmInput srcRate : Nat) * (1000000000 + src) * (1000000 + servoPpm)).tdiv
    (outRate * (1000000000 + epsPort) * 1000000)).toNat

/-- The remainder of a delay as a shift of the RSM input position (R359). -/
def remainderShift (srcRate outRate delay : Nat) : Int :=
  ((delaySplit outRate delay).2 * rsmInput srcRate * unitOne / 24576000000000 : Nat)

/-- What a path of an output runs with. -/
structure PathRun where
  rate : Nat
  arrival : Nat
  banks : Byte × Byte
  delay : Nat
  step : Nat
  hold : Bool
deriving DecidableEq, Repr

/-- The step of a path is latched during a fade (R331). -/
def stepLatched (s : State) (o : Fin 8) : Bool := s.follow[o].state == .fading

/-- What the path of a selector runs with at a device time; a paused cursor holds its position (R414). -/
def pathRun (s : State) (o : Fin 8) (k : PathSel) (p : LegPath) (src : PathSource) (t : Nat) (servo : Int) : PathRun :=
  let port := match k, s.outs[o].oldPath with
    | .old, some q => s.ports[q.port]
    | _, _ => s.ports[s.outs[o].cfg.port]
  let rate := rateHz port.cfg.rate
  let free := rsmStep p.rate rate (sourceEps s src) port.eps servo
  let step := if stepLatched s o && p.step != 0 then p.step else free
  let hold := src.cursor && !s.store.cursors[o].run
  match k, s.outs[o].oldPath with
  | .old, some q => ⟨rate, q.arrival, (q.pre, q.rsm), q.delay * 1000000, step, hold⟩
  | _, _ => ⟨rate, arrivalOf s o src, legBanks s.outs[o] (k == .b), legDelay s o (k == .b) t, step, hold⟩

/-- One output frame of a path: it is evaluated, the sample enters the delay unit of 3.0 s (R41, R359), and the position moves on. -/
def runPath (r : PathRun) (t : Nat) (p0 : LegPath) : LegPath :=
  let p := beginPosition t r.arrival r.banks p0
  let put := fun (x : Sample) (q : LegPath) => { q with unit := x :: q.unit.take (3 * r.rate) }
  match p.position with
  | none => put { Sample.reset with stamp := 25 * ((t : Int) - r.arrival) } p
  | some base =>
    if r.hold then put { Sample.reset with stamp := 25 * ((t : Int) - r.arrival) } p
    else
      let e := base + remainderShift p.rate r.rate r.delay
      let next := base + r.step
      let first := next / unitOne / preFactor p - 512
      put (legSample r.rate r.banks e p)
        { p with position := some next, step := r.step, slipLeft := p.slipLeft - 1, line := p.line.take ((p.taken : Int) - first).toNat }

/-- One output frame of the path of a selector (R339). -/
def pathStep (o : Fin 8) (t : Nat) (servo : Int) (s : State) (k : PathSel) : State :=
  match pathOf s o k with
  | none => s
  | some (p, src) => modPath s o k fun _ => runPath (pathRun s o k p src t servo) t (takeInputs s src p)

/-! ### The histories of the lag measurement (R321) -/

/-- A leg's mono sum at a device time (R321 step 1): into the samples at 48 kHz, and band-limited into the history at 4 kHz. -/
def pushMono (t : Nat) (v : Int) (p : LegPath) : LegPath :=
  let k := t / 512
  let mono := List.replicate (min 4 (k - p.lagAt)) v ++ p.mono.take 245760
  { p with
    lagAt := k, mono := mono
    history := if k / 12 = p.lagAt / 12 then p.history
      else tapSum Config.lagTap (fun i => mono.getD i 0) 256 :: p.history.take 19999 }

/-- Both legs' mono sums as they enter the alignment delay, while two legs are present (R321). -/
def pushHistories (o : Fin 8) (t : Nat) (s : State) : State :=
  if s.follow[o].legA.slot.isSome ∧ s.follow[o].legB.slot.isSome ∧ follows s o then
    let push := fun (p : LegPath) => match p.unit with
      | x :: _ => pushMono t ((x.left + x.right) / 2) p
      | [] => p
    modAudio s o fun p => { p with legA := push p.legA, legB := push p.legB }
  else s

end Sys2Proof.Machine
end

