-- ==== Sys2Proof/Machine/Audio.lean ====
section
/-! DEFINITION. The audio of the output chain from the delay units on (10_output_chain.md, R339 to R348, R353, R354, R365 to
R375; 09_programme_following.md R324, R325, R330): trim, crossfade, gain, detectors, fine delay, AUDQ, and the frames of the TDM
ports with their bits. Products are rounded to the nearest value of their carrier (notes/assumptions/21.md). -/

namespace Sys2Proof.Machine

/-! ### Delay unit, trim and crossfade (R324, R325, R330, R353, R359) -/

/-- A sample times a factor in the fixed-point unit (R340). -/
def scaleBy (g : Nat) (x : Sample) : Sample :=
  { x with left := carry (roundDiv (x.left * g) unitOne), right := carry (roundDiv (x.right * g) unitOne) }

/-- A follower with a dip's delays once their time has come (R324). -/
def dipView (t : Nat) (f : Follower) : Follower :=
  match f.fade with
  | some w =>
    if w.dip ∧ !w.dipped ∧ w.mid ≤ t then
      (if f.activeB then { f with delayB := w.newActive, delayA := w.newStandby, fade := some { w with dipped := true } }
        else { f with delayA := w.newActive, delayB := w.newStandby, fade := some { w with dipped := true } })
    else f
  | none => f

/-- A state whose follower has taken the delays of its dip. -/
def dipState (o : Fin 8) (t : Nat) (s : State) : State := { s with follow := vmod s.follow o (dipView t) }

/-- The position of a fade at a stamp of the outgoing leg in ticks, from 0 to one (R330, R331). -/
def fadePosition (w : Fade) (st : Int) : Nat :=
  if st ≤ w.fromAt then w.fromX
  else if (w.finish : Int) ≤ st then unitOne
  else w.fromX + (unitOne - w.fromX) * (st - w.fromAt).toNat / (w.finish - w.fromAt)

/-- The gains of the outgoing and the incoming leg at a position (R330). -/
def fadeGains (linear : Bool) (x : Nat) : Nat × Nat :=
  if linear then (unitOne - x, x) else ((cosPi (x / 2)).toNat, (sinPi (x / 2)).toNat)

/-- The gain of a dip at a device time: down and up over 20 ms each (R324). -/
def dipGain (w : Fade) (t : Int) : Nat :=
  let down := ((w.start * 24576 + w.latency : Nat) : Int)
  if t < down then unitOne
  else if !w.dipped then unitOne - raisedCosine (t - down).toNat 491520
  else raisedCosine (t - w.mid).toNat 491520

/-- One leg behind its alignment delay at a device time (R359). -/
def delayedLeg (s : State) (o : Fin 8) (b : Bool) (t : Nat) : Sample :=
  (legPath s o b).unit.getD (delaySplit (outRate s o) (legDelay s o b t)).1 Sample.reset

/-- A sum of two legs in a fade (R330): it carries the stamp of the outgoing leg up to the midpoint, and then the incoming one's. -/
def fadeSample (w : Fade) (out in_ : Sample) : Sample :=
  let st := out.stamp / 25
  let x := fadePosition w st
  let g := fadeGains w.linear x
  let (a, b) := (scaleBy g.1 out, scaleBy g.2 in_)
  let lead := if 2 * x < unitOne then out else in_
  { stamp := lead.stamp, left := carry (a.left + b.left), right := carry (a.right + b.right), valid := out.valid || in_.valid
    tsValid := lead.tsValid, concealed := (out.valid && out.concealed) || (in_.valid && in_.concealed)
    fading := decide (((w.start * 24576 : Nat) : Int) ≤ st ∧ st < w.finish), approx := out.approx || in_.approx }

/-- What an output's source or follower hands to the crossfade stage: the active leg with its trim, a fade of both legs, or
a dip (R324, R325, R330). -/
def heardSample (s0 : State) (o : Fin 8) (t : Nat) : Sample :=
  let s := dipState o t s0
  let leg := fun (k : Bool) => scaleBy (gainUnit (legTrim s o k)) (delayedLeg s o k t)
  if !follows s o then delayedLeg s o false t
  else
    let f := s.follow[o]
    match f.fade with
    | some w =>
      if w.dip then
        let g := dipGain w t
        { scaleBy g (leg f.activeB) with fading := g != unitOne }
      else fadeSample w (leg (!w.toB)) (leg w.toB)
    | none => leg f.activeB

/-- The old path runs at a device time (R353). -/
def oldRuns (x : Output) (t : Nat) : Bool := x.oldPath.any (t < ·.finish)

/-- The old path of a restart or a stop under its fade, with its trim (R353 step 1). -/
def oldSample (s : State) (o : Fin 8) (q : OldPath) : Sample :=
  let n := (delaySplit (rateHz s.ports[q.port].cfg.rate) (q.delay * 1000000)).1
  let x := s.audio[o].old.unit.getD n Sample.reset
  let st := x.stamp / 25
  if st < q.fadeFrom then scaleBy (gainUnit q.trim) x
  else { scaleBy (unitOne - raisedCosine (st - q.fadeFrom).toNat 245760) (scaleBy (gainUnit q.trim) x) with fading := true }

/-- The new path of an output: zero and not valid until its first valid sample, from which it rises over 10 ms (R353 steps 3
and 4). -/
def freshSample (first : Option Nat) (t : Nat) (x : Sample) : Sample :=
  match first with
  | none => { Sample.reset with stamp := x.stamp }
  | some v => if v + 245760 ≤ t then x else { scaleBy (raisedCosine (t - v) 245760) x with fading := true }

/-! ### Gain (R340, R354) -/

/-- The amplitude of a host gain; none is mute. -/
def hostAmplitude (g : Option Int) : Nat := match g with | some v => gainUnit v | none => 0

/-- The amplitude of the gain stage at a stamp: it moves linearly from the amplitude that the earlier changes had reached
when a change began (R354). -/
def gainAt (st : Int) : List GainRamp → Nat
  | [] => unitOne
  | r :: rest =>
    let a : Int := ((r.start * 24576 : Nat) : Int)
    if st < a then gainAt st rest
    else
      let before := gainAt a rest
      let n := r.lengthMs * 24576
      let k := (st - a).toNat
      if n ≤ k then hostAmplitude r.target
      else ((before : Int) + ((hostAmplitude r.target : Int) - before) * k / n).toNat

/-- A value rounded to 24 bits, saturating at full scale (R340). -/
def saturate (v : Int) : BitVec 24 := BitVec.ofInt 24 (clampInt (-8388608) 8388607 v)

/-- The gain stage (R340, R354): the one place at which the carrier becomes 24 bits. -/
def hostGain (g : Nat) (x : Sample) : BitVec 24 × BitVec 24 :=
  (saturate (roundDiv (x.left * g) unitOne), saturate (roundDiv (x.right * g) unitOne))

/-! ### Detectors (R372 to R374) -/

/-- One biquad of a DETW response in transposed form: its output and its next state (R360). -/
def biquad (fr k : Nat) (st : Int × Int) (x : Int) : Int × (Int × Int) :=
  let c := Config.outputTap fr k
  let y := roundDiv (c 0 * x) 8388608 + st.1
  (y, (roundDiv (c 1 * x - c 3 * y) 8388608 + st.2, roundDiv (c 2 * x - c 4 * y) 8388608))

/-- The biquads from number k on, in turn. -/
def biquads (fr : Nat) : Nat → Nat → List (Int × Int) → Int → Int × List (Int × Int)
  | 0, _, _, x => (x, [])
  | n + 1, k, st, x =>
    let (y, s1) := biquad fr k (st.headD (0, 0)) x
    let (z, rest) := biquads fr n (k + 1) st.tail y
    (z, s1 :: rest)

/-- How many biquads a DETW response has; flat weighting none (R360, R362). -/
def biquadCount (fr : Byte) : Nat :=
  if [12, 13, 14].contains fr.toNat then 2 else if [15, 16, 17].contains fr.toNat then 3 else 0

/-- The true peak of the newest samples: the greatest of the interpolated phases (R360, R372). -/
def truePeak (fr : Byte) (x : List Int) : Nat :=
  ((List.range (if fr = 19 then 2 else 4)).map fun p =>
    (tapSum (Config.outputTap fr.toNat p) (fun k => x.getD k 0) 12).natAbs).foldl max 0

/-- One step of an envelope in 1/65536, with the time constant in samples as a fraction (R372). -/
def envStep (e x num den : Nat) : Nat :=
  let d := 281474976710656 - (expRatio den num).toNat
  if e < x then e + (x - e) * d / 281474976710656 else e - (e - x) * d / 281474976710656

/-- A detector point takes over other settings: a change resets the detectors that it concerns (R373). -/
def turnDetect (c : DetectCfg) (q : DetPoint) : DetPoint :=
  let q1 := if c.truePeak = q.cfg.truePeak then q else
    { q with peakL := 0, peakR := 0, peakM := 0, holdL := 0, holdR := 0, holdM := 0, held := false, recent := [], seen := false }
  let q2 := if c.rmsMs = q.cfg.rmsMs then q1 else { q1 with sums := [], weight := [[], [], []] }
  let q3 := if c.attackMs = q.cfg.attackMs ∧ c.releaseMs = q.cfg.releaseMs then q2
    else { q2 with envL := 0, envR := 0, envM := 0, envSeen := false }
  { q3 with cfg := c }

/-- A valid sample enters a detector point, on left, right and mono (R372). -/
def pointSample (c : DetectCfg) (rate : Nat) (detw tp : Byte) (l r : Int) (q0 : DetPoint) : DetPoint :=
  let q := turnDetect c q0
  let m := roundDiv (l + r) 2
  let recent := (l, r, m) :: q.recent.take 11
  let pk := fun (v : Int) (x : List Int) => if c.truePeak then truePeak tp x else v.natAbs
  let (pl, pr, pm) := (pk l (recent.map (·.1)), pk r (recent.map (·.2.1)), pk m (recent.map (·.2.2)))
  let n := biquadCount detw
  let w := fun (k : Nat) (v : Int) => biquads detw.toNat n 0 (q.weight.getD k []) v
  let (wl, sl) := w 0 l
  let (wr, sr) := w 1 r
  let (wm, sm) := w 2 m
  let (al, ar, am, cnt) := q.sums.headD (0, 0, 0, 0)
  let env := fun (e : Nat) (v : Int) =>
    let x := v.natAbs * 65536
    envStep e x (rate * (if e < x then c.attackMs else c.releaseMs)) 1000
  { q with
    recent := recent, seen := true, held := true, weight := [sl, sr, sm]
    peakL := max q.peakL pl, peakR := max q.peakR pr, peakM := max q.peakM pm
    holdL := max q.holdL pl, holdR := max q.holdR pr, holdM := max q.holdM pm
    sums := (al + (wl * wl).toNat, ar + (wr * wr).toNat, am + (wm * wm).toNat, cnt + 1) :: q.sums.tail
    envL := env q.envL l, envR := env q.envR r, envM := env q.envM m, envSeen := true }

/-- Full scale of the carrier. -/
def fullScale : Nat := 8388608

/-- The RMS over the last strokes of one of the sums, in 0.01 dB against a full-scale sine; none without a valid sample. -/
def rmsOver (n : Nat) (pick : Nat × Nat × Nat × Nat → Nat) (sums : List (Nat × Nat × Nat × Nat)) : Option Int :=
  let l := sums.take n
  let count := (l.map fun e => e.2.2.2).sum
  if count = 0 then none
  else some (levelOf (isqrt 64 (2 * ((l.map pick).sum * 4294967296 / count)) 0) (fullScale * 65536))

/-- The readings of a point over the stroke just ended (R372, R374), the mono RMS over `mono` strokes. -/
def readPoint (mono : Nat) (q : DetPoint) : PointReading :=
  let peak := fun (seen : Bool) v => if seen then levelOf v fullScale else -15000
  let rms := fun n pick => rmsOver n pick q.sums
  let env := fun e => if q.envSeen then levelOf e (fullScale * 65536) else -15000
  { valid := BitVec.ofNat 8 ((if q.seen then 0x03 else 0) + (if q.held then 0x0C else 0)
      + (if (rms q.cfg.rmsMs (·.1)).isSome then 0x30 else 0) + (if (rms mono (·.1)).isSome then 0x40 else 0)
      + (if q.envSeen then 0x80 else 0))
    peakL := peak q.seen q.peakL, peakR := peak q.seen q.peakR, holdL := peak q.held q.holdL, holdR := peak q.held q.holdR
    rmsL := (rms q.cfg.rmsMs (·.1)).getD (-15000), rmsR := (rms q.cfg.rmsMs (·.2.1)).getD (-15000)
    rmsM := (rms mono (·.2.2.1)).getD (-15000), envL := env q.envL, envR := env q.envR }

/-- A point at the start of a stroke. -/
def turnPoint (q : DetPoint) : DetPoint :=
  { q with peakL := 0, peakR := 0, peakM := 0, seen := false, sums := (0, 0, 0, 0) :: q.sums.take 2999 }

/-- The detectors of one output over the stroke just ended. -/
def strokeDetect (s : State) (o : Fin 8) (x : Output) : Output :=
  let p := s.audio[o].points
  let mono := fun (q : DetPoint) => if follows s o then s.follow[o].cfg.levelWindowMs else q.cfg.rmsMs
  let q := p[(1 : Fin 3)]
  { x with readings :=
    ⟨readPoint (mono p[(0 : Fin 3)]) p[(0 : Fin 3)],
     if follows s o && s.follow[o].legB.slot.isSome then readPoint (mono q) q else PointReading.floor,
     readPoint p[(2 : Fin 3)].cfg.rmsMs p[(2 : Fin 3)]⟩ }

/-- The detectors of every output, and the start of their next stroke. -/
def strokeDetectors (s : State) : State :=
  { s with
    outs := Vector.ofFn fun (o : Fin 8) => strokeDetect s o s.outs[o]
    audio := s.audio.map fun p => { p with points := p.points.map turnPoint } }

/-- The mono RMS of both legs behind their alignment delays over a number of strokes, in 0.01 dBFS (R325). -/
def legLevels (s : State) (o : Fin 8) (n : Nat) : Option (Int × Int) :=
  let p := s.audio[o].points
  let rms := fun (q : DetPoint) => rmsOver n (·.2.2.1) q.sums.tail
  match rms p[(0 : Fin 3)], rms p[(1 : Fin 3)] with
  | some a, some b => some (a, b)
  | _, _ => none

/-! ### One output frame (R339) -/

/-- A point takes a sample under the settings in force for its stamp (R30, R373), unless it is invalid or the detectors are
still settling (R363, R372). -/
def detectInto (s : State) (o : Fin 8) (valid : Bool) (stamp l r : Int) (q : DetPoint) : DetPoint :=
  let x := s.outs[o]
  if !valid || s.now < x.detReset then q
  else pointSample (settingsAt (stamp / 25).toNat x.detectPast x.detect) (outRate s o) x.active[(5 : Fin 7)] x.active[(6 : Fin 7)] l r q

/-- A point takes a leg's sample. -/
def detectLeg (s : State) (o : Fin 8) (x : Sample) (q : DetPoint) : DetPoint := detectInto s o x.valid x.stamp x.left x.right q

/-- The samples that a fine delay line holds: 4,096 and the taps of FINE (R360, R367). -/
def fineHeld : Nat := 4127

/-- A sample after the gain stage (R340, R354), on a path with a FINE response and a latency. -/
def gainSample (ramps : List GainRamp) (x : Sample) (fine : Byte) (latency : Nat) (settled : Bool) : OutSample :=
  let (l, r) := hostGain (gainAt (x.stamp / 25) ramps) x
  { stamp := x.stamp, left := l, right := r, valid := x.valid, settled := settled, tsValid := x.tsValid
    concealed := x.concealed, fading := x.fading, approx := x.approx, fine := fine, latency := latency }

/-- What leaves the gain stage of an output (R353, R354, R365): the old path on its port until its fade has ended, then the new
path. -/
def outSample (s : State) (o : Fin 8) (t : Nat) (first : Option Nat) (heard : Sample) : OutSample :=
  let x := s.outs[o]
  let fresh := gainSample x.ramps (freshSample first t heard) (fineFr x) (pathLatency s o)
    (first.any fun v => v + samplesTicks (frSettle (fineFr x)) (outRate s o) ≤ t)
  match x.oldPath with
  | some q => if t < q.finish ∧ q.port = x.cfg.port then gainSample x.ramps (oldSample s o q) q.fine q.latency true else fresh
  | none => fresh

/-- The stages from the delay units to the fine delay line, and the detectors (R339, R353, R372). -/
def mixStep (o : Fin 8) (t : Nat) (s : State) : State :=
  let x := s.outs[o]
  let heard := heardSample s o t
  let first := if x.firstValid.isNone && heard.valid && !oldRuns x t then some t else x.firstValid
  let out := outSample s o t first heard
  let v := dipState o t s
  let (a, b) := (delayedLeg v o false t, if follows s o then delayedLeg v o true t else Sample.reset)
  modAudio (modOut s o fun x => { x with firstValid := first }) o fun p =>
    { p with
      fine := out :: p.fine.take fineHeld
      points := #v[detectLeg s o a p.points[(0 : Fin 3)], detectLeg s o b p.points[(1 : Fin 3)],
        detectInto s o out.valid out.stamp out.left.toInt out.right.toInt p.points[(2 : Fin 3)]] }

/-- One frame of an output from its sources to its fine delay line, at a device time (R339). -/
def audioStep (o : Fin 8) (t : Nat) (servo : Int) (s : State) : State :=
  let paths : List PathSel := [.a, .b] ++ (if s.outs[o].oldPath.any (·.port == s.outs[o].cfg.port) then [.old] else [])
  mixStep o t (pushHistories o t (paths.foldl (pathStep o t servo) s))

/-- One frame of the path that an output leaves on another port (R353): its fade-out, and then nothing. -/
def leaveStep (o : Fin 8) (q : OldPath) (t : Nat) (servo : Int) (s : State) : State :=
  let s1 := pathStep o t servo s .old
  let x := if t < q.finish then oldSample s1 o q else Sample.reset
  modAudio s1 o fun p => { p with fineOld := gainSample s.outs[o].ramps x q.fine q.latency true :: p.fineOld.take fineHeld }

/-! ### FINE and the positions (R30, R346, R365 to R367) -/

/-- The changes of a position, oldest first: when each was made, and what it set. -/
def mapChanges (past : List (Nat × MapCfg)) (cur : MapCfg) : List (Nat × MapCfg) :=
  (past.foldl (fun (acc : List (Nat × MapCfg) × MapCfg) e => ((e.1, acc.2) :: acc.1, e.2)) ([], cur)).1

/-- The setting in force on a position, by the stamp in ticks that its sample has under a setting, and the gain that a change of
its delay puts on it (R30, R367): a change acts from the first sample stamped at or after it. -/
def mapAt (st : MapCfg → Int) (cur : MapCfg) : List (Nat × MapCfg) → MapCfg × Nat
  | [] => (cur, unitOne)
  | (a, c) :: rest =>
    let k := st (if cur.kind = 0 then c else cur) - a
    if k < 0 then (cur, unitOne)
    else if cur.delaySamples = c.delaySamples then mapAt st c rest
    else if k < 122880 then (cur, unitOne - raisedCosine k.toNat 122880)
    else if k < 245760 then (c, raisedCosine (k - 122880).toNat 122880)
    else mapAt st c rest

/-- `flag_byte` of a sample (R346). -/
def flagByte (valid tsValid concealed fading approx : Bool) : Nat :=
  bitAt valid 7 + bitAt tsValid 6 + bitAt (valid && concealed) 5 + bitAt (valid && fading) 4 + bitAt approx 3

/-- What an empty delay line gives (R365). -/
def lineAt (l : List OutSample) (k : Nat) : OutSample := l.getD k OutSample.reset

/-- A position's sample: FINE over its taps, from its integer delay on (R360, R366), with the samples' flags (R365). -/
def fineSample (fr : Byte) (c : MapCfg) (l : List OutSample) (gain : Nat) : BitVec 24 × Bool × Bool :=
  let taps := (frShape fr).2
  let x := fun k => lineAt l (c.delaySamples + k)
  let ks := List.range taps
  let valid := (ks.all fun k => (x k).valid) && (x (frShape fr).1).settled
  let (pick, unit) : (OutSample → Int) × Nat :=
    if c.kind = 1 then ((·.left.toInt), 8388608) else if c.kind = 2 then ((·.right.toInt), 8388608)
    else ((fun e => e.left.toInt + e.right.toInt), 16777216)
  let v := ((ks.map fun k => Config.outputTap fr.toNat c.delayFrac k * pick (x k)).sum)
  (if (x (frShape fr).1).settled then saturate (roundDiv (roundDiv v unit * gain) unitOne) else 0, valid,
    ks.any fun k => (x k).valid && (x k).concealed)

/-- The fine delay line of an output on a port: that of its own port, or of the one that a restart has left. -/
def lineOn (s : State) (p : Fin 2) (o : Fin 8) : List OutSample :=
  if s.outs[o].cfg.port = p then s.audio[o].fine else if s.outs[o].oldPath.any (·.port == p) then s.audio[o].fineOld else []

/-- The FINE response in force where a line's sample stands (R30, R362): that of the path it came on. -/
def lineFr (l : List OutSample) (k : Nat) : Byte := (lineAt l k).fine

/-- The stamp in ticks of what a position carries under a setting; of an output that sends nothing, the frame's own time. -/
def mapStamp (s : State) (p : Fin 2) (t : Nat) (c : MapCfg) : Int :=
  let y := s.outs[c.output]
  let l := lineOn s p c.output
  if (y.state ≠ .settling ∧ y.state ≠ .running) ∨ l.isEmpty then t
  else (lineAt l (c.delaySamples + (frShape (lineFr l c.delaySamples)).1)).stamp / 25

/-- The word of a position in a frame that enters AUDQ at a device time (R346, R366), or the output whose timecode stands
there. -/
def positionWord (s : State) (p : Fin 2) (t : Nat) (pos : Fin 16) : Option (Fin 8) × Word :=
  let x := s.ports[p]
  let first := match x.past[pos].getLast? with | some e => e.2 | none => x.map[pos]
  let (c, gain) := mapAt (mapStamp s p t) first (mapChanges x.past[pos] x.map[pos])
  let y := s.outs[c.output]
  let l := lineOn s p c.output
  if c.kind = 0 ∨ (y.state ≠ .settling ∧ y.state ≠ .running ∧ c.kind ≠ 4) then (none, 0)
  else if c.kind = 4 then (if y.cfg.port = p then some c.output else none, 0)
  else
    let fr := lineFr l c.delaySamples
    let (v, valid, concealed) := fineSample fr c l gain
    let frame := lineAt l (frShape fr).1
    let fading := (lineAt l (c.delaySamples + (frShape fr).1)).fading || gain != unitOne
    let approx := frame.approx || isMinPhase fr || fr == 11
    (none, BitVec.ofNat 32 (v.toNat * 256
      + if x.cfg.flagByte then flagByte valid (frame.tsValid && frame.settled) concealed fading approx else 0))

/-- What a frame that enters AUDQ says of an output, for fine delay zero (R356, R369, R375). -/
def frameInfo (s : State) (p : Fin 2) (o : Fin 8) : FrameInfo :=
  let l := lineOn s p o
  if s.outs[o].cfg.port ≠ p ∨ (s.outs[o].state ≠ .settling ∧ s.outs[o].state ≠ .running) then FrameInfo.reset
  else
    let fr := lineFr l 0
    let (_, valid, conc) := fineSample fr ⟨1, o, 0, 0⟩ l unitOne
    let x := lineAt l (frShape fr).1
    { valid := valid, tsValid := x.tsValid && x.settled, concealed := valid && conc, fading := x.fading
      approx := x.approx || fr == 11, stamp := (roundDiv x.stamp 25).toNat
      latency := x.latency + samplesTicks ((frShape fr).1 + 16) (outRate s o) }

/-! ### AUDQ and the frames of a port (R22 to R24, R347, R348, R371) -/

/-- The outputs whose frames a port carries. -/
def portOutputs (s : State) (p : Fin 2) : List (Fin 8) :=
  (List.finRange 8).filter fun o => s.outs[o].cfg.port == p && s.outs[o].state == .running

/-- Counters of one frame of the outputs of a port that run, as it goes out (R375). -/
def countFrame (p : Fin 2) (info : Fin 8 → FrameInfo) (s : State) : State :=
  (portOutputs s p).foldl (fun s o =>
    modOut s o fun x =>
      { x with invalidFrames := if (info o).valid then x.invalidFrames else bump x.invalidFrames 1
               concealedFrames := if (info o).concealed then bump x.concealedFrames 1 else x.concealedFrames }) s

/-- One frame of an output on a port: of its path there, or of the one that a restart left there. -/
def outputStep (p : Fin 2) (t : Nat) (servo : Int) (s : State) (o : Fin 8) : State :=
  let x := s.outs[o]
  if x.state ≠ .settling ∧ x.state ≠ .running then s
  else if x.cfg.port = p then audioStep o t servo s
  else match x.oldPath with
    | some q => if q.port = p then leaveStep o q t servo s else s
    | none => s

/-- One frame of the resamplers passes the chain and enters AUDQ while it holds fewer than 32 (R24, R339). -/
def deliverFrame (p : Fin 2) (t : Nat) (servo : Int) (s : State) : State :=
  if 32 ≤ s.ports[p].audq.length then s
  else
    let s1 := (List.finRange 8).foldl (outputStep p t servo) s
    let words := ((List.finRange 16).take s1.ports[p].cfg.slots).map (positionWord s1 p t)
    modPort s1 p fun x => { x with audq := x.audq ++ [⟨words, Vector.ofFn (frameInfo s1 p)⟩] }

/-- What the servo adds to σ, in ppm (R357): up to 20 towards the 16 frames of R23; with fewer the step is made shorter. -/
def servoPpm (x : Port) : Int := if x.audq.length < 16 then -20 else if 16 < x.audq.length then 20 else 0

/-- How many frames the resamplers bring in one frame of the port, and what the servo has added then (R23, R357). -/
def framesDue (x : Port) : Nat × Int :=
  let a := x.servo - servoPpm x
  if 1000000 ≤ a then (2, a - 1000000) else if a ≤ -1000000 then (0, a + 1000000) else (1, a)

/-- A timecode word (R371). -/
def timecodeWord (x : Port) (o : Fin 8) : Word :=
  let (ts, lat) := x.packet[o]
  let fl := x.packetFlags[o].toNat
  match x.frames % 4 with
  | 0 => BitVec.ofNat 32 (0xA5000000 + o.val * 2 ^ 21 + fl * 2 ^ 17 + x.frames / 4 % 65536)
  | 1 => BitVec.ofNat 32 (ts / 2 ^ 32)
  | 2 => BitVec.ofNat 32 ts
  | _ => BitVec.ofNat 32 lat

/-- Frame 0 of a timecode packet sets what the packet carries (R371). -/
def packetStart (info : Fin 8 → FrameInfo) (s : State) (p : Fin 2) : State :=
  if s.ports[p].frames % 4 ≠ 0 then s
  else modPort s p fun x =>
    { x with
      packet := Vector.ofFn fun o => ((info o).stamp, (info o).latency)
      packetFlags := Vector.ofFn fun o => BitVec.ofNat 8
        (bitAt (info o).tsValid 3 + bitAt (info o).approx 2 + bitAt s.outs[o].cfg.cursor 1 + bitAt (info o).fading 0) }

/-- AUDQ has emptied (R24): a run of zero samples begins, and each output of the port counts it once. -/
def underrunStart (p : Fin 2) (s : State) : State :=
  (portOutputs s p).foldl (fun s o =>
    let s1 := modOut s o fun x => { x with underruns := bump x.underruns 1 }
    { s1 with counters := { s1.counters with outUnderruns := vmod s1.counters.outUnderruns o (bump · 1) } }) s

/-- A frame goes out at a device time: its words, and what it says of the outputs (R345, R346, R371, R375). -/
def putOut (p : Fin 2) (t : Nat) (q : QueueFrame) (s : State) : State :=
  let s1 := packetStart (fun o => q.info[o]) (countFrame p (fun o => q.info[o]) s) p
  modPort s1 p fun x =>
    { x with
      before := x.words, words := q.words.map fun e => match e.1 with | some o => timecodeWord x o | none => e.2
      sent := q.info, sentAt := some t, frames := x.frames + 1 }

/-- A frame of zeros. -/
def zeroFrame (x : Port) : QueueFrame := ⟨List.replicate x.cfg.slots (none, 0), Vector.replicate 8 FrameInfo.reset⟩

/-- The oldest frame of AUDQ goes out (R24); while it fills up again, zeros do. -/
def sendFrame (p : Fin 2) (t : Nat) (s : State) : State :=
  if s.ports[p].refill then putOut p t (zeroFrame s.ports[p]) s
  else match s.ports[p].audq with
    | [] => putOut p t (zeroFrame s.ports[p]) (underrunStart p (modPort s p fun x => { x with refill := true }))
    | q :: rest => putOut p t q (modPort s p fun x => { x with audq := rest })

/-- One frame in RUN: a frame leaves, what the resamplers bring enters by the occupancy before it (R23), and the port sends again
once 16 are held (R24). -/
def runFrame (p : Fin 2) (t : Nat) (s : State) : State :=
  let ppm := servoPpm s.ports[p]
  let (n, servo) := framesDue s.ports[p]
  let s1 := sendFrame p t s
  let s2 := (List.range n).foldl (fun s _ => deliverFrame p t ppm s) (modPort s1 p fun x => { x with servo := servo })
  modPort s2 p fun x => { x with refill := x.refill && decide (x.audq.length < 16) }

/-- A frame period in 1/441 tick (R347). -/
def framePeriod (x : Port) : Nat := 24576000 * 441 / rateHz x.cfg.rate

/-- The next frame of a port has begun: in source mode at its time, in target mode with the edge (R347, R348). -/
def frameBegun (s : State) (p : Fin 2) : Bool := s.ports[p].cfg.target || s.ports[p].nextAt ≤ s.now * 441

/-- The device time of the frame that begins. -/
def frameTime (s : State) (p : Fin 2) : Nat := if s.ports[p].cfg.target then s.now else s.ports[p].nextAt / 441

/-- What a frame that begins does to its port before anything is sent (R347, R348): in target mode its edge is timed and its BCLK
cycles are counted. -/
def beginPortFrame (now : Nat) (bad : Bool) (x : Port) : Port :=
  let x1 := if x.cfg.target then takeEdge now x else { x with eps := 0, lastFsync := now }
  { x1 with
    nextAt := x.nextAt + framePeriod x
    badFrames := if bad then bump x.badFrames 1 else x.badFrames, badRun := if bad then x.badRun + 1 else 0
    goodFrom := if bad then none else some (x.goodFrom.getD now) }

/-- TDM_FRAME (R347, R348): a frame begins on a port. In target mode its BCLK count is what the pins show. -/
def execTdmFrame (p : Fin 2) (bclks : Nat) (s : State) : Out :=
  let x := s.ports[p]
  if x.state = .off ∨ frameBegun s p = false then .next s
  else
    let bad := x.cfg.target && bclks != x.cfg.slots * 32
    let s1 := modPort s p (beginPortFrame s.now bad)
    let s2 := if bad then
        { s1 with counters := { s1.counters with portBadFrames := vmod s1.counters.portBadFrames p (bump · 1) } } else s1
    if x.state ≠ .run then .next (modPort s2 p fun x => { x with words := List.replicate x.cfg.slots 0 })
    else if bad ∧ 1 ≤ x.badRun then .next (setPortState p .clockError 4 s2)
    else if rateBad s1.ports[p] then .next (setPortState p .clockError 5 s2)
    else .next (runFrame p (frameTime s p) s2)

/-! ### The pins of a port (R343, R345, R347) -/

/-- BCLK cycles of a frame. -/
def frameCycles (c : PortCfg) : Nat := c.slots * 32

/-- Cycles from the frame start to the first bit of position 0 (R345). -/
def firstCycle (c : PortCfg) : Nat := if c.format = 0 then (if c.dataDelay then 1 else 0) else if c.format = 1 then 1 else 0

/-- Bit n of a frame's words, most significant first. -/
def wordBit (words : List Word) (n : Nat) : Bool := (words.getD (n / 32) 0).getLsbD (31 - n % 32)

/-- DOUT in a BCLK cycle of a frame: the cycles before its first bit still carry the frame before (R345). -/
def doutBit (c : PortCfg) (before words : List Word) (cycle : Nat) : Bool :=
  if cycle < firstCycle c then wordBit before (frameCycles c + cycle - firstCycle c) else wordBit words (cycle - firstCycle c)

/-- The level of FSYNC in a BCLK cycle (R345). -/
def fsyncLevel (c : PortCfg) (cycle : Nat) : Bool :=
  let half := decide (2 * cycle < frameCycles c)
  if c.format = 0 then (if c.fsyncHalf then half else cycle == 0) != c.fsyncInvert
  else if c.format = 1 then !half else half

/-- The rate of BCLK in Hz. -/
def bclkHz (c : PortCfg) : Nat := frameCycles c * rateHz c.rate

/-- MCLK in Hz, in source mode where it is on (R343). -/
def mclkHz (c : PortCfg) : Option Nat :=
  if c.mclk && !c.target then some (if c.rate = 0 then 11289600 else 12288000) else none

/-- BCLK over the halves of a cycle that begins at its launch edge, the falling one unless `bclk_invert` (R343). -/
def bclkLevel (c : PortCfg) (second : Bool) : Bool := second != c.bclkInvert

/-- The edge on which FSYNC is sampled is the one opposite to the launch edge: it ends the first half of a cycle (R345). -/
def samplesRising (c : PortCfg) : Bool := !c.bclkInvert

/-- BCLK, FSYNC and DOUT of a port in one half of a BCLK cycle of the frame that goes out (R343, R345): data and, in source mode,
FSYNC change at the launch edge, with which the cycle begins. -/
def portPins (x : Port) (cycle : Nat) (second : Bool) : Bool × Bool × Bool :=
  (bclkLevel x.cfg second, fsyncLevel x.cfg cycle, doutBit x.cfg x.before x.words cycle)

end Sys2Proof.Machine
end

