-- ==== Sys2Proof/Machine/Crypto.lean ====
section
/-! DEFINITION. The cryptography that the spec names and leaves to its standards: HMAC and HKDF over SHA-256 (R145), AES-128
with XTS (R386), and ECDSA over P-256 (R124, R141 to R143). PRESUMED from the standards that the spec names: RFC 2104, RFC
5869, FIPS 197, IEEE 1619, FIPS 186 and SEC 1 (notes/assumptions/13.md). -/

namespace Sys2Proof.Machine

/-! ### HKDF (R145) -/

/-- A key filled to a block and mixed with a pad byte. -/
def padKey (pad : Byte) (key : List Byte) : List Byte := (key ++ zeros (64 - key.length)).map (· ^^^ pad)

/-- HMAC-SHA-256 under a key of at most 64 bytes. -/
def hmac (key msg : List Byte) : List Byte := sha256 (padKey 0x5C key ++ sha256 (padKey 0x36 key ++ msg))

/-- HKDF-SHA-256 with an output of 32 bytes: extract, then one block of expand (R145). -/
def hkdf (ikm salt info : List Byte) : List Byte := hmac (hmac salt ikm) (info ++ [0x01])

/-! ### AES-128 and XTS (R386) -/

/-- A byte times x in GF(2^8) modulo x^8 + x^4 + x^3 + x + 1. -/
def xtimes (a : Byte) : Byte := if a.getLsbD 7 then (a <<< 1) ^^^ 0x1B else a <<< 1

/-- The product in GF(2^8), one bit of the second factor after the other. -/
def byteMul (a b : Byte) : Byte :=
  ((List.range 8).foldl (fun (acc : Byte × Byte) i => (if b.getLsbD i then acc.1 ^^^ acc.2 else acc.1, xtimes acc.2)) (0, a)).1

/-- The inverse in GF(2^8), the power 254; 0 has none and stays 0. -/
def byteInv (a : Byte) : Byte :=
  let sq (x : Byte) := byteMul x x
  (List.range 6).foldl (fun acc _ => sq (byteMul acc a)) (sq a)

/-- The substitution of a byte: the inverse, then the affine map. -/
def subByte (a : Byte) : Byte :=
  let b := byteInv a
  b ^^^ b.rotateLeft 1 ^^^ b.rotateLeft 2 ^^^ b.rotateLeft 3 ^^^ b.rotateLeft 4 ^^^ 0x63

/-- The inverse substitution: the affine map undone, then the inverse. -/
def unsubByte (a : Byte) : Byte := byteInv (a.rotateLeft 1 ^^^ a.rotateLeft 3 ^^^ a.rotateLeft 6 ^^^ 0x05)

/-- Two runs of bytes added in GF(2). -/
def xorBytes (a b : List Byte) : List Byte := List.zipWith (· ^^^ ·) a b

/-- A round key from the one before it and its round constant. -/
def nextKey (key : List Byte) (rcon : Byte) : List Byte :=
  let last := key.drop 12
  let turned := (last.drop 1 ++ last.take 1).map subByte
  let w0 := xorBytes (key.take 4) (xorBytes turned [rcon, 0, 0, 0])
  let w1 := xorBytes ((key.drop 4).take 4) w0
  let w2 := xorBytes ((key.drop 8).take 4) w1
  w0 ++ w1 ++ w2 ++ xorBytes last w2

/-- The eleven round keys. -/
def roundKeys (key : List Byte) : List (List Byte) :=
  (List.range 10).foldl (fun (acc : List (List Byte) × Byte) _ =>
    (acc.1 ++ [nextKey (acc.1.getLastD []) acc.2], xtimes acc.2)) ([key], 1) |>.1

/-- The rows of a block, which is held by columns, turned by their number: byte i comes from `step` times its row further
on, 4 for the encryption and 12 for the decryption. -/
def turnRows (step : Nat) (b : List Byte) : List Byte := (List.range 16).map fun i => b.getD ((i + step * (i % 4)) % 16) 0

/-- The columns of a block multiplied by a circulant matrix with this first row. -/
def mixWith (row : List Byte) (b : List Byte) : List Byte :=
  (List.range 16).map fun i =>
    (List.range 4).foldl (fun acc j => acc ^^^ byteMul (row.getD ((j + 4 - i % 4) % 4) 0) (b.getD (4 * (i / 4) + j) 0)) 0

/-- AES-128 encryption of a block of 16 bytes. -/
def aesEncrypt (key block : List Byte) : List Byte :=
  match roundKeys key with
  | [] => block
  | k0 :: ks =>
    let (b, last) := (ks.take 9).foldl (fun (acc : List Byte × Nat) k =>
      (xorBytes (mixWith [2, 3, 1, 1] (turnRows 4 (acc.1.map subByte))) k, acc.2 + 1)) (xorBytes block k0, 0)
    xorBytes (turnRows 4 (b.map subByte)) (ks.getD last [])

/-- AES-128 decryption of a block of 16 bytes. -/
def aesDecrypt (key block : List Byte) : List Byte :=
  match (roundKeys key).reverse with
  | [] => block
  | k0 :: ks =>
    let b := (ks.take 9).foldl (fun acc k => mixWith [14, 11, 13, 9] (xorBytes ((turnRows 12 acc).map unsubByte) k))
      (xorBytes block k0)
    xorBytes ((turnRows 12 b).map unsubByte) (ks.getD 9 [])

/-- The next tweak: the last times x in GF(2^128), little-endian, modulo x^128 + x^7 + x^2 + x + 1. -/
def nextTweak (t : List Byte) : List Byte :=
  let n := 2 * leNat t
  leBytes 16 (if 2 ^ 128 ≤ n then (n - 2 ^ 128) ^^^ 0x87 else n)

/-- The 16-byte blocks of a data unit, each under its tweak. -/
def xtsBlocks (cipher : List Byte → List Byte) : Nat → List Byte → List Byte → List Byte
  | 0, _, _ => []
  | n + 1, t, data => xorBytes (cipher (xorBytes (data.take 16) t)) t ++ xtsBlocks cipher n (nextTweak t) (data.drop 16)

/-- XTS-AES-128 of a data unit of whole blocks under its data key, tweak key and tweak number (R386). -/
def xtsEncrypt (dataKey tweakKey : List Byte) (tweak : Nat) (data : List Byte) : List Byte :=
  xtsBlocks (aesEncrypt dataKey) (data.length / 16) (aesEncrypt tweakKey (leBytes 16 tweak)) data

/-- The inverse of `xtsEncrypt`. -/
def xtsDecrypt (dataKey tweakKey : List Byte) (tweak : Nat) (data : List Byte) : List Byte :=
  xtsBlocks (aesDecrypt dataKey) (data.length / 16) (aesEncrypt tweakKey (leBytes 16 tweak)) data

/-! ### ECDSA over P-256 (R124, R141 to R143) -/

/-- The prime of the field. -/
def curveP : Nat := 2 ^ 256 - 2 ^ 224 + 2 ^ 192 + 2 ^ 96 - 1
/-- The order of the base point. -/
def curveN : Nat := 2 ^ 256 - 2 ^ 224 + 2 ^ 192 - 0x4319055258E8617B0C46353D039CDAAF
/-- The coefficient b of y² = x³ - 3x + b. -/
def curveB : Nat := 0x5AC635D8AA3A93E7B3EBBD55769886BC651D06B0CC53B0F63BCE3C3E27D2604B
/-- The base point. -/
def curveG : Nat × Nat :=
  (0x6B17D1F2E12C4247F8BCE6E563A440F277037D812DEB33A0F4A13945D898C296,
   0x4FE342E2FE1A7F9B8EE7EB4A7C0F9E162BCE33576B315ECECBB6406837BF51F5)

/-- A power in a field, the exponent's bits from the top down. -/
def powMod (m a e : Nat) : Nat :=
  (List.range 256).foldl (fun acc i => let sq := acc * acc % m; if e.testBit (255 - i) then sq * a % m else sq) 1

/-- The inverse modulo a prime (0 for 0). -/
def invMod (m a : Nat) : Nat := powMod m a (m - 2)

/-- A point in Jacobian coordinates (x/z², y/z³); z = 0 is the point at infinity. -/
structure CurvePoint where
  x : Nat
  y : Nat
  z : Nat
deriving DecidableEq, Repr

/-- A difference in the field. -/
def subP (a b : Nat) : Nat := (a + (curveP - b % curveP)) % curveP

/-- Twice a point. -/
def doublePoint (q : CurvePoint) : CurvePoint :=
  let zz := q.z * q.z % curveP
  let yy := q.y * q.y % curveP
  let m := 3 * (subP q.x zz * (q.x + zz)) % curveP
  let v := 4 * (q.x * yy) % curveP
  let x := subP (m * m % curveP) (2 * v)
  ⟨x, subP (m * subP v x) (8 * (yy * yy)), 2 * (q.y * q.z) % curveP⟩

/-- The sum of two points. -/
def addPoint (a b : CurvePoint) : CurvePoint :=
  if a.z = 0 then b
  else if b.z = 0 then a
  else
    let za := a.z * a.z % curveP
    let zb := b.z * b.z % curveP
    let u := a.x * zb % curveP
    let h := subP (b.x * za % curveP) u
    let t := a.y * zb % curveP * b.z % curveP
    let r := subP (b.y * za % curveP * a.z % curveP) t
    if h = 0 then (if r = 0 then doublePoint a else ⟨1, 1, 0⟩)
    else
      let hh := h * h % curveP
      let hhh := h * hh % curveP
      let v := u * hh % curveP
      let x := subP (r * r % curveP) (hhh + 2 * v)
      ⟨x, subP (r * subP v x) (t * hhh), h * a.z % curveP * b.z % curveP⟩

/-- A multiple of a point. -/
def mulPoint (k : Nat) (q : Nat × Nat) : CurvePoint :=
  (List.range 256).foldl (fun acc i =>
    let d := doublePoint acc
    if k.testBit (255 - i) then addPoint d ⟨q.1, q.2, 1⟩ else d) ⟨1, 1, 0⟩

/-- The affine coordinates of a point. -/
def affine (q : CurvePoint) : Nat × Nat :=
  let i := invMod curveP q.z
  let ii := i * i % curveP
  (q.x * ii % curveP, q.y * (ii * i % curveP) % curveP)

/-- The public key of a private key. -/
def publicKey (d : Nat) : Nat × Nat := affine (mulPoint d curveG)

/-- The number of a big-endian octet string. -/
def beToNat (bs : List Byte) : Nat := leNat bs.reverse

/-- A point lies on the curve. -/
def onCurve (q : Nat × Nat) : Bool :=
  q.1 < curveP && q.2 < curveP && (q.2 * q.2) % curveP == (q.1 * q.1 * q.1 + (curveP - 3) * q.1 + curveB) % curveP

/-- ECDSA P-256 with SHA-256: the 64 bytes `sig_r` and `sig_s` are a signature of a hash under a public key. -/
def ecdsaVerify (key : Nat × Nat) (hash sig : List Byte) : Bool :=
  let r := beToNat (sig.take 32)
  let t := beToNat (sig.drop 32)
  let w := invMod curveN t
  let q := addPoint (mulPoint (beToNat hash * w % curveN) curveG) (mulPoint (r * w % curveN) key)
  sig.length == 64 && onCurve key && 0 < r && r < curveN && 0 < t && t < curveN && q.z != 0 && (affine q).1 % curveN == r

/-- ECDSA P-256 of a hash under a private key with a secret number `k`: `sig_r` and `sig_s`, each 32 bytes big-endian. -/
def ecdsaSign (d k : Nat) (hash : List Byte) : List Byte :=
  let r := (affine (mulPoint k curveG)).1 % curveN
  beNat 32 r ++ beNat 32 (invMod curveN k * (beToNat hash + r * d) % curveN)

end Sys2Proof.Machine
end

