-- ==== Sys2Proof/Machine/Cert.lean ====
section
/-! DEFINITION. The device certificate (03_startup_power_identity.md R140, R141) as its DER bytes, the properties that R141
gives it, its verification against the CA key in ROM, the pairing transcript (R143) and the store keys (R145). The DER
layout of X.509 version 3 is PRESUMED from the standard that R140 names (notes/assumptions/13.md). -/

namespace Sys2Proof.Machine

/-- The bytes of an ASCII text. -/
def ascii (t : String) : List Byte := t.toList.map fun c => BitVec.ofNat 8 c.toNat

/-- One DER element: its tag, its content and the bytes behind it; lengths of up to two bytes. -/
def derOne : List Byte → Option (Nat × List Byte × List Byte)
  | t :: l :: rest =>
    let (n, body) :=
      if l.toNat < 128 then (l.toNat, rest)
      else if l = 0x81 then (beToNat (rest.take 1), rest.drop 1)
      else (beToNat (rest.take 2), rest.drop 2)
    if n ≤ body.length then some (t.toNat, body.take n, body.drop n) else none
  | _ => none

/-- The elements of a run of bytes, each with its tag, its content and its whole bytes; `k` bounds how many. -/
def derAll : Nat → List Byte → List (Nat × List Byte × List Byte)
  | 0, _ => []
  | k + 1, bs =>
    match derOne bs with
    | some (t, c, rest) => (t, c, bs.take (bs.length - rest.length)) :: derAll k rest
    | none => []

/-- The elements within an element. -/
def derIn (bs : List Byte) : List (Nat × List Byte × List Byte) := derAll 32 bs

/-- The content of the element at a place, empty when there is none. -/
def derAt (k : Nat) (l : List (Nat × List Byte × List Byte)) : List Byte := match l[k]? with | some e => e.2.1 | none => []

/-- The contents at a path of places into nested elements. -/
def derPath : List Nat → List Byte → List Byte
  | [], bs => bs
  | k :: ks, bs => derPath ks (derAt k (derIn bs))

/-- What a certificate says (R141). -/
structure CertFields where
  serial : Nat
  algorithm : List Byte
  issuerCn : List Byte
  notAfter : List Byte
  subjectCn : List Byte
  key : Nat × Nat
  digitalSignature : Bool
  signed : List Byte
  sig : List Byte
deriving DecidableEq, Repr

/-- The common name within a name: the value beside the attribute 2.5.4.3. -/
def commonName (name : List Byte) : List Byte :=
  (derIn name).findSome? (fun rdn =>
    let pair := derIn (derPath [0] rdn.2.1)
    if derAt 0 pair = [0x55, 0x04, 0x03] then some (derAt 1 pair) else none) |>.getD []

/-- The key usage extension 2.5.29.15 has the bit digitalSignature. -/
def usesDigitalSignature (exts : List Byte) : Bool :=
  (derIn (derPath [0] exts)).any fun e =>
    let l := derIn e.2.1
    derAt 0 l == [0x55, 0x1D, 0x0F] && ((derPath [0] (derAt (l.length - 1) l)).drop 1).headD 0 &&& 0x80 != 0

/-- A certificate read from its DER bytes. -/
def readCert (der : List Byte) : Option CertFields :=
  match derOne der with
  | none => none
  | some (_, body, _) =>
    match derIn body with
    | [tbs, alg, sig] =>
      let f := derIn tbs.2.1
      let point := (derPath [6, 1] tbs.2.1).drop 2
      let rs := derIn (derPath [0] (sig.2.1.drop 1))
      some {
        serial := beToNat (derAt 1 f), algorithm := derPath [0] alg.2.1, issuerCn := commonName (derAt 3 f)
        notAfter := derPath [4, 1] tbs.2.1, subjectCn := commonName (derAt 5 f)
        key := (beToNat (point.take 32), beToNat (point.drop 32)), digitalSignature := usesDigitalSignature (derAt (f.length - 1) f)
        signed := tbs.2.2, sig := beNat 32 (beToNat (derAt 0 rs)) ++ beNat 32 (beToNat (derAt 1 rs)) }
    | _ => none

/-- The serial number in 16 upper-case hexadecimal digits. -/
def hexSerial (serial : Nat) : List Byte :=
  (List.range 16).map fun i =>
    let d := serial / 16 ^ (15 - i) % 16
    BitVec.ofNat 8 (if d < 10 then 0x30 + d else 0x37 + d)

/-- The CA that issues device certificates (R141). -/
def caName : List Byte := ascii "Vorbeken Fisimund Device CA"

/-- A certificate has the properties of R141 for a serial number and a public key. -/
def certMeets (c : CertFields) (serial : Nat) (key : Nat × Nat) : Bool :=
  c.key == key && c.serial == serial && c.subjectCn == ascii "FSM4848 " ++ hexSerial serial && c.issuerCn == caName
    && c.algorithm == [0x2A, 0x86, 0x48, 0xCE, 0x3D, 0x04, 0x03, 0x02] && c.notAfter == ascii "99991231235959Z"
    && c.digitalSignature

/-- A certificate verifies against the CA key in ROM (R143). -/
def certVerifies (rom : Rom) (c : CertFields) : Bool :=
  c.issuerCn == caName && ecdsaVerify rom.caKey (sha256 c.signed) c.sig

/-- What a device that left the factory holds (R140, R141): a certificate for its own serial and key, which the CA signed. -/
def identityOk (otp : Otp) (rom : Rom) : Bool :=
  match readCert otp.cert with
  | some c => certMeets c otp.serial.toNat (publicKey otp.key) && certVerifies rom c && otp.cert.length ≤ 1024
  | none => false

/-- The 96-byte transcript that a device signs in pairing (R143). -/
def transcript (localNonce remoteNonce : List Byte) (localSerial remoteSerial : Nat) : List Byte :=
  ascii "FSM4848 pairing!" ++ localNonce ++ remoteNonce ++ u64 localSerial ++ u64 remoteSerial

/-- The device's signature over a message (R142, R143): ECDSA P-256 with its private key and a secret number of its own, a
free value. -/
def deviceSign (s : State) (msg : List Byte) : List Byte := ecdsaSign s.otp.key (Config.signNonce s.freeNext) (sha256 msg)

/-- The keys of a store (R145): the data key and the tweak key of a volume on this device. -/
def storeKeys (otp : Otp) (volumeId : List Byte) : List Byte × List Byte :=
  let out := hkdf (beNat 32 otp.key) volumeId (ascii "FSM4848 XTS-AES" ++ u64 otp.serial.toNat)
  (out.take 16, out.drop 16)

/-- `key_check` of a system page (R389): bytes 0 to 15 of SHA-256 over the 32 derived key bytes. -/
def keyCheck (otp : Otp) (volumeId : List Byte) : List Byte :=
  let k := storeKeys otp volumeId
  (sha256 (k.1 ++ k.2)).take 16

end Sys2Proof.Machine
end

