-- ==== Sys2Proof/Machine/Modem.lean ====
section
/-! DEFINITION. What the Coax Link PHY puts on its tones and takes from them: the tone plan, training and preamble points,
constellations, the coding of a superframe, launch power, echo cancellation and burst headers (13_link_phy.md R449 to R455,
R458 to R462, R467 to R470). -/

namespace Sys2Proof.Machine

/-! ### Tones and symbols (R449, R450) -/

/-- The used tones, 102 to 203. -/
def tones : List Nat := (List.range 102).map (· + 102)

/-- The frequency of a tone in kHz. -/
def toneKhz (tone : Nat) : Nat := tone * 300

/-- Where symbol s of superframe n begins in the local, in 1/25 tick: 122.88 ticks each (R450). -/
def symbolStart (n s : Nat) : Nat := (n * 24576) * 25 + 3072 * s

/-- A point on a tone: its axes in units of the scale a of R453, with (M_I² − 1) + (M_Q² − 1), which fixes a² as 3/energy
of the per-tone power. -/
structure TonePoint where
  i : Int
  q : Int
  energy : Nat
deriving DecidableEq, Repr

/-- A tone that carries zero. -/
def silent : TonePoint := ⟨0, 0, 0⟩

/-- The point at unit power. -/
def toneValue (p : TonePoint) : Cplx :=
  let a : Int := if p.energy = 0 then 0 else isqrt 40 (3 * unitOne * unitOne / p.energy) 0
  ⟨a * p.i, a * p.q⟩

/-- The points of a symbol at unit power. -/
def toneValues (l : List TonePoint) : List Cplx := l.map toneValue

/-- Sample m of a symbol's 768: a 512-point real inverse FFT behind its cyclic prefix of 256 samples (R449). -/
def symbolSample (points : List Cplx) (m : Nat) : Int :=
  let n := (m + 256) % 512
  (cplxSum ((points.zip tones).map fun e => cMul e.1 (cTurn (2 * unitOne * (e.2 * n % 512) / 512)))).re

/-! ### Sync, training and preamble points (R451, R452) -/

/-- A QPSK point: the signs of its axes, 0 for positive. -/
def qpsk (b0 b1 : Bool) : TonePoint := ⟨if b0 then -1 else 1, if b1 then -1 else 1, 6⟩

/-- Points from bits, two a tone in ascending order. -/
def qpskPoints : List Bool → List TonePoint
  | b0 :: b1 :: rest => qpsk b0 b1 :: qpskPoints rest
  | _ => []

/-- 204 bits of the PRBS x¹⁵ + x¹⁴ + 1 from a place in the sequence of a seed. -/
def prbsBits (seed place : Nat) : List Bool := (lfsr 15 14 (place % 32767 + 204) seed).drop (place % 32767)

/-- The points of the sync symbol. -/
def syncPoints : List TonePoint := qpskPoints (prbsBits 0x7FFF 0)

/-- The points of training symbol j since training began: they continue the sequence of the sync symbol (R451; log entry
103). -/
def trainingPoints (j : Nat) : List TonePoint := qpskPoints (prbsBits 0x7FFF (204 * (j + 1)))

/-- The points of the preamble symbol S. -/
def preamblePoints : List TonePoint := qpskPoints (prbsBits 0x2AAA 0)

/-- A tone of 102 to 203 is masked, by its index from 0 (R452). -/
def toneMasked (c : PhyCfg) (k : Nat) : Bool := c.toneMask.getLsbD k

/-- Sample m of the preamble symbol S (R449, R451). -/
def preambleSample (m : Nat) : Int := symbolSample (toneValues preamblePoints) m

/-- Samples of a symbol with its prefix. -/
def symbolLength : Nat := 768

/-- The correlation of a run of samples against S, with the energies of both (R471). -/
def correlateS (xs : List Int) : Nat × Nat × Nat :=
  let pairs : List (Int × Int) := (xs.zip (List.range symbolLength)).map fun e => (e.1, preambleSample e.2)
  ((pairs.map fun (e : Int × Int) => e.1 * e.2).sum.natAbs, (pairs.map fun (e : Int × Int) => (e.1 * e.1).toNat).sum, (pairs.map fun (e : Int × Int) => (e.2 * e.2).toNat).sum)

/-- The peak that the newest symbol of 5 symbols of samples shows, in 0.1 dB (R471): its normalised correlation with S is at least
0.5, and it stands at least 12 dB above the mean correlation of the 4 symbols before. -/
def preamblePeak (samples : List Int) : Option Int :=
  let (c, ex, es) := correlateS ((samples.drop (4 * symbolLength)).take symbolLength)
  let mean := ((List.range (4 * symbolLength)).map fun k => (correlateS ((samples.drop k).take symbolLength)).1).sum / (4 * symbolLength)
  if 0 < c ∧ ex * es ≤ 4 * (c * c) ∧ 1200 ≤ levelOf c mean then some (roundDiv (levelOf c (unitOne * unitOne)) 10) else none

/-- Points with the masked tones at zero (R452). -/
def maskPoints (c : PhyCfg) (l : List TonePoint) : List TonePoint :=
  (l.zip (List.range 102)).map fun e => if toneMasked c e.2 then silent else e.1

/-- The sync symbol is heard (R479): the normalised correlation of what was received on the unmasked tones with the known
pattern is at least 0.5, compared by its square. -/
def syncHeld (c : PhyCfg) (received : List Cplx) : Bool :=
  let pairs := (received.zip (maskPoints c syncPoints)).filter fun e => e.2 != silent
  let corr := cplxSum (pairs.map fun e => ⟨e.1.re * e.2.i + e.1.im * e.2.q, e.1.im * e.2.i - e.1.re * e.2.q⟩)
  let energy := (pairs.map fun e => cNormSq e.1).sum
  0 < energy && 2 * pairs.length * energy ≤ 4 * cNormSq corr

/-! ### Constellations (R453, R454) -/

/-- The Gray decode of a number of b bits. -/
def grayDecode : Nat → Nat → Nat
  | 0, d => d
  | b + 1, d => d ^^^ grayDecode b (d / 2)

/-- A number of bits, the first most significant. -/
def bitsNumber (bits : List Bool) : Nat := bits.foldl (fun n b => 2 * n + b.toNat) 0

/-- The amplitude of an axis that carries these bits, in units of a (R453). -/
def axisAmplitude (bits : List Bool) : Int :=
  let b := bits.length
  if b = 0 then 0 else 2 * (grayDecode b (bitsNumber bits) : Int) - (2 ^ b - 1 : Nat)

/-- The point of a tone for its bits: in-phase bits before quadrature bits (R453, R454). -/
def dataPoint (bits : List Bool) : TonePoint :=
  let n := bits.length
  let mi := (n + 1) / 2
  ⟨axisAmplitude (bits.take mi), axisAmplitude (bits.drop mi), (2 ^ mi) ^ 2 - 1 + ((2 ^ (n / 2)) ^ 2 - 1)⟩

/-- The points of a payload symbol: the bits of the stream by ascending tone; a tone with no bits carries filler, and a
masked one zero (R452, R454). -/
def symbolPoints (c : PhyCfg) (table : List Nat) (filler : List TonePoint) (bits : List Bool) : List TonePoint :=
  ((List.range 102).foldl (fun (acc : List TonePoint × List Bool) k =>
    let b := table.getD k 0
    let p := if toneMasked c k then silent else if b = 0 then filler.getD k silent else dataPoint (acc.2.take b)
    (acc.1 ++ [p], acc.2.drop b)) ([], bits)).1

/-- A number as bits, the first most significant. -/
def numberBits (b n : Nat) : List Bool := (List.range b).map fun i => n.testBit (b - 1 - i)

/-- The bits of the level of an axis that lies nearest to an amplitude, with `a` the scale (R453). -/
def sliceAxis (b : Nat) (a x : Int) : List Bool :=
  let top : Int := (2 ^ b - 1 : Nat)
  let l := (clampInt 0 top ((x + (top + 1) * a).fdiv (2 * max 1 a))).toNat
  numberBits b (l ^^^ (l / 2))

/-- The bits that a received point of a tone decides (R453, R454). -/
def slicePoint (n : Nat) (x : Cplx) : List Bool :=
  let mi := (n + 1) / 2
  let energy := (2 ^ mi) ^ 2 - 1 + ((2 ^ (n / 2)) ^ 2 - 1)
  let a : Int := if energy = 0 then 0 else isqrt 40 (3 * unitOne * unitOne / energy) 0
  sliceAxis mi a x.re ++ sliceAxis (n / 2) a x.im

/-- The bits that two QPSK axes of each tone decide (R468): a negative one is a 1. -/
def qpskBits (l : List Cplx) : List Bool := l.flatMap fun x => [decide (x.re < 0), decide (x.im < 0)]

/-! ### The coding of a superframe (R458, R459) -/

/-- The scrambler: the PRBS x²³ + x¹⁸ + 1 from all ones, over data, parity and padding. -/
def scramble (bits : List Bool) : List Bool := (bits.zip (lfsr 23 18 bits.length 0x7FFFFF)).map fun e => e.1 != e.2

/-- The Reed–Solomon codeword of 239 bytes. -/
def linkCodeword (data : List Byte) : List Byte :=
  (rsEncode gf256 16 ((data ++ zeros (239 - data.length)).map BitVec.toNat)).map (BitVec.ofNat 8)

/-- Byte j of codeword c goes to position j × N_cw + c (R459). -/
def interleave (ncw : Nat) (words : List (List Byte)) : List Byte :=
  (List.range (255 * ncw)).map fun p => (words.getD (p % ncw) []).getD (p / ncw) 0

/-- The bits of a superframe's payload on the line: codewords of 239 bytes each in order (DEDUCED, log entry 103),
interleaved, padded with zero bits and scrambled. -/
def lineBits (ncw total : Nat) (payload : List Byte) : List Bool :=
  let words := (List.range ncw).map fun c => linkCodeword ((payload.drop (239 * c)).take 239)
  let bits := bitsOfBytes (interleave ncw words)
  scramble (bits ++ List.replicate (total - bits.length) false)

/-- The codewords of a received superframe (R458, R459): the bytes of each and how many were corrected, nothing for one
that failed. -/
def receivedCodewords (ncw : Nat) (bits : List Bool) : List (Option (List Byte × Nat)) :=
  let stream := bytesOfBits (scramble bits)
  (List.range ncw).map fun c =>
    let word := (List.range 255).map fun j => (stream.getD (j * ncw + c) 0).toNat
    (rsDecode gf256 16 [] word).map fun e => ((e.1.take 239).map (BitVec.ofNat 8), e.2)

/-! ### Measuring a tone (R455, R456) -/

/-- An SNR in 0.1 dB from the energy of the points and the variance of their error. -/
def snrTenths (energy variance : Nat) : Nat :=
  if variance = 0 then (if energy = 0 then 0 else 0xFFFE)
  else
    let root (n : Nat) : Nat := isqrt 80 (n * unitOne) 0
    (clampInt 0 0xFFFE (roundDiv (levelOf (root energy) (root variance)) 10)).toNat

/-! ### Launch power (R460, R462) -/

/-- The launch power of an entry in dBm. -/
def launchDbm (entry : Nat) : Int := 4 - 2 * entry

/-- The launch power of an entry, in 2^-32 mW. -/
def launchPower (entry : Nat) : Nat := gainUnit (100 * launchDbm entry) ^ 2 / unitOne

/-- The power of a tone: the launch power divided by the number of unmasked tones, in every symbol but those of a ramp
(R462), in 2^-32 mW. -/
def tonePower (c : PhyCfg) (entry : Nat) : Nat :=
  launchPower entry / max 1 ((List.range 102).filter fun k => !toneMasked c k).length

/-- The amplitude within a ramp of 4 symbols, 768 samples each: a raised cosine (R468). -/
def rampGain (sample : Nat) : Nat := raisedCosine sample 3072

/-! ### Echo cancellation (R462 stages 2 and 3, R465, R467) -/

/-- The replica of the echo at a sample: 96 taps over what was sent, newest first. -/
def echoReplica (fir : List Int) (sent : List Int) : Int := ((fir.zip sent).map fun e => e.1 * e.2).sum / unitOne

/-- A tone of the receive FFT less its residual echo. -/
def cancelTone (coeff sent received : Cplx) : Cplx := cAdd received (cScale (-1) (cMul coeff sent))

/-- A coefficient after one payload symbol (R467): it moves by 2⁻¹² of the error against the decided point, turned by the
point sent (DEDUCED, log entry 101). -/
def adaptTone (coeff sent error : Cplx) : Cplx :=
  let d := cMul error ⟨sent.re, -sent.im⟩
  ⟨coeff.re + Int.tdiv d.re 4096, coeff.im + Int.tdiv d.im 4096⟩

/-- The coefficients after one payload symbol. -/
def adaptTones (coeffs sent errors : List Cplx) : List Cplx :=
  (List.range coeffs.length).map fun k =>
    adaptTone (coeffs.getD k ⟨0, 0⟩) (sent.getD k ⟨0, 0⟩) (errors.getD k ⟨0, 0⟩)

/-- A received symbol less its residual echo, tone by tone. -/
def cancelTones (coeffs sent received : List Cplx) : List Cplx :=
  (List.range received.length).map fun k =>
    cancelTone (coeffs.getD k ⟨0, 0⟩) (sent.getD k ⟨0, 0⟩) (received.getD k ⟨0, 0⟩)

/-- The mean energy of points of a tone in 0.1 dB (R465). -/
def noiseTenths (rows : List (List Cplx)) (k : Nat) : Int :=
  roundDiv (levelOf (isqrt 80 ((rows.map fun l => cNormSq (l.getD k ⟨0, 0⟩)).sum / max 1 rows.length) 0) unitOne) 10

/-- A residual lies within 1.0 dB of the noise of the quiet phase, both in 0.1 dB (R465). -/
def nearQuiet (quiet noise : List Int) (k : Nat) : Bool := (noise.getD k 0 - quiet.getD k 0).natAbs ≤ 10

/-- The unmasked tones whose residual does not. -/
def noisyTones (c : PhyCfg) (quiet noise : List Int) : List Nat :=
  (List.range 102).filter fun k => !toneMasked c k && !nearQuiet quiet noise k

/-! ### Burst headers (R468, R469) -/

/-- Bit m of a header, in byte order, each byte from its most significant bit. -/
def headerBit (header : List Byte) (m : Nat) : Bool := (header.getD (m / 8) 0).getLsbD (7 - m % 8)

/-- The points of header symbol 12 + h: bit m = 96h + j twice, 51 tones apart, on the in-phase axis for an even j; filler on
tones 150 to 152 and 201 to 203. -/
def headerPoints (header : List Byte) (h : Nat) : List TonePoint :=
  (List.range 102).map fun k =>
    let t := k % 51
    if 48 ≤ t then (trainingPoints h).getD k silent
    else qpsk (headerBit header (96 * h + 2 * t)) (headerBit header (96 * h + 2 * t + 1))

/-- The soft values of a bit, one from each copy, added (R469). -/
def headerSoft (soft : List (List Cplx)) (m : Nat) : Int :=
  let h := m / 96
  let j := m % 96
  let at_ (k : Nat) : Int := let x := (soft.getD h []).getD k ⟨0, 0⟩; if j % 2 = 0 then x.re else x.im
  at_ (j / 2) + at_ (51 + j / 2)

/-- The 24 bytes that the two header symbols decide (R469, R470): a negative sum is a one. -/
def headerBytes (soft : List (List Cplx)) : List Byte := bytesOfBits ((List.range 192).map fun m => headerSoft soft m < 0)

/-- The symbols of a burst of N_p payload symbols (R468). -/
inductive BurstPart where
  | rampUp | preamble | preambleEnd | header | payload | rampDown
deriving DecidableEq, Repr

/-- The part that a symbol of a burst belongs to. -/
def burstPart (np symbol : Nat) : BurstPart :=
  if symbol < 4 then .rampUp
  else if symbol < 10 then .preamble
  else if symbol < 12 then .preambleEnd
  else if symbol < 14 then .header
  else if symbol < 14 + np then .payload
  else .rampDown

/-- Codewords of a burst's payload: two bits on each of the 102 tones (R468). -/
def burstCodewords (np : Nat) : Nat := np * 204 / 2040

/-- Payload symbols that carry a message of this many bytes. -/
def burstSymbols (bytes : Nat) : Nat := 10 * ceilDiv bytes 239

/-- The points of a symbol of a burst, all 102 tones whatever the mask (R468, R452): S, its negative, the header, QPSK
payload, and filler in the ramp down. -/
def burstPoints (header payload : List Byte) (np symbol : Nat) : List TonePoint :=
  let negate (p : TonePoint) : TonePoint := { p with i := -p.i, q := -p.q }
  match burstPart np symbol with
  | .rampUp | .preamble => preamblePoints
  | .preambleEnd => preamblePoints.map negate
  | .header => headerPoints header (symbol - 12)
  | .payload => qpskPoints (((lineBits (burstCodewords np) (204 * np) payload).drop (204 * (symbol - 14))).take 204)
  | .rampDown => trainingPoints symbol

/-- The bytes of a received burst's payload (R458, R468): none when a codeword failed. -/
def burstBytes (np : Nat) (bits : List Bool) : Option (List Byte) :=
  (receivedCodewords (burstCodewords np) bits).foldl (fun acc w =>
    match acc, w with
    | some l, some e => some (l ++ e.1)
    | _, _ => none) (some [])

end Sys2Proof.Machine

namespace Sys2Proof

/-- The header of a received burst, decided from its two header symbols (R469). -/
def BurstRx.header (b : BurstRx) : List Byte := Machine.headerBytes b.soft

/-- The bits of its payload symbols (R468). -/
def BurstRx.bits (b : BurstRx) : List Bool := b.payload.flatMap Machine.qpskBits

/-- The round trip in ns (R475): from symbol 110 of the local's superframe to the first −S. -/
def BurstRx.roundTripNs (b : BurstRx) : Nat := b.referenceNs - 550000

/-- The far end's frequency error in parts per billion (R478), from the phase rotation between the symbols S: tone k turns by
1.5 k of it a symbol; the mean over the tones (DEDUCED, log entry 101). -/
def BurstRx.offsetPpb (b : BurstRx) : Int :=
  let turn (k : Nat) : Int := Machine.cArg (Machine.cplxSum ((b.preamble.zip (b.preamble.drop 1)).map fun e =>
    Machine.cMul (e.2.getD k ⟨0, 0⟩) (Machine.cConj (e.1.getD k ⟨0, 0⟩))))
  ((List.range 102).map fun k => Machine.roundDiv (turn k * 2000000000) (3 * (k + 102) * 4294967296)).sum / 102

end Sys2Proof
end

