-- ==== Sys2Proof/Machine/Timebase.lean ====
section
/-! DEFINITION. The move of a remote into the local's time base (01_architecture.md R20): every time that the state of a
remote holds moves by the same number of strokes as its device time, so that what was measured, queued or begun before it
carries the local's time from then on. Blocks that are off in a remote (R19) hold no time of their own. -/

namespace Sys2Proof.Machine

/-- A time moved by d, in the unit of both. -/
def moveTime (d : Int) (t : Nat) : Nat := (t + d).toNat

/-- A time whose 0 stands for none, moved by d. -/
def moveMark (d : Int) (t : Nat) : Nat := if t = 0 then 0 else moveTime d t

/-- Times of an input: `d` in ticks. -/
def moveInput (d : Int) (x : FeInput) : FeInput :=
  { x with
    cfgAt := moveMark d x.cfgAt, noStepAt := x.noStepAt.map (moveTime d), holdEnd := moveMark d x.holdEnd
    recoverFrom := moveTime (25 * d) x.recoverFrom, quietFrom := x.quietFrom.map (moveTime (25 * d))
    frameTs := moveTime (25 * d) x.frameTs }

/-- Times of a converter. -/
def moveConv (d : Int) (v : TemperConv) : TemperConv :=
  { v with
    cfgAt := moveMark d v.cfgAt, intervalFrom := moveTime (25 * d) v.intervalFrom
    lastStart := moveMark (25 * d) v.lastStart, lastEnd := moveMark (25 * d) v.lastEnd
    fgPending := v.fgPending.map (moveTime d), bgPending := v.bgPending.map (moveTime d) }

/-- Times of a logical frame out of its decoder. -/
def moveFrame (d : Int) (m : MscFrame) : MscFrame := { m with ts := moveTime d m.ts }

/-- Times of a subchannel. -/
def moveSubch (d : Int) (u : SubCh) : SubCh :=
  { u with
    beginTs := moveTime d u.beginTs, endTs := moveMark d u.endTs, lastSeen := moveTime d u.lastSeen
    frames := u.frames.map (moveFrame d) }

/-- Times of an ensemble receiver. -/
def moveDab (d : Int) (x : DabRx) : DabRx :=
  { x with
    cifAt := moveTime (25 * d) x.cifAt, frameAt := x.frameAt.map (moveTime (25 * d)), frameEnd := moveTime d x.frameEnd
    area := x.area.map fun c => { c with ts := moveTime d c.ts }
    ready := x.ready.map fun r => { r with ts := moveTime d r.ts, beginTs := moveTime d r.beginTs }
    pastComps := x.pastComps.map fun e => (moveTime d e.1, e.2)
    orgGens := x.orgGens.map fun e => (moveTime d e.1, moveTime (d / 24576) e.2.1, e.2.2)
    subchs := x.subchs.map (moveSubch d), oldSubchs := x.oldSubchs.map (moveSubch d)
    candidates := x.candidates.map fun e => (moveSubch d e.1, e.2)
    units := x.units.map fun w => { w with header := { w.header with timestamp := moveTime d w.header.timestamp } } }

/-- Times of an RDS receiver. -/
def moveRds (d : Int) (x : RdsRx) : RdsRx :=
  { x with groupTs := moveTime d x.groupTs, acquire := x.acquire.map fun e => (moveTime d e.1, e.2) }

/-- Times of a slot-rate sample. -/
def moveSample (d : Int) (v : SlotSample) : SlotSample := { v with time := moveTime (25 * d) v.time }

/-- Times of a synthesis path. -/
def movePath (d : Int) (p : TunerPath) : TunerPath :=
  { p with since := moveMark d p.since, stageSince := moveMark d p.stageSince, queue := p.queue.map (moveSample d) }

/-- Times of a slot. -/
def moveSlot (d : Int) (x : Slot) : Slot :=
  { x with
    settleEnd := moveTime d x.settleEnd, holdEnd := moveMark d x.holdEnd, clearedAt := moveMark d x.clearedAt
    movedAt := moveMark d x.movedAt, bwAt := moveMark d x.bwAt, bwSetAt := x.bwSetAt.map (moveTime d)
    past := x.past.map fun e => (moveTime d e.1, e.2), tunedAt := moveMark d x.tunedAt, detectAt := moveMark d x.detectAt, blockTs := x.blockTs.map (moveTime (25 * d))
    fadeFrom := x.fadeFrom.map (moveTime d)
    liveSpells := x.liveSpells.map fun e => (moveTime d e.1, e.2.map (moveTime d))
    div := { x.div with
      windowTs := moveTime (25 * d) x.div.windowTs, newUntil := x.div.newUntil.map (moveTime (25 * d))
      fallDue := x.div.fallDue.map (moveTime d) }
    pathA := movePath d x.pathA, pathB := movePath d x.pathB
    demod := { x.demod with spanWait := x.demod.spanWait.map (moveSample d) }
    audio := x.audio.map fun a => { a with ts := moveTime (25 * d) a.ts }
    rds := moveRds d x.rds, dab := moveDab d x.dab }

/-- A change of the database that waits; its stroke moves too. -/
def moveChange (d : Int) (c : DbChange) : DbChange :=
  { c with due := moveTime (d / 24576) c.due, ts := moveTime d c.ts
           field := match c.field with | .clock k ts => .clock k (moveTime d ts) | f => f }

/-- Times of a record. -/
def moveRec (d : Int) (r : DbRec) : DbRec :=
  { r with
    firstSeen := moveTime d r.firstSeen, confirmed := moveTime d r.confirmed
    body := match r.body with | .ensemble e => .ensemble { e with clockTs := moveMark d e.clockTs } | b => b }

/-- Times of the database. -/
def moveDb (d : Int) (b : Db) : Db :=
  { b with
    recs := b.recs.map (moveRec d), pending := b.pending.map (moveChange d)
    steppedAt := b.steppedAt.map (moveTime (d / 24576)), lastEvent := b.lastEvent.map (moveTime (d / 24576)) }

/-- Times of the census. -/
def moveCensus (d : Int) (c : Census) : Census :=
  { c with
    visits := c.visits.map fun v => { v with start := moveTime d v.start }
    passes := c.passes.map fun p => { p with start := moveTime d p.start } }

/-- Times of the link and of its PHY. -/
def moveLink (d : Int) (l : Link) : Link := { l with since := moveTime d l.since }

/-- Times of the PHY. -/
def movePhy (d : Int) (p : Phy) : Phy :=
  { p with
    synthSince := moveTime d p.synthSince, commitEnd := moveTime d p.commitEnd, txUntil := moveMark d p.txUntil
    txHeld := p.txHeld.map (moveTime d), answerDue := p.answerDue.map fun e => (moveTime d e.1, e.2) }

/-- Times of the aux controller, of a GPIO and of the trace port. -/
def moveAux (d : Int) (a : Aux) : Aux :=
  { a with
    lastStop := a.lastStop.map (moveTime d)
    xfer := a.xfer.map fun x => { x with waitFrom := moveTime d x.waitFrom } }

def moveGpio (d : Int) (g : Gpio) : Gpio :=
  { g with candidate := g.candidate.map fun e => (e.1, moveTime d e.2), firstEdge := moveTime d g.firstEdge }

def moveTrace (d : Int) (t : Trace) : Trace :=
  { t with clockFrom := moveTime d t.clockFrom, restartAt := t.restartAt.map (moveTime d)
           happened := t.happened.map fun e => (moveTime d e.1, e.2) }

/-- Every time of the state moves by `n` strokes (R20). -/
def shiftTime (n : Int) (s : State) : State :=
  let d : Int := 24576 * n
  { s with
    now := moveTime d s.now
    host := { s.host with hostqAt := moveTime d s.host.hostqAt }
    ops := s.ops.map fun o => o.map fun a => { a with since := moveTime d a.since }
    accepted := s.accepted.map fun a => { a with applyStroke := moveTime n a.applyStroke }
    history := s.history.map fun h => { h with applyStroke := moveTime n h.applyStroke }
    faults := s.faults.map fun f => { f with timestamp := moveTime d f.timestamp }
    evq := s.evq.map fun e => { e with timestamp := moveTime d e.timestamp }
    resetAt := s.resetAt.map (moveTime n)
    power := { s.power with onSince := s.power.onSince.map (moveMark n) }
    inputs := s.inputs.map (moveInput d), convs := s.convs.map (moveConv d), slots := s.slots.map (moveSlot d)
    side := { s.side with past := s.side.past.map fun e => (moveTime d e.1, e.2) }
    db := moveDb d s.db, census := moveCensus d s.census
    dispatch := { s.dispatch with accruedTo := moveTime d s.dispatch.accruedTo }
    link := moveLink d s.link, phy := movePhy d s.phy, aux := moveAux d s.aux, gpio := s.gpio.map (moveGpio d)
    trace := moveTrace d s.trace
    latch := { s.latch with stroke := moveTime n s.latch.stroke } }

/-- In the remote the device time is the local's from the first superframe of RUN (R20): the superframe that the local
named begins now, at a boundary whose rules are still to be evaluated. -/
def alignTime (n : Nat) (s : State) : State :=
  let t := shiftTime ((n : Int) - (s.now / 24576 : Nat)) s
  { t with now := n * 24576, latch := { t.latch with stroke := n - 1 } }

end Sys2Proof.Machine
end

