-- ==== Sys2Proof/Machine/Phy.lean ====
section
/-! DEFINITION. The Coax Link PHY and the training states: bit loading, launch power, bursts and discovery, the link
synthesiser, echo training, and the local's and the remote's way from OFF to RUN (13_link_phy.md,
14_split_operation.md R487 to R493). -/

namespace Sys2Proof.Machine

/-! ### Time on the link -/

/-- A whole number of microseconds has passed since a device time (24.576 ticks each). -/
def usPassed (s : State) (since us : Nat) : Bool := us * 24576 ≤ (s.now - since) * 1000
/-- Ticks of a number of microseconds, rounded up. -/
def ticksOfUs (us : Nat) : Nat := ceilDiv (us * 24576) 1000
/-- Microseconds of a number of ticks, rounded down. -/
def usOfTicks (t : Nat) : Nat := t * 1000 / 24576
/-- The superframe the device is in: superframe n begins at device time n × 24,576 (R450). -/
def superframe (s : State) : Nat := s.now / 24576
/-- A LINK packet (R540): what happened, a detail that the spec does not give (log entry 133), and the superframe count. -/
def noteLink (kind : Nat) (s : State) : State :=
  noteTrace s.now 10
    [BitVec.ofNat 32 (kind * 2 ^ 24 + (Config.linkDetail kind s.now s.trace.happened.length).toNat), BitVec.ofNat 32 (superframe s)] s
/-- A superframe boundary. -/
def atSuperframe (s : State) : Bool := s.now % 24576 == 0
/-- The device is the remote end of the link: confirmed, or strapped for link boot (R122). -/
def remoteEnd (s : State) : Bool := isRemote s || (s.host.role == roleNone && s.host.bootsel == 2)

/-! ### Bit loading (R453 to R459) -/

/-- The SNR threshold of B bits in 0.1 dB (R455). -/
def loadThreshold (b : Nat) : Nat :=
  match b with
  | 1 => 98 | 2 => 146 | 3 => 186 | 4 => 216 | 5 => 250 | 6 => 278
  | 7 => 311 | 8 => 339 | 9 => 372 | 10 => 399 | 11 => 432 | 12 => 459
  | _ => 0

/-- The largest B whose threshold the SNR less the margin meets, 0 when none is met (R455). -/
def bitsFor (margin snr : Nat) : Nat :=
  ((List.range 13).filter fun b => 1 ≤ b && margin + loadThreshold b ≤ snr).foldl max 0

/-- The bit table of a direction from the SNR of its tones (R455). -/
def loadTable (c : PhyCfg) (snr : List Nat) : List Nat :=
  (List.range 102).map fun k => if toneMasked c k then 0 else bitsFor c.margin (snr.getD k 0)

/-- A table with its masked tones at 0 and no tone above 12 bits (R453, R455). -/
def maskTable (c : PhyCfg) (t : List Nat) : List Nat :=
  (List.range 102).map fun k => if toneMasked c k then 0 else min 12 (t.getD k 0)

/-- The table of LOAD: 2 bits on every unmasked tone (R489). -/
def loadPhaseTable (c : PhyCfg) : List Nat := (List.range 102).map fun k => if toneMasked c k then 0 else 2

/-- `B_sym` (R459). -/
def bSym (t : List Nat) : Nat := t.sum
/-- Codewords of a superframe with a number of payload symbols (R459, R482). -/
def codewords (symbols bsym : Nat) : Nat := symbols * bsym / 2040
/-- Net payload in bytes (R459). -/
def netBytes (symbols bsym : Nat) : Nat := codewords symbols bsym * 239

/-- Payload symbols of a direction: 199, or 31 for the local and 151 for the remote in half duplex (R459, R482). -/
def payloadSymbols (half fromRemote : Bool) : Nat := if !half then 199 else if fromRemote then 151 else 31

/-- Net payload of the direction from the remote to the local with a pair of tables of this device. -/
def downNet (s : State) (bTx bRx : List Nat) : Nat :=
  netBytes (payloadSymbols s.phy.half true) (bSym (if isLocal s then bRx else bTx))
/-- Net payload of the direction from the local to the remote. -/
def upNet (s : State) (bTx bRx : List Nat) : Nat :=
  netBytes (payloadSymbols s.phy.half false) (bSym (if isLocal s then bTx else bRx))

/-- A layout fits when the downstream stream and the upstream bulk windows hold at least 256 bytes (R493). -/
def layoutFits (s : State) (bTx bRx : List Nat) : Bool :=
  s.link.downCtl + s.link.downBulk + 256 ≤ downNet s bTx bRx && s.link.upCtl + 256 ≤ upNet s bTx bRx

/-- The windows that take the remainder of their direction (R492). -/
def fitWindows (s : State) : State :=
  { s with link := { s.link with
      downStream := downNet s s.phy.bTx s.phy.bRx - s.link.downCtl - s.link.downBulk
      upBulk := upNet s s.phy.bTx s.phy.bRx - s.link.upCtl } }

/-- The margins of the loaded tones in reception, with their indices, in 0.1 dB (R456). -/
def toneMargins (p : Phy) : List (Nat × Int) :=
  ((List.range 102).filter fun k => 0 < p.bRx.getD k 0).map fun k =>
    (k, (p.snr.getD k 0 : Int) - loadThreshold (p.bRx.getD k 0))

/-- Tones whose margin has fallen below `margin_min_cdb` (R456). -/
def lowTones (p : Phy) : List Nat := ((toneMargins p).filter fun e => e.2 < (p.cfg.marginMin : Int)).map (·.1)

/-- Tones that a proposal may raise by one bit, highest margin first (R456): unmasked, B below 12, a margin of at least
`margin_cdb` + 3.0 dB, and a new margin not below `margin_cdb`. A tone with no bits has the margin of its SNR. -/
def raisable (p : Phy) : List Nat :=
  let all := (List.range 102).filter fun k => !toneMasked p.cfg k && p.bRx.getD k 0 < 12
  let withMargin := all.map fun k => (k, (p.snr.getD k 0 : Int) - loadThreshold (p.bRx.getD k 0))
  let good := withMargin.filter fun e =>
    (p.cfg.margin : Int) + 30 ≤ e.2 && (p.cfg.margin : Int) + loadThreshold (p.bRx.getD e.1 0 + 1) ≤ p.snr.getD e.1 0
  (sortBy (fun a b => b.2 ≤ a.2) good).map (·.1)

/-- The table that a bit-swap proposes (R456). -/
def proposal (p : Phy) : List Nat :=
  let low := lowTones p
  let up := ((raisable p).filter fun k => !low.contains k).take low.length
  (List.range 102).map fun k =>
    let b := p.bRx.getD k 0
    if low.contains k then b - 1 else if up.contains k then b + 1 else b

/-! ### Settings (R484, R485, R488, R509) -/

/-- Parses `LINK_SET` (R488, 15 bytes). -/
def parseLinkSet (p : List Byte) : Option LinkCfg :=
  let c : LinkCfg := ⟨getU 2 0 p, getU 2 2 p, getU 2 4 p, BitVec.ofNat 64 (getU 8 6 p), getU 1 14 p == 1⟩
  let ok (n : Nat) : Bool := 256 ≤ n && n ≤ 8192
  if p.length = 15 ∧ ok c.downCtl ∧ ok c.downBulk ∧ ok c.upCtl ∧ getU 1 14 p ≤ 1 then some c else none

/-- An optional GPIO of R484 and R509: 0 to 7, or 0xFF for none. -/
def parseGpioField (n : Nat) : Option (Option (Fin 8)) := if n = 0xFF then some none else (finOf 8 n).map some

/-- Parses `LINK_FEED_SET` (R509, 3 bytes). -/
def parseFeed (p : List Byte) : Option FeedCfg :=
  match parseGpioField (getU 1 0 p) with
  | some g => if p.length = 3 ∧ getU 1 1 p ≤ 1 ∧ getU 1 2 p ≤ 1 then some ⟨g, getU 1 1 p == 1, getU 1 2 p == 1⟩ else none
  | none => none

/-- The number of masked tones. -/
def maskedTones (c : PhyCfg) : Nat := ((List.range 102).filter (toneMasked c)).length

/-- Parses `LINK_PHY_SET` (R484, R485, 28 bytes): `device`, the parameters and `recal`. -/
def parsePhySet (p : List Byte) : Option (Bool × PhyCfg × Bool) :=
  match parseGpioField (getU 1 23 p) with
  | none => none
  | some g =>
    let c : PhyCfg :=
      { powerIndex := getU 1 1 p, term75 := getU 1 2 p == 1, duplex := getU 1 3 p, margin := getU 2 4 p
        marginMin := getU 2 6 p, toneMask := BitVec.ofNat 102 (getU 13 8 p), beaconStart := getU 1 21 p
        beaconPeriod := getU 1 22 p, trGpio := g, trLow := getU 1 24 p == 1, trLeadUs := getU 1 25 p, trLagUs := getU 1 26 p }
    if p.length = 28 ∧ getU 1 0 p ≤ 1 ∧ c.powerIndex ≤ 15 ∧ getU 1 2 p ≤ 1 ∧ c.duplex ≤ 2 ∧ c.margin ≤ 150
        ∧ c.marginMin ≤ c.margin ∧ getU 13 8 p < 2 ^ 102 ∧ maskedTones c ≤ 92 ∧ c.beaconStart ≤ 15
        ∧ c.powerIndex ≤ c.beaconStart ∧ 1 ≤ c.beaconPeriod ∧ c.beaconPeriod ≤ 100 ∧ getU 1 24 p ≤ 1 ∧ c.trLeadUs ≤ 10
        ∧ c.trLagUs ≤ 10 ∧ getU 1 27 p ≤ 1 then
      some (getU 1 0 p == 1, c, getU 1 27 p == 1)
    else none

/-- The payload of a `LINK_PHY_SET` with these values, for the device that takes it. -/
def phySetBytes (c : PhyCfg) : List Byte :=
  u8 0 ++ u8 c.powerIndex ++ uBool c.term75 ++ u8 c.duplex ++ u16 c.margin ++ u16 c.marginMin ++ leBytes 13 c.toneMask.toNat
    ++ u8 c.beaconStart ++ u8 c.beaconPeriod ++ u8 (match c.trGpio with | some g => g.val | none => 0xFF) ++ uBool c.trLow
    ++ u8 c.trLeadUs ++ u8 c.trLagUs ++ u8 0

/-- The fields of `LINK_PHY_SET` that act from the next entry to BEACON, taken from `b` (R484). -/
def takeHeld (b c : PhyCfg) : PhyCfg :=
  { c with
    powerIndex := b.powerIndex, term75 := b.term75, duplex := b.duplex, toneMask := b.toneMask
    beaconStart := b.beaconStart, beaconPeriod := b.beaconPeriod }

/-- The values that `LINK_PHY_SET` last set: those in force with the held fields over them. -/
def phySetting (p : Phy) : PhyCfg := match p.pending with | some q => takeHeld q p.cfg | none => p.cfg

/-- The synthesiser takes a state (R477). -/
def enterSynth (st : SynthState) (s : State) : State := { s with phy := { s.phy with synth := st, synthSince := s.now } }

/-- `LINK_PHY_SET` applies on this device (R484): while the link is not OFF the fields of the next BEACON are held. -/
def applyPhySet (c : PhyCfg) (recal : Bool) (s : State) : State :=
  let p := s.phy
  let s1 :=
    if s.link.state = .off then { s with phy := { p with cfg := c, pending := none } }
    else { s with phy := { p with
      cfg := takeHeld p.cfg c
      pending := if takeHeld p.cfg c = c then none else some c } }
  if recal ∧ s.phy.synth ≠ .off then enterSynth .cal s1 else s1

/-- The local holds the remote's values (R484). -/
def applyRemotePhySet (c : PhyCfg) (s : State) : State := { s with phy := { s.phy with remoteCfg := c } }

/-! ### Training states (R489, R490) -/

/-- The codes of R489. -/
def linkCode : LinkState → Nat
  | .off => 0 | .beacon => 1 | .handshake => 2 | .echoTrain => 3 | .measure => 4 | .load => 5 | .run => 6 | .halfDuplex => 7

/-- The reasons of R490. -/
def reasonStart : Nat := 1
def reasonStop : Nat := 2
def reasonAuth : Nat := 3
def reasonEcho : Nat := 4
def reasonCableDelay : Nat := 5
def reasonTimeout : Nat := 6
def reasonCapacity : Nat := 7
def reasonSync : Nat := 8
def reasonFeed : Nat := 9

/-- What the PHY takes on entry to a state. -/
def phyOnEntry (new : LinkState) (p : Phy) : Phy :=
  match new with
  | .beacon =>
    let c := phySetting p
    { p with
      cfg := c, pending := none, half := false, powerNow := c.beaconStart, beaconsSent := 0, cableDelayNs := none
      armed := false, reception := none, answerDue := none, fracHeld := false, phaseErr := none, txHeld := none, rxWords := [], rxAt := 0
      txPayload := [], txFill := Vector.replicate 3 [] }
  | .off => { p with trainSf := 0, half := false, armed := false, reception := none, answerDue := none, txHeld := none }
  | .echoTrain =>
    { p with echo := .quiet, echoSfs := 0, echoOk := 0, echoLimited := 0, farEchoLimited := 0, trainSf := 0, trainRx := 0, residual := [] }
  | .halfDuplex => { p with half := true, trainSf := 0, trainRx := 0 }
  | .measure => { p with measured := 0, tonePower := [] }
  | .load => { p with bTx := loadPhaseTable p.cfg, bRx := loadPhaseTable p.cfg }
  | .run => { p with bTx := p.nextTx, bRx := p.nextRx, lowRuns := List.replicate 102 0, tonePower := [] }
  | .handshake => p

/-- The launch entry from HANDSHAKE on: `power_index` in the local, the `target_index` of the last beacon answered in
the remote (R476). -/
def trainedPower (s : State) : Nat := if remoteEnd s then s.phy.targetIndex else s.phy.cfg.powerIndex

/-- What the link layer takes on entry to a state: the windows from the settings at LOAD (R488), nothing in transit
outside RUN, and no pairing in BEACON and OFF. -/
def linkOnEntry (new : LinkState) (l : Link) : Link :=
  let l1 := { l with
    winLeft := Vector.replicate 3 0, pair := Pairing.reset, fillLast := none, unacked := [], rx := [], swapTx := none, swapRx := none
    parts := [], cancels := [], bundles := [], resyncIn := [], partsIn := [], imageIn := none, mirroring := false, lcOut := [], lbOut := [], aac := [], ratesTold := none, syncFails := 0, syncLost := false, runAt := none, outageDue := none }
  match new with
  | .off | .beacon => { l1 with remoteSerial := 0, remoteStage := 0, stageReported := 0, downStream := 0, upBulk := 0 }
  | .halfDuplex => { l1 with hdLocal := 0, hdRemote := 0 }
  | .load => { l1 with downCtl := l.cfg.downCtl, downBulk := l.cfg.downBulk, upCtl := l.cfg.upCtl }
  | .run => { l1 with ctlSeqTx := 0, ctlSeqRx := 0, streamSeq := [] }
  | _ => l1

/-- Pairing as HANDSHAKE begins (R143): a nonce is drawn, and the certificate goes out with it, in the local the settings
that it holds for the remote after it (R484). -/
def openPairing (s : State) : Pairing :=
  let nonce := freeBytes s 32
  { Pairing.reset with
    ownNonce := nonce
    outbox := .certificate (s.boot.phase == .linkBoot) nonce s.otp.cert
      :: (if remoteEnd s then [] else [.message (phySetBytes s.phy.remoteCfg)]) }

/-- The channels whose forwarded request waits for the remote. -/
def waitsForRemote (s : State) (ch : Fin 4) : Bool :=
  match opOf s ch with
  | some o => (match o.op with | .forwarded _ _ => true | _ => false)
  | none => false

/-- A forwarded request that has had no response when the link leaves RUN ends with `ST_BAD_STATE` (R502). -/
def dropForwarded (s : State) : State :=
  (List.finRange 4).foldl (fun s ch => if waitsForRemote s ch then respond ch .badState [] s else s) s

/-- The link takes a state for a reason (R489, R490): what each end sets on entry, `EV_LINK_STATE`, and the link queues
as R427 has them. In the remote the transaction parts it holds are discarded when RUN is left (R505). -/
def setLinkState (new : LinkState) (reason : Nat) (s : State) : State :=
  let old := s.link.state
  let s0 := if old = .run then dropForwarded s else s
  let s1 := noteLink 4 <| noteState s.now 7 0 (linkCode old) (linkCode new) { s0 with
    phy := if new = .handshake then { phyOnEntry new s0.phy with powerNow := trainedPower s0 } else phyOnEntry new s0.phy
    link := { linkOnEntry new s0.link with
      state := new, lastReason := reason, since := s0.now
      pair := if new = .handshake then openPairing s0 else Pairing.reset }
    freeNext := if new = .handshake then s0.freeNext + 32 else s0.freeNext
    xq := { s0.xq with linkqT := if new = .load ∨ new = .run then 8 else 0 } }
  let s2 := if new = .run then fitWindows s1 else s1
  refreshQueues (queueEvent s2 evLinkState 0xFFFF
    (u8 (linkCode old) ++ u8 (linkCode new) ++ u8 reason ++ zeros 1 ++ opt16 s2.phy.cableDelayNs ++ zeros 2
      ++ u64 s2.link.remoteSerial.toNat))

/-- A failure or an outage: to BEACON, or to OFF when `auto_retrain` is 0 (R488); a remote waits in BEACON (R122). -/
def linkDown (reason : Nat) (s : State) : State :=
  setLinkState (if s.link.cfg.autoRetrain || remoteEnd s then .beacon else .off) reason s

/-- `LINK_START` (R487). -/
def applyLinkStart (s : State) : State := setLinkState .beacon reasonStart s

/-! ### The synthesiser (R477 to R481) -/

/-- PD7 comes on: the synthesiser calibrates; it goes off: everything stops (R477). -/
def synthPower (on : Bool) (s : State) : State := if on then enterSynth .cal s else enterSynth .off s

/-- SYNTH_CAL_DONE: 200 µs after entry to CAL the synthesiser settles (R477). -/
def execSynthCalDone (s : State) : Out :=
  if s.phy.synth = .cal ∧ usPassed s s.phy.synthSince 200 then .next (enterSynth .settle s) else .next s

/-- SYNTH_LOCKED: 40 µs after entry to SETTLE the synthesiser is LOCKED; a request that was held goes out at the next
position its schedule allows, where `tx_held_us` is recorded (R477, R480). -/
def execSynthLocked (s : State) : Out :=
  if s.phy.synth = .settle ∧ usPassed s s.phy.synthSince 40 then .next (enterSynth .locked s) else .next s

/-- This end's turn of a half-duplex superframe: symbols 0 to 39 for the local, 40 to 199 for the remote (R482). -/
def ownTurn (s : State) : Bool :=
  let pos := s.now % 24576 * 200
  if remoteEnd s then 40 * 24576 ≤ pos else pos < 40 * 24576

/-- The device transmits: a burst, its phase of ECHO_TRAIN, or superframes in its turn. -/
def transmittingNow (s : State) : Bool :=
  s.now < s.phy.txUntil ||
    (s.phy.synth == .locked &&
      match s.link.state with
      | .echoTrain => s.phy.echo == (if remoteEnd s then .remotePhase else .localPhase)
      | .halfDuplex => ownTurn s
      | .measure | .load | .run => !s.phy.half || ownTurn s
      | _ => false)

/-- The end of a ramp of 4 symbols from the next symbol boundary (R481). -/
def rampEnd (now : Nat) : Nat := ceilDiv ((ceilDiv (now * 25) 3072 + 4) * 3072) 25

/-- SYNTH_UNLOCK: the lock detector has failed for 4 µs; a transmission in progress is abandoned and counted (R477,
R481). -/
def execSynthUnlock (s : State) : Out :=
  if s.phy.synth = .locked then
    let s1 := enterSynth .settle s
    if transmittingNow s then
      .next { s1 with phy := { s1.phy with txUntil := rampEnd s.now, txPayload := [], txAborted := bump s1.phy.txAborted 1 } }
    else .next s1
  else .next s

/-- A transmit request made while the synthesiser is not LOCKED is held from its first moment (R480). -/
def holdRequest (at_ : Nat) (s : State) : State :=
  { s with phy := { s.phy with txHeld := some (s.phy.txHeld.getD at_) } }

/-- A request goes out: the time it was held is recorded (R480). -/
def releaseRequest (s : State) : State :=
  { s with phy := { s.phy with
      txHeldUs := match s.phy.txHeld with | some t => min 65535 (usOfTicks (s.now - t)) | none => 0
      txHeld := none } }

/-- TX_REQUEST_TIMEOUT: 1 ms after a held request the synthesiser is still not locked; nothing is emitted and the
request is counted (R480). -/
def execTxRequestTimeout (s : State) : Out :=
  match s.phy.txHeld with
  | some t =>
    if s.phy.synth ≠ .locked ∧ t + 24576 ≤ s.now then
      .next { s with phy := { s.phy with txHeld := none, answerDue := none, txNotLocked := bump s.phy.txNotLocked 1 } }
    else .next s
  | none => .next s

/-! ### Bursts (R468 to R476) -/

/-- Ticks of the symbols of a burst or of a part of one: 122.88 each, rounded up (R450). -/
def symbolTicks (n : Nat) : Nat := ceilDiv (n * 24576) 200

/-- The 24 header bytes of a burst (R470). -/
def burstHeader (kind : Nat) (fromRemote : Bool) (power target : Nat) (serial : Dword) (seq : Half) (np : Nat)
    (heard : Option Int) (sf : Nat) : List Byte :=
  let b := u8 kind ++ uBool fromRemote ++ u8 power ++ u8 target ++ u64 serial.toNat ++ u16 seq.toNat ++ u16 np
    ++ optS16 heard ++ u32 sf
  b ++ u16 (crc16 b).toNat

/-- A burst goes out from a symbol of the superframe on: its header, its payload, its length in symbols, and `burst_seq`
(R468, R470). -/
def sendBurstAt (symbol kind power target : Nat) (payload : List Byte) (sf : Nat) (s : State) : State :=
  let np := burstSymbols payload.length
  let h := burstHeader kind (remoteEnd s) power target s.otp.serial s.phy.burstSeq np s.phy.rxLevel sf
  releaseRequest { s with phy := { s.phy with
    burstSeq := s.phy.burstSeq + 1, sentHeader := h, sentPayload := payload, txUntil := s.now + symbolTicks (symbol + 18 + np) } }

/-- A burst with no payload goes out now. -/
def sendBurst (kind power target sf : Nat) (s : State) : State := sendBurstAt 0 kind power target [] sf s

/-- Symbol k of the burst sent last (R468). -/
def sentBurst (p : Phy) (symbol : Nat) : List TonePoint :=
  burstPoints p.sentHeader p.sentPayload (getU 2 14 p.sentHeader) symbol

/-- The bytes of a handshake message (log entry 40). -/
def messageBytes : BurstPayload → List Byte
  | .none => []
  | .certificate wants nonce der => u8 1 ++ uBool wants ++ u16 der.length ++ nonce ++ der
  | .signature sig => u8 2 ++ sig
  | .verdict ok half => u8 3 ++ uBool ok ++ uBool half
  | .message b => u8 4 ++ u16 b.length ++ b

/-- The message that the payload of a burst spells. -/
def readMessage (b : List Byte) : BurstPayload :=
  match getU 1 0 b with
  | 1 => .certificate (getU 1 1 b == 1) ((b.drop 4).take 32) ((b.drop 36).take (getU 2 2 b))
  | 2 => .signature ((b.drop 1).take 64)
  | 3 => .verdict (getU 1 1 b == 1) (getU 1 2 b == 1)
  | 4 => .message ((b.drop 3).take (getU 2 1 b))
  | _ => .none

/-- The superframe at which the beacons of the present BEACON state begin. -/
def beaconOrigin (s : State) : Nat := ceilDiv s.link.since 24576

/-- BEACON_TX (R473): the local's beacon at symbol 0 of every `beacon_period`-th superframe, held while the synthesiser
is not LOCKED; after every 8 the launch entry falls by one down to `power_index`. -/
def execBeaconTx (s : State) : Out :=
  if s.link.state = .beacon ∧ !remoteEnd s ∧ atSuperframe s ∧ beaconOrigin s ≤ superframe s
      ∧ (superframe s - beaconOrigin s) % s.phy.cfg.beaconPeriod = 0 then
    if s.phy.synth ≠ .locked then .next (holdRequest s.now s)
    else
      let s1 := sendBurst 1 s.phy.powerNow s.phy.remoteCfg.powerIndex (superframe s) s
      let n := s.phy.beaconsSent + 1
      .next { s1 with phy := { s1.phy with
        beaconsSent := n % 8
        powerNow := if n = 8 ∧ s1.phy.cfg.powerIndex < s1.phy.powerNow then s1.phy.powerNow - 1 else s1.phy.powerNow } }
  else .next s

/-- BEACON_ANSWER_TX (R474): the remote's answer at symbol 100 of the local's superframe, at the entry the beacon
carried, held while the synthesiser is not LOCKED. -/
def execBeaconAnswerTx (s : State) : Out :=
  match s.phy.answerDue with
  | some (due, power, sf) =>
    if s.link.state = .beacon ∧ remoteEnd s ∧ due ≤ s.now then
      if s.phy.synth ≠ .locked then .next (holdRequest due s)
      else
        let s1 := sendBurst 2 power 0xFF sf s
        .next { s1 with phy := { s1.phy with answerDue := none } }
    else .next s
  | none => .next s

/-- The states in which the devices talk in bursts. -/
def burstState (s : State) : Bool := s.link.state == .beacon || s.link.state == .handshake

/-- PREAMBLE_DETECT (R471, R472): a peak arms the search and begins reception; one at least 6 dB above the strongest of the
preamble in reception restarts it, and one stronger than a committed burst is lost. -/
def execPreambleDetect (samples : List Int) (s : State) : Out :=
  let p := s.phy
  if !burstState s || transmittingNow s || p.synth == .off then .next s
  else match preamblePeak samples with
    | none => .next s
    | some peak =>
      if s.now < p.commitEnd then
        (if p.commitPeak < peak then .next { s with phy := { p with captureLost := bump p.captureLost 1 } } else .next s)
      else match p.reception with
        | none => .next { s with phy := { p with armed := true, reception := some peak } }
        | some q =>
          if q + 60 ≤ peak then
            .next { s with phy := { p with reception := some peak, captureRestarts := bump p.captureRestarts 1 } }
          else .next { s with phy := { p with reception := some (max q peak) } }

/-- The header's own CRC (R470). -/
def headerCrcOk (h : List Byte) : Bool := (crc16 (h.take 22)).toNat == getU 2 22 h

/-- The remote takes a beacon (R474, R478), if its frequency lies in the pull-in range of 200 ppm: its level and entries, the frequency step (above 50 ppm the synthesiser
settles), and an answer at symbol 100 of the superframe whose symbol 14 is now. -/
def takeBeacon (b : BurstRx) (s : State) : State :=
  if 200000 < b.offsetPpb.natAbs then s
  else
  let s1 := { s with phy := { s.phy with
    targetIndex := getU 1 3 b.header, rxLevel := some b.level, fracPpb := s.phy.fracPpb + b.offsetPpb
    answerDue := some (s.now + symbolTicks 86, getU 1 2 b.header, getU 4 18 b.header) } }
  if 50000 < b.offsetPpb.natAbs then enterSynth .settle s1 else s1

/-- The local takes an answer (R475): the cable delay, then HANDSHAKE, or back with the reason `CABLE_DELAY`. -/
def takeAnswer (b : BurstRx) (s : State) : State :=
  let s1 := { s with phy := { s.phy with rxLevel := some b.level } }
  if 800 < b.roundTripNs then linkDown reasonCableDelay s1
  else setLinkState .handshake reasonStart { s1 with phy := { s1.phy with cableDelayNs := some (b.roundTripNs / 2) } }

/-- The launch entry and the target entry of a handshake burst (R470, R476). -/
def handshakeTarget (s : State) : Nat := if remoteEnd s then 0xFF else s.phy.remoteCfg.powerIndex

/-- A handshake burst: the local's from symbol 0 of a superframe, the remote's from symbol 100 (R476). -/
def sendMessage (m : BurstPayload) (s : State) : State :=
  sendBurstAt (if remoteEnd s then 100 else 0) 3 s.phy.powerNow (handshakeTarget s) (messageBytes m) (superframe s) s

/-- The pairing replaced by a function of it. -/
def modPair (f : Pairing → Pairing) (s : State) : State := { s with link := { s.link with pair := f s.link.pair } }

/-- A verification failed (R144): the far device is told, and this one returns to BEACON with the reason `AUTH`. -/
def failPairing (s : State) : State := linkDown reasonAuth (sendMessage (.verdict false false) s)

/-- The serial numbers of the local and the remote, with the far one given. -/
def pairSerials (s : State) (far : Nat) : Nat × Nat :=
  if remoteEnd s then (far, s.otp.serial.toNat) else (s.otp.serial.toNat, far)

/-- The transcript that both devices sign (R143). -/
def pairTranscript (s : State) : List Byte :=
  let p := s.link.pair
  let (l, r) := pairSerials s s.link.remoteSerial.toNat
  if remoteEnd s then transcript p.farNonce p.ownNonce l r else transcript p.ownNonce p.farNonce l r

/-- The link goes HALF_DUPLEX after pairing: by the local's `duplex`, as the local announces it to the remote (R489). -/
def pairHalf (s : State) : Bool := if remoteEnd s then s.link.pair.farHalf else s.phy.cfg.duplex == 2

/-- Pairing has passed on both sides, and all that this side had to say is said: ECHO_TRAIN, or HALF_DUPLEX (R489). -/
def advancePairing (s : State) : State :=
  let p := s.link.pair
  if s.link.state = .handshake ∧ p.sigOk ∧ p.farOk ∧ p.outbox.isEmpty then
    setLinkState (if pairHalf s then .halfDuplex else .echoTrain) reasonStart s
  else s

/-- The far certificate and nonce (R143, R144): the certificate verifies against the CA key in ROM, names the device that
sent it, and in the local the device that is pinned; the transcript is signed. -/
def takeCertificate (far : Nat) (wants : Bool) (nonce der : List Byte) (s : State) : State :=
  let pinned := s.link.cfg.pinned.toNat
  match readCert der with
  | none => failPairing s
  | some c =>
    if !certVerifies s.rom c || c.serial != far || nonce.length != 32 || !(remoteEnd s || pinned == 0 || pinned == far) then
      failPairing s
    else
      let s1 := modPair (fun p => { p with farNonce := nonce, farKey := c.key, certOk := true })
        { s with link := { s.link with remoteSerial := BitVec.ofNat 64 far, wantsImage := wants } }
      modPair (fun p => { p with outbox := p.outbox ++ [.signature (deviceSign s1 (pairTranscript s1))] })
        { s1 with freeNext := s1.freeNext + 1 }

/-- The far signature over the transcript (R143); the local announces what follows with its verdict. -/
def takeSignature (sig : List Byte) (s : State) : State :=
  let p := s.link.pair
  if !p.certOk then s
  else if ecdsaVerify p.farKey (sha256 (pairTranscript s)) sig then
    modPair (fun p => { p with sigOk := true, outbox := p.outbox ++ [.verdict true (s.phy.cfg.duplex == 2)] }) s
  else failPairing s

/-- A burst of handshake data (R143, R144, R476): the remote follows into HANDSHAKE on the first; a failure on either side
leads both back to BEACON with the reason `AUTH`. -/
def takeHandshake (b : BurstRx) (s : State) : State :=
  let s0 := { s with phy := { s.phy with rxLevel := some b.level } }
  let s1 := if s.link.state = .beacon ∧ remoteEnd s then setLinkState .handshake reasonStart s0 else s0
  if s1.link.state ≠ .handshake then s
  else match burstBytes (getU 2 14 b.header) b.bits with
    | none => s1
    | some bytes =>
      match readMessage bytes with
      | .certificate wants nonce der => takeCertificate (getU 8 4 b.header) wants nonce der s1
      | .signature sig => takeSignature sig s1
      | .verdict true half => advancePairing (modPair (fun p => { p with farOk := true, farHalf := half }) s1)
      | .verdict false _ => linkDown reasonAuth s1
      | .message m =>
        (match remoteEnd s1, parsePhySet m with
        | true, some (_, c, _) => applyPhySet c false s1
        | _, _ => s1)
      | .none => s1

/-- A superframe of HANDSHAKE: the next message goes out, or pairing is over (R476). -/
def handshakeWork (s : State) : State :=
  match s.link.pair.outbox with
  | m :: rest => modPair (fun p => { p with outbox := rest }) (sendMessage m s)
  | [] => advancePairing s

/-- A burst whose header passed, by its type (R470). -/
def takeBurst (b : BurstRx) (s : State) : State :=
  let kind := getU 1 0 b.header
  if kind = 1 then (if s.link.state = .beacon ∧ remoteEnd s then takeBeacon b s else s)
  else if kind = 2 then (if s.link.state = .beacon ∧ !remoteEnd s then takeAnswer b s else s)
  else if kind = 3 then takeHandshake b s
  else s

/-- BURST_RX (R471, R472): a header whose CRC fails ends the reception and leaves the search armed; one that passes is
committed until the burst's last symbol, and a burst of the receiver's own role is discarded. -/
def execBurstRx (b : BurstRx) (s : State) : Out :=
  let p := s.phy
  match p.reception with
  | none => .next s
  | some peak =>
    if !burstState s || s.now < p.commitEnd then .next s
    else if !headerCrcOk b.header then
      .next { s with phy := { p with reception := none, preambleFalse := bump p.preambleFalse 1 } }
    else
      let s1 := { s with phy := { p with
        armed := false, reception := none, commitPeak := peak
        commitEnd := s.now + symbolTicks (getU 2 14 b.header + 4) } }
      if (getU 1 1 b.header == 1) == remoteEnd s then
        .next { s1 with phy := { s1.phy with foreignBursts := bump p.foreignBursts 1 } }
      else .next (takeBurst b s1)

/-! ### Superframes and training (R450, R455, R464 to R467, R479, R489, R491) -/

/-- The states in which the far device sends a sync symbol on every superframe. -/
def syncState (s : State) : Bool :=
  s.link.state == .measure || s.link.state == .load || s.link.state == .run || s.link.state == .halfDuplex

/-- The sync symbol of a superframe (R479, R506). -/
def countSync (ok : Bool) (s : State) : State :=
  if ok then { s with link := { s.link with syncFails := 0 } }
  else
    noteLink 0 { s with
      link := { s.link with syncFails := s.link.syncFails + 1 }
      phy := { s.phy with syncFailed := bump s.phy.syncFailed 1 }
      counters := { s.counters with linkSyncFailed := bump s.counters.linkSyncFailed 1 } }

/-- The codewords of a received superframe (R458, R459): its payload waits to be taken frame by frame. -/
def takeCodewords (bits : List Bool) (s : State) : State :=
  let ncw := codewords (payloadSymbols s.phy.half (!remoteEnd s)) (bSym s.phy.bRx)
  let words := receivedCodewords ncw bits
  let good := words.filterMap id
  let corrected := (good.map (·.2)).sum
  let failed := words.length - good.length
  (fun t => failed.repeat (noteLink 1) t) { s with
    phy := { s.phy with
      rsCorrected := bump s.phy.rsCorrected corrected, rsFailed := bump s.phy.rsFailed failed
      rxWords := words.map fun w => w.map (·.1), rxAt := 0 }
    counters := { s.counters with
      linkRsCorrected := bump s.counters.linkRsCorrected corrected, linkRsFailed := bump s.counters.linkRsFailed failed
      linkSuperframesTx := bump s.counters.linkSuperframesTx 1, linkSuperframesRx := bump s.counters.linkSuperframesRx 1 } }

/-- A window's bytes, idle behind its frames (R495). -/
def fillWindow (n : Nat) (bytes : List Byte) : List Byte := (bytes ++ zeros (n - bytes.length)).take n

/-- The payload of the superframe that has been filled: its windows in order (R492, R495). -/
def filledPayload (s : State) : List Byte :=
  let w := s.phy.txFill
  if isLocal s then fillWindow s.link.upCtl w[0] ++ fillWindow s.link.upBulk w[2]
  else fillWindow s.link.downCtl w[0] ++ fillWindow s.link.downStream w[1] ++ fillWindow s.link.downBulk w[2]

/-- The points of payload symbol k, counted from 0, of the superframe in transmission (R451, R454): training points until
LOAD, then the coded payload. -/
def sentPoints (s : State) (k : Nat) : List TonePoint :=
  let n := payloadSymbols s.phy.half (remoteEnd s)
  let filler := trainingPoints (n * s.phy.trainSf + k)
  let c := s.phy.cfg
  if s.link.state = .load ∨ s.link.state = .run then
    let b := bSym s.phy.bTx
    symbolPoints c s.phy.bTx filler (((lineBits (codewords n b) (n * b) s.phy.txPayload).drop (b * k)).take b)
  else maskPoints c filler

/-- The point that the far end sent on a tone in payload symbol k, as its training or the decision has it, with the bits decided
(R451, R453 to R455): a training point until LOAD, then the nearest point of the tone's table, or its filler. -/
def farPoint (s : State) (filler : List TonePoint) (k : Nat) (x : Cplx) : List Bool × Cplx :=
  let b := if s.link.state = .load ∨ s.link.state = .run then s.phy.bRx.getD k 0 else 0
  if toneMasked s.phy.cfg k then ([], ⟨0, 0⟩)
  else if b = 0 then ([], toneValue (filler.getD k silent))
  else (slicePoint b x, toneValue (dataPoint (slicePoint b x)))

/-- What the symbols of a superframe have brought so far. -/
structure ToneSums where
  coeffs : List Cplx
  bits : List Bool
  energy : List Nat
  variance : List Nat
  phase : List Cplx
deriving DecidableEq, Repr

/-- Numbers added tone by tone. -/
def addTones (a b : List Nat) : List Nat := (List.range 102).map fun k => a.getD k 0 + b.getD k 0

/-- One payload symbol (R454 to R456, R467): the residual echo is taken off it, its points are decided, its energies and errors
join the sums, and in full duplex the coefficients adapt. -/
def takeSymbol (s : State) (acc : ToneSums) (e : List Cplx × Nat) : ToneSums :=
  let sent := toneValues (sentPoints s e.2)
  let clean := if s.phy.half then e.1 else cancelTones acc.coeffs sent e.1
  let n := payloadSymbols s.phy.half (!remoteEnd s)
  let filler := trainingPoints (n * s.phy.trainRx + e.2)
  let got := (List.range 102).map fun k => (clean.getD k ⟨0, 0⟩, farPoint s filler k (clean.getD k ⟨0, 0⟩))
  let errors := got.map fun g => cAdd g.1 (cScale (-1) g.2.2)
  { coeffs := if s.phy.half then acc.coeffs else adaptTones acc.coeffs sent errors
    bits := acc.bits ++ got.flatMap fun g => g.2.1
    energy := addTones acc.energy (got.map fun g => cNormSq g.1)
    variance := addTones acc.variance (errors.map cNormSq)
    phase := (List.range 102).map fun k =>
      match got[k]? with | some g => cAdd (acc.phase.getD k ⟨0, 0⟩) (cMul g.1 (cConj g.2.2)) | none => acc.phase.getD k ⟨0, 0⟩ }

/-- The sync symbol as received, less its residual echo. -/
def syncRow (r : SuperframeRx) (s : State) : List Cplx :=
  let x := r.symbols.headD []
  if s.phy.half then x else cancelTones s.phy.toneCoeffs (toneValues (maskPoints s.phy.cfg syncPoints)) x

/-- What a sync symbol brings. -/
def syncSums (row : List Cplx) (s : State) : ToneSums :=
  let sync := toneValues (maskPoints s.phy.cfg syncPoints)
  { coeffs := s.phy.toneCoeffs, bits := [], energy := [], variance := []
    phase := (List.range 102).map fun k => cMul (row.getD k ⟨0, 0⟩) (cConj (sync.getD k ⟨0, 0⟩)) }

/-- What the sync symbol and the payload symbols of a superframe bring. -/
def takeSymbols (r : SuperframeRx) (s : State) : ToneSums :=
  (r.symbols.drop 1).zipIdx.foldl (takeSymbol s) (syncSums (syncRow r s) s)

/-- Energies and error variances tone by tone (R455, R456). -/
def ToneSums.power (t : ToneSums) : List (Nat × Nat) := (List.range 102).map fun k => (t.energy.getD k 0, t.variance.getD k 0)

/-- The echo coefficients as a superframe leaves them (R467). -/
def trackEcho (t : ToneSums) (s : State) : State := { s with phy := { s.phy with toneCoeffs := t.coeffs } }

/-- The timing error that the points of a superframe show, in ps (R478): the mean over the unmasked tones of the phase by which
they lead, at 300 kHz times the tone (DEDUCED, log entry 101). -/
def timingError (c : PhyCfg) (t : ToneSums) : Int :=
  let l := (List.range 102).filter fun k => !toneMasked c k
  (l.map fun k => roundDiv (cArg (t.phase.getD k ⟨0, 0⟩) * 10000000) (3 * (k + 102) * 4294967296)).sum / max 1 (l.length : Int)

/-- The gain of the timing loop on each superframe: a bandwidth of 100 Hz before RUN and 5 Hz in RUN, times 2π of the
superframe's 1 ms, in 1/10,000 (R478; DEDUCED, log entry 101). -/
def loopGain (s : State) : Int := if s.link.state = .run then 314 else 6283

/-- The remote's fractional word follows the local (R478), unless it is held (R479): a timing error that moves by 1 ps in a
superframe of 1 ms is one part per billion. -/
def steerClock (t : ToneSums) (s : State) : State :=
  if remoteEnd s && !s.phy.fracHeld then
    let now := timingError s.phy.cfg t
    let ppb := match s.phy.phaseErr with | some e => now - e | none => 0
    { s with phy := { s.phy with phaseErr := some now, fracPpb := s.phy.fracPpb + roundDiv (ppb * loopGain s) 10000 } }
  else s

/-- The SNR of each tone over the superframes held (R455, R456). -/
def trackedSnr (p : Phy) : List Nat :=
  (List.range 102).map fun k =>
    snrTenths ((p.tonePower.map fun l => (l.getD k (0, 0)).1).sum) ((p.tonePower.map fun l => (l.getD k (0, 0)).2).sum)

/-- A superframe's energies and variances join those of the last `n` (R455, R456). -/
def noteTones (n : Nat) (power : List (Nat × Nat)) (s : State) : State :=
  let p := { s.phy with tonePower := (power :: s.phy.tonePower).take n }
  { s with phy := { p with snr := trackedSnr p } }

/-- The windows of the superframe being filled, in this device's direction (R492). -/
def openWindows (s : State) : State :=
  { s with link := { s.link with
      winLeft := if isLocal s then #v[s.link.upCtl, 0, s.link.upBulk]
        else #v[s.link.downCtl, s.link.downStream, s.link.downBulk]
      fillLast := none } }

/-- The margins of RUN (R456): tone by tone, superframes in a row below `margin_min_cdb`. -/
def trackMargins (power : List (Nat × Nat)) (s : State) : State :=
  let s1 := noteTones 1000 power s
  let low := lowTones s1.phy
  let runs := (List.range 102).map fun k => if low.contains k then s1.phy.lowRuns.getD k 0 + 1 else 0
  { s1 with phy := { s1.phy with lowRuns := runs } }

/-- This end's own phase of ECHO_TRAIN. -/
def ownPhase (s : State) : EchoPhase := if remoteEnd s then .remotePhase else .localPhase

/-- The symbols of a superframe in this end's phase of ECHO_TRAIN, less the echo that the coefficients give (R465). -/
def residualRows (r : SuperframeRx) (s : State) : List (List Cplx) :=
  syncRow r s :: (r.symbols.drop 1).zipIdx.map fun e => cancelTones s.phy.toneCoeffs (toneValues (sentPoints s e.2)) e.1

/-- A superframe of ECHO_TRAIN (R465): noise is measured while both are silent, and each end's cancellers are trained in its
own phase. -/
def echoWork (r : SuperframeRx) (s : State) : State :=
  let p := { s.phy with echoSfs := s.phy.echoSfs + 1 }
  let levels (rows : List (List Cplx)) : List Int := (List.range 102).map (noiseTenths rows)
  match s.phy.echo with
  | .quiet => { s with phy := { p with quietNoise := levels r.symbols } }
  | ph =>
    if ph = ownPhase s then
      let noise := levels (residualRows r s)
      let ok := (noisyTones s.phy.cfg s.phy.quietNoise noise).isEmpty
      let (fir, coeffs) := r.trained.getD (p.fir, p.toneCoeffs)
      { s with phy := { p with
        residual := noise, echoOk := if ok then p.echoOk + 1 else 0, fir := fir, toneCoeffs := coeffs, trainSf := p.trainSf + 1 } }
    else
      steerClock (syncSums (r.symbols.headD []) s)
        { s with phy := { p with echoOk := if r.farQuietOk then p.echoOk + 1 else 0, trainRx := p.trainRx + 1 } }

/-- The superframe that has been filled goes out, and the next one opens (R492). -/
def turnSuperframe (s : State) : State :=
  openWindows { s with phy := { s.phy with
    txPayload := filledPayload s, txFill := Vector.replicate 3 [], trainSf := s.phy.trainSf + 1 } }

/-- One more superframe of the far end's training. -/
def countTraining (s : State) : State := { s with phy := { s.phy with trainRx := s.phy.trainRx + 1 } }

/-- What a superframe does in a state. -/
def superframeWork (r : SuperframeRx) (s : State) : State :=
  let ok := syncHeld s.phy.cfg (syncRow r s)
  let t := takeSymbols r s
  match s.link.state with
  | .handshake => handshakeWork s
  | .echoTrain => echoWork r s
  | .halfDuplex =>
    let s1 := steerClock t (countSync ok { s with link := { s.link with
      hdLocal := if ok then s.link.hdLocal + 1 else 0, hdRemote := if r.farSyncOk then s.link.hdRemote + 1 else 0 } })
    countTraining { s1 with phy := { s1.phy with trainSf := s1.phy.trainSf + 1 } }
  | .measure =>
    let s1 := noteTones 64 t.power (trackEcho t (steerClock t (countSync ok s)))
    countTraining { s1 with phy := { s1.phy with measured := s1.phy.measured + 1, trainSf := s1.phy.trainSf + 1 } }
  | .load => countTraining (turnSuperframe (takeCodewords t.bits (trackEcho t (steerClock t (countSync ok s)))))
  | .run => countTraining (turnSuperframe (trackMargins t.power (takeCodewords t.bits (trackEcho t (steerClock t (countSync ok s))))))
  | _ => s

/-- Messages that are sent in every control window of a run of superframes go to LC here: the bit-swap acknowledgement
of superframes S − 8 to S − 1 (R501). -/
def ackMessage (sw : Swap) : List Byte := u8 1 ++ zeros 3 ++ u32 sw.atSf

/-- The acknowledgement of a pending swap, when the superframe lies in its range and LC has room (R501). -/
def sendSwapAck (s : State) : State :=
  match s.link.swapTx with
  | some sw =>
    let ps := framesOf (frameMax s 0x20) 7 0x0500 8 (ackMessage sw)
    if s.link.state = .run ∧ sw.atSf ≤ superframe s + 8 ∧ superframe s < sw.atSf ∧ roomFor s 0x20 ps then
      enqueueAll s 0x20 ps
    else s
  | none => s

/-- SYNC_LOSS (R479, R506, R507): after 32 failed sync symbols in a row the PHY reports sync loss and the remote holds
its fractional word; the outage begins at the next stroke boundary. -/
def execSyncLoss (s : State) : Out :=
  if syncState s ∧ 32 ≤ s.link.syncFails ∧ !s.link.syncLost then
    .next { s with
      link := { s.link with syncLost := true, outageDue := some reasonSync }
      phy := { s.phy with fracHeld := s.phy.fracHeld || remoteEnd s } }
  else .next s

/-- A phase of ECHO_TRAIN is over (R465). -/
def echoPhaseOver (p : Phy) : Bool :=
  match p.echo with
  | .quiet => 4 ≤ p.echoSfs
  | _ => 4 ≤ p.echoOk || 100 ≤ p.echoSfs

/-- The end of ECHO_TRAIN (R465, R466). -/
def echoResult (s : State) : State :=
  if s.phy.echoLimited ≤ 10 ∧ s.phy.farEchoLimited ≤ 10 then setLinkState .measure reasonStart s
  else if s.phy.cfg.duplex = 0 ∧ s.phy.cfg.trGpio.isSome then setLinkState .halfDuplex reasonEcho s
  else linkDown reasonEcho s

/-- ECHO_PHASE_END (R465): the next phase, or the end; a tone that is not within the bound on the phase's last superframe is
echo-limited (DEDUCED, log entry 100). -/
def execEchoPhaseEnd (farLimited : Nat) (s : State) : Out :=
  if s.link.state ≠ .echoTrain ∨ !echoPhaseOver s.phy then .next s
  else
    let p := { s.phy with echoSfs := 0, echoOk := 0 }
    let limited := (noisyTones s.phy.cfg s.phy.quietNoise s.phy.residual).length
    let lim (n : Nat) : Nat := if 4 ≤ s.phy.echoOk then 0 else min 102 n
    match s.phy.echo with
    | .quiet => .next { s with phy := { p with echo := .localPhase } }
    | .localPhase =>
      .next { s with phy := if remoteEnd s then { p with echo := .remotePhase, farEchoLimited := lim farLimited }
        else { p with echo := .remotePhase, echoLimited := lim limited } }
    | .remotePhase =>
      .next (echoResult { s with phy := if remoteEnd s then { p with echoLimited := lim limited }
        else { p with farEchoLimited := lim farLimited } })

/-- HALF_DUPLEX_SYNC (R489): 8 superframes in a row decoded at each end. -/
def execHalfDuplexSync (s : State) : Out :=
  if s.link.state = .halfDuplex ∧ 8 ≤ s.link.hdLocal ∧ 8 ≤ s.link.hdRemote then .next (setLinkState .measure reasonStart s)
  else .next s

/-- MEASURE_DONE (R455, R489, R491): after 64 superframes the receiver's table, the far end's table, and in the local
the superframe that it names, 8 after it sends the layout. -/
def execMeasureDone (farTable : List Nat) (s : State) : Out :=
  if s.link.state = .measure ∧ 64 ≤ s.phy.measured then
    let s1 := { s with phy := { s.phy with
      nextRx := loadTable s.phy.cfg s.phy.snr, nextTx := maskTable s.phy.cfg farTable } }
    let s2 := setLinkState .load reasonStart s1
    .next (if remoteEnd s then s2 else { s2 with link := { s2.link with runAt := some (superframe s + 8) } })
  else .next s

/-- The time limit of a training state in ms (R489). -/
def trainingLimit : LinkState → Option Nat
  | .handshake => some 200
  | .halfDuplex => some 50
  | .load => some 20
  | _ => none

/-- LINK_TRAINING_TIMEOUT (R489). -/
def execLinkTrainingTimeout (s : State) : Out :=
  match trainingLimit s.link.state with
  | some ms => if s.link.since + ticksOfMs ms ≤ s.now then .next (linkDown reasonTimeout s) else .next s
  | none => .next s

/-- The side-data settings as a `SIDE_SET` request: what a local sends at every entry to RUN, for the RDS values that it
holds (R592; log entry 23). -/
def sideMessage (s : State) : List Byte :=
  let c := s.side.cfg
  requestBytes ⟨0x0510, 0, 9, 0, 0, 0, uBool c.rbds ++ u8 c.correct ++ u8 c.padOutputs.toNat ++ u16 c.dbEventMs ++ u32 c.expiryS⟩

/-- LINK_RUN_START (R491, R493): at the named superframe both ends take the tables and the windows, and RUN begins with
the mirror to be rebuilt; a layout that does not fit leads back with the reason `CAPACITY`. -/
def execLinkRunStart (named : Nat) (s : State) : Out :=
  if s.link.state ≠ .load then .next s
  else if !layoutFits s s.phy.nextTx s.phy.nextRx then .next (linkDown reasonCapacity s)
  else if remoteEnd s then
    if atSuperframe s ∧ 0 < named then .next (setLinkState .run reasonStart (alignTime named s)) else .next s
  else
    match s.link.runAt with
    | some n =>
      if n ≤ superframe s then
        let s0 := setLinkState .run reasonStart s
        let s1 := enqueueAll s0 0x20 (controlFrames s0 (sideMessage s0))
        .next { s1 with link := { s1.link with
          resync := true, imageAt := if s1.link.wantsImage then some 0 else none } }
      else .next s
    | none => .next s

/-! ### Status (R486, R564) -/

/-- Codes of the synthesiser states in table order (R477). -/
def synthCode : SynthState → Nat
  | .off => 0 | .cal => 1 | .settle => 2 | .locked => 3

/-- The smallest margin of the loaded tones (R486). -/
def marginWorst (p : Phy) : Option Int :=
  match toneMargins p with
  | [] => none
  | e :: es => some (es.foldl (fun m e => min m e.2) e.2)

/-- `LINK_PHY_STATUS_GET` of this device, 70 bytes (R486). -/
def phyStatus (s : State) : List Byte :=
  let p := s.latch.phy
  let net (fromRemote : Bool) (t : List Nat) : Nat := 8 * netBytes (payloadSymbols p.half fromRemote) (bSym t)
  u64 s.latch.stroke ++ u8 (synthCode p.synth) ++ uBool p.half ++ u8 p.cfg.powerIndex ++ uBool p.cfg.term75
    ++ uBool p.pending.isSome ++ opt16 p.cableDelayNs ++ optS16 p.rxLevel ++ u16 (bSym p.bTx) ++ u16 (bSym p.bRx)
    ++ u32 (net (remoteEnd s) p.bTx) ++ u32 (net (!remoteEnd s) p.bRx) ++ optS16 (marginWorst p) ++ u8 p.echoLimited
    ++ u16 p.txHeldUs ++ u32 p.rsCorrected.toNat ++ u32 p.rsFailed.toNat ++ u32 p.syncFailed.toNat
    ++ u32 p.preambleFalse.toNat ++ u32 p.captureRestarts.toNat ++ u32 p.captureLost.toNat ++ u32 p.foreignBursts.toNat
    ++ u32 p.txNotLocked.toNat ++ u32 p.txAborted.toNat

/-- `LINK_TONE_GET` of this device, 416 bytes (R486). -/
def toneStatus (s : State) : List Byte :=
  let p := s.latch.phy
  u64 s.latch.stroke ++ (List.range 102).flatMap fun k =>
    u8 (p.bTx.getD k 0) ++ u8 (p.bRx.getD k 0) ++ u16 (if toneMasked p.cfg k then 0xFFFF else p.snr.getD k 0)

/-- `LINK_STATUS_GET` of this device, 56 bytes (R564). -/
def linkStatus (s : State) : List Byte :=
  let l := s.latch.link
  u64 s.latch.stroke ++ u8 (linkCode l.state) ++ u8 l.lastReason ++ zeros 2 ++ u32 s.latch.stroke
    ++ u64 l.remoteSerial.toNat ++ u16 l.downCtl ++ u16 l.downStream ++ u16 l.downBulk ++ u16 l.upCtl ++ u16 l.upBulk
    ++ zeros 2 ++ u32 l.framesLost.toNat ++ u32 l.retransmissions.toNat ++ u32 l.mirrorLate.toNat
    ++ u32 l.bitswaps.toNat ++ u32 l.outages.toNat

/-- `device` of a status read (R487, R502): 0 this device, 1 the remote in the local role. -/
def parseDevice (p : List Byte) : Option Bool := if p.length = 1 ∧ getU 1 0 p ≤ 1 then some (getU 1 0 p == 1) else none

/-- A status read that names a device: answered from this device's latch, or forwarded to the remote in the local role
(R502); with `device` 1 in another role it names no device (R513). -/
def serveDevice (own : State → List Byte) (remote : Bool) (r : Req) (s : State) : Served :=
  if !remote then .answer .ok (own s) s
  else if isLocal s then forwardRequest r s
  else refuse .badParam s

/-- LINK_STATUS_GET. -/
def execLinkStatusGet (ch : Fin 4) (s : State) : Out :=
  .next (serve ch 0x0A05 .read parseDevice (serveDevice linkStatus) s)
/-- LINK_PHY_STATUS_GET. -/
def execLinkPhyStatusGet (ch : Fin 4) (s : State) : Out :=
  .next (serve ch 0x0A11 .read parseDevice (serveDevice phyStatus) s)
/-- LINK_TONE_GET. -/
def execLinkToneGet (ch : Fin 4) (s : State) : Out :=
  .next (serve ch 0x0A12 .read parseDevice (serveDevice toneStatus) s)

end Sys2Proof.Machine
end

