-- ==== Sys2Proof/Machine/AuxBus.lean ====
section
/-! DEFINITION. The aux bus controller: its registers, transfers, arbitration, timeouts and bus clear
(15_aux_bus_gpio.md R512 to R530). -/

namespace Sys2Proof.Machine

/-! ### Registers (R515, R516) -/

def auxEnable (r : AuxRegs) : Bool := r.ctrl.getLsbD 0
def auxRetries (r : AuxRegs) : Nat := (r.ctrl.toNat / 4096) % 16
def auxBusFree (r : AuxRegs) : Nat := r.timing1.toNat / 16777216
def auxSpike (r : AuxRegs) : Nat := (r.ctrl.toNat / 256) % 16
def auxSclHigh (r : AuxRegs) : Nat := (r.timing0.toNat / 65536) % 1024
def auxSclLow (r : AuxRegs) : Nat := r.timing0.toNat % 1024
def auxStopSetup (r : AuxRegs) : Nat := (r.timing1.toNat / 65536) % 256
def auxStartHold (r : AuxRegs) : Nat := (r.timing1.toNat / 256) % 256
def auxSdaHold (r : AuxRegs) : Nat := r.timing1.toNat % 256
def auxSclLimit (r : AuxRegs) : Nat := r.timeout.toNat % 65536
def auxSdaLimit (r : AuxRegs) : Nat := r.timeout.toNat / 65536

/-! ### Timing on the bus (R517, R518) -/

/-- One bit on a bus that no other device holds, in REF cycles from the cycle in which the controller detects SCL low (R517):
it releases SCL, detects SCL high, with SCL crossing its threshold `rise` cycles after the release and `late` saying in
which of the two cycles of the detection, and has counted the high time. -/
def auxBit (r : AuxRegs) (rise : Nat) (late : Bool) : Nat × Nat × Nat :=
  let low := auxSclLow r
  let seen := low + rise + auxSpike r + 2 + bitAt late 0
  (low, seen, seen + auxSclHigh r)

/-- The least times of a bus mode in ns for rules A, B, C, D, G, H and I, and the most for F (R518). -/
structure BusMode where
  low : Nat
  high : Nat
  period : Nat
  setUp : Nat
  valid : Nat
  hold : Nat
  free : Nat
  spike : Nat
deriving DecidableEq, Repr

def standardMode : BusMode := ⟨4700, 4000, 10000, 250, 3450, 4000, 4700, 0⟩
def fastMode : BusMode := ⟨1300, 600, 2500, 100, 900, 600, 1300, 50⟩
def fastModePlus : BusMode := ⟨500, 260, 1000, 50, 450, 260, 500, 50⟩

/-- The register values meet rules A to I on a bus with these rise and fall times in ns (R518); a REF cycle is 10,000/384 ns,
so both sides are taken 384 times. -/
def auxFits (m : BusMode) (r : AuxRegs) (tr tf : Nat) : Bool :=
  let t (n : Nat) : Nat := n * 10000
  let ns (x : Nat) : Nat := x * 384
  ns (m.low + tf) ≤ t (auxSclLow r) && ns m.high ≤ t (auxSclHigh r)
    && ns m.period ≤ t (auxSclLow r + auxSclHigh r + auxSpike r + 2) + ns tr
    && ns (m.setUp + tr) + t (auxSdaHold r) ≤ t (auxSclLow r)
    && ns tf ≤ t (auxSdaHold r) && t (auxSdaHold r) + ns tr ≤ ns m.valid
    && ns m.hold ≤ t (auxStartHold r) && ns m.hold ≤ t (auxStopSetup r)
    && ns m.free ≤ t (auxBusFree r) && ns m.spike ≤ t (auxSpike r)

/-! ### Values and requests -/

/-- The register images lie in range with their reserved bits zero (R515, R13). That a reserved bit which fills no byte is
refused like a reserved byte is DEDUCED (notes/assumptions/79.md). -/
def auxRegsOk (r : AuxRegs) : Bool :=
  let c := r.ctrl.toNat
  let t := r.timing0.toNat
  c / 65536 == 0 && c % 256 / 2 == 0 && t / 67108864 == 0 && t / 1024 % 64 == 0
    && 4 ≤ t / 65536 % 1024 && 8 ≤ t % 1024 && 1 ≤ r.timing1.toNat % 256

/-- Parses `AUX_CFG_SET` (R516, 20 bytes). -/
def parseAuxCfg (p : List Byte) : Option (Bool × AuxRegs) :=
  let w (o : Nat) : Word := BitVec.ofNat 32 (getU 4 o p)
  let r : AuxRegs := ⟨w 4, w 8, w 12, w 16⟩
  if p.length = 20 ∧ getU 1 0 p ≤ 1 ∧ zeroAt 3 1 p ∧ auxRegsOk r then some (getU 1 0 p == 1, r) else none

/-- Ticks of a number of REF cycles, rounded up: 16 ticks are 25 cycles. -/
def ticksOfRef (n : Nat) : Nat := ceilDiv (n * 16) 25

/-! ### A transfer (R526 to R529) -/

/-- The descriptors of `AUX_XFER`: direction and length (R526). -/
def auxSegs (p : List Byte) (n : Nat) : List (Bool × Nat) :=
  (List.range n).map fun k => (getU 1 (4 + 4 * k) p == 1, getU 2 (6 + 4 * k) p)

/-- Bytes of the segments of a direction. -/
def segBytes (read : Bool) (segs : List (Bool × Nat)) : Nat := ((segs.filter fun e => e.1 == read).map (·.2)).sum

/-- Parses `AUX_XFER` (R526): `device`, the address, the segments and the write bytes. -/
def parseAuxXfer (p : List Byte) : Option (Bool × Nat × List (Bool × Nat) × List Byte) :=
  let n := getU 1 2 p
  let addr := getU 1 1 p
  let segs := auxSegs p n
  let w := segBytes false segs
  if 4 ≤ p.length ∧ getU 1 0 p ≤ 1 ∧ 1 ≤ n ∧ n ≤ 4 ∧ zeroAt 1 3 p ∧ (addr = 0 ∨ (0x08 ≤ addr ∧ addr ≤ 0x77))
      ∧ ((List.range n).all fun k => decide (getU 1 (4 + 4 * k) p ≤ 1) && zeroAt 1 (5 + 4 * k) p)
      ∧ (segs.all fun e => decide (1 ≤ e.2 ∧ e.2 ≤ 480)) ∧ p.length = 4 + 4 * n + w ∧ w + 4 * n ≤ 476
      ∧ segBytes true segs ≤ 464 ∧ (addr ≠ 0 ∨ segBytes true segs = 0) then
    some (getU 1 0 p == 1, addr, segs, p.drop (4 + 4 * n))
  else none

/-- The result of a transfer and the bytes it read (R528). -/
def auxResult (x : AuxXfer) : List Byte :=
  u16 x.written ++ u16 x.readBytes.length ++ opt16 x.nackAt ++ u8 x.arbLost ++ opt8 x.arbBit ++ opt16 x.arbByte
    ++ u8 x.cause ++ zeros 5 ++ x.readBytes

/-- What a byte of a transfer is: an address phase, a byte that the controller writes, or one that it reads. -/
inductive AuxByte where
  | address | write | read
deriving DecidableEq, Repr

/-- The bytes of a transfer in order (R527): each segment's address phase and then its bytes. -/
def auxBytes (segs : List (Bool × Nat)) : List AuxByte :=
  segs.flatMap fun e => .address :: List.replicate e.2 (if e.1 then .read else .write)

/-- How many bytes of a kind lie ahead of an index, address phases counted (R528). -/
def bytesBefore (kind : AuxByte) (x : AuxXfer) (at_ : Nat) : Nat := ((auxBytes x.segs).take at_).count kind

/-- Values that wait take effect at once when no transfer is on the bus (R516). -/
def settleAuxRegs (s : State) : State :=
  match s.aux.pending with
  | some r => if s.aux.busBusy then s else { s with aux := { s.aux with regs := r, pending := none } }
  | none => s

/-- The transfer in progress ends (R94, R528, R529): with the full result, as `ST_ALREADY_DONE` when an abort landed at or
after the commit point, and as `ST_ABORTED` whatever else ended it when one landed before; `ST_BAD_STATE` and `ST_ABORTED`
carry none (R550). -/
def endXfer (st : Status) (x : AuxXfer) (s : State) : State :=
  let s1 := settleAuxRegs { s with aux := { s.aux with xfer := none } }
  if abortLanded s x.ch then
    if x.started then respond x.ch .alreadyDone (auxResult x) s1 else respond x.ch .aborted [] s1
  else if st = .badState ∨ st = .aborted then respond x.ch st [] s1
  else respond x.ch st (auxResult x) s1

/-- The values that wait take effect; with `enable` at 0, a transfer that has placed no START ends with
`ST_BAD_STATE`. -/
def takeAuxRegs (s : State) : State :=
  match s.aux.pending with
  | some r =>
    let s1 := { s with aux := { s.aux with regs := r, pending := none } }
    match s.aux.xfer with
    | some x => if !auxEnable r && !x.started then endXfer .badState x s1 else s1
    | none => s1
  | none => s

/-- A transfer of the controller is past its START. -/
def auxOnBus (s : State) : Bool := match s.aux.xfer with | some x => x.started | none => false

/-- The bus is free for a START (R517, R523). -/
def auxBusReady (s : State) : Bool :=
  !s.aux.busBusy && !s.aux.clearFailing && !s.aux.clearRunning && !s.aux.afterTimeout &&
    match s.aux.lastStop with
    | some t => t + ticksOfRef (auxBusFree s.aux.regs) ≤ s.now
    | none => true

/-- The first START, which is the commit point (R529): an abort that landed before it ends the transfer with nothing on
the bus. -/
def placeStart (x : AuxXfer) (s : State) : State :=
  if abortLanded s x.ch then endXfer .aborted x s
  else markCommitted { s with aux := { s.aux with
    xfer := some { x with started := true, phase := .transferring, attemptsLeft := auxRetries s.aux.regs }, busBusy := true
    transfers := bump s.aux.transfers 1 } } x.ch

/-- What a `dry_run` of a transfer answers: `ST_OK` with the length of a full result, the reserved bytes zero (R13, R91) and
values that only the bus would give. -/
def dryResult (segs : List (Bool × Nat)) (s : State) : Status × List Byte :=
  let b := freeBytes s (16 + segBytes true segs)
  (.ok, b.take 11 ++ zeros 5 ++ b.drop 16)

/-- What S0 does with an `AUX_XFER` for this device (R516, R523, R525, R529). -/
def startXfer (ch : Fin 4) (addr : Nat) (segs : List (Bool × Nat)) (data : List Byte) (s : State) : Served :=
  let x : AuxXfer := { AuxXfer.reset with
    ch := ch, addr := addr, segs := segs, data := data, attemptsLeft := auxRetries s.aux.regs, waitFrom := s.now }
  if s.aux.xfer.isSome then .answer .busy (auxResult { x with cause := 5 }) s
  else if !auxEnable s.aux.regs then refuse .badState s
  else
    let op : ActiveOp := ⟨.auxXfer, false, s.now⟩
    if auxBusReady s then
      .wait { op with committed := true } (dryResult segs s)
        (noteMark ch { s with aux := { s.aux with
          xfer := some { x with started := true, phase := .transferring }, busBusy := true
          transfers := bump s.aux.transfers 1 } })
    else
      .wait op (dryResult segs s)
        { s with aux := { s.aux with xfer := some x, clearRunning := s.aux.clearRunning || s.aux.clearFailing } }

/-- AUX_XFER (R526, R502, R513). -/
def execAuxXfer (ch : Fin 4) (s : State) : Out :=
  .next (serve ch 0x0B02 .long parseAuxXfer (fun a r s =>
    match a with
    | (remote, addr, segs, data) =>
      if !remote then startXfer ch addr segs data s
      else if isLocal s then forwardRequest r s
      else refuse .badParam s) s)

/-- AUX_BUS_FREE (R516, R523): a transfer that waits places its START once the bus is free, register values that wait
taking effect first. The command says that a STOP of another device has been seen and `bus_free` has passed. -/
def execAuxBusFree (s : State) : Out :=
  match s.aux.xfer with
  | some x =>
    if x.phase = .waitBus ∧ !s.aux.clearRunning ∧ !s.aux.clearFailing ∧ !s.aux.afterTimeout
        ∧ (s.aux.busBusy ∨ auxBusReady s) then
      let s1 := takeAuxRegs { s with aux := { s.aux with busBusy := false } }
      .next (if s1.aux.xfer.isSome then placeStart x s1 else s1)
    else .next s
  | none => .next s

/-- AUX_RETRY (R523): after the STOP and `bus_free` that follow a lost arbitration, the whole transfer again. -/
def execAuxRetry (s : State) : Out :=
  match s.aux.xfer with
  | some x =>
    if x.phase = .arbLost then
      .next { s with aux := { s.aux with
        busBusy := true
        xfer := some { x with
          phase := .transferring, attemptsLeft := x.attemptsLeft - 1, written := 0, readBytes := [], nackAt := none } } }
    else .next s
  | none => .next s

/-- AUX_BUSY_TIMEOUT (R523): a wait for the bus of more than 1 s. -/
def execAuxBusyTimeout (s : State) : Out :=
  match s.aux.xfer with
  | some x =>
    if (x.phase = .waitBus ∨ x.phase = .arbLost) ∧ x.waitFrom + 24576000 < s.now then
      .next (endXfer .timeout { x with cause := 5 } s)
    else .next s
  | none => .next s

/-- The first n bytes that a transfer read; a bus that no target drives reads ones. -/
def readsOf (n : Nat) (bs : List Byte) : List Byte :=
  bs.take n ++ List.replicate (n - bs.length) 0xFF

/-- The controller has placed a STOP. -/
def placeStop (s : State) : State :=
  { s with aux := { s.aux with busBusy := false, lastStop := some s.now } }

/-- AUX_XFER_DONE (R521 to R523, R527, R528): a transfer on the bus completes, meets a NACK of an address or a written byte,
or loses arbitration; the byte at which that happens is not counted as written and not delivered. The last attempt that is
lost ends it with `ST_BUSY`. -/
def execAuxXferDone (r : AuxBusRx) (s : State) : Out :=
  match s.aux.xfer with
  | none => .next s
  | some x =>
    if x.phase ≠ .transferring then .next s
    else
      let upTo (at_ : Nat) (bs : List Byte) : AuxXfer :=
        { x with written := bytesBefore .write x at_, readBytes := readsOf (bytesBefore .read x at_) bs }
      match r with
      | .complete bs => .next (endXfer .ok { upTo (auxBytes x.segs).length bs with cause := 0 } (placeStop s))
      | .nack at_ bs =>
        if (auxBytes x.segs).getD at_ .read = .read then .next s
        else
          let s1 := placeStop { s with aux := { s.aux with nacks := bump s.aux.nacks 1 } }
          .next (endXfer .nack { upTo at_ bs with nackAt := some at_, cause := 1 } s1)
      | .arbitration byte bit bs =>
        if (auxBytes x.segs).length ≤ byte ∨ 8 < bit then .next s
        else
          let s1 := { s with aux := { s.aux with
            busBusy := true, arbLosses := bump s.aux.arbLosses 1
            startInAck := if bit = 8 then bump s.aux.startInAck 1 else s.aux.startInAck } }
          let x1 := { upTo byte bs with
            arbLost := x.arbLost + 1, arbBit := some bit, arbByte := some byte, cause := 2, waitFrom := s.now }
          if x.attemptsLeft = 0 then .next (endXfer .busy x1 s1)
          else .next { s1 with aux := { s1.aux with xfer := some { x1 with phase := .arbLost } } }

/-! ### Timeouts and bus clear (R524, R525) -/

/-- AUX_SCL_TIMEOUT (R524): both lines are released and the transfer ends. -/
def execAuxSclTimeout (s : State) : Out :=
  if !auxEnable s.aux.regs || auxSclLimit s.aux.regs == 0 || s.aux.afterTimeout then .next s
  else
    let s1 := { s with aux := { s.aux with
      sclTimeouts := bump s.aux.sclTimeouts 1, afterTimeout := true, busBusy := true, clearRunning := false } }
    match s.aux.xfer with
    | some x => .next (endXfer .timeout { x with cause := 3 } s1)
    | none => .next s1

/-- AUX_SCL_HIGH_AFTER_TIMEOUT (R524): a STOP if SDA is high, else the bus clear. -/
def execAuxSclHighAfterTimeout (sdaHigh : Bool) (s : State) : Out :=
  if !s.aux.afterTimeout then .next s
  else
    let s1 := { s with aux := { s.aux with afterTimeout := false } }
    if sdaHigh then .next (placeStop s1) else .next { s1 with aux := { s1.aux with clearRunning := true } }

/-- AUX_BUS_CLEAR (R525): SDA reads high after some of the nine pulses and a STOP follows, or the clear fails: the
transfer ends with `ST_TIMEOUT`, and every later one begins with a bus clear. -/
def execAuxBusClear (pulses : Option Nat) (s : State) : Out :=
  let a := s.aux
  if !auxEnable a.regs || (!a.clearRunning && auxSdaLimit a.regs == 0) then .next s
  else
    let byTimer := !a.clearRunning
    let s1 := { s with aux := { a with
      clearRunning := false, busClears := bump a.busClears 1
      sdaTimeouts := if byTimer then bump a.sdaTimeouts 1 else a.sdaTimeouts, clearFailing := pulses.isNone } }
    match pulses with
    | some _ => .next (placeStop s1)
    | none =>
      match a.xfer with
      | some x => .next (endXfer .timeout { x with cause := 4 } s1)
      | none => .next s1

/-! ### Settings taking effect (R516) -/

/-- `AUX_CFG_SET` applies: at once when no transfer is on the bus (R516). -/
def applyAuxCfg (r : AuxRegs) (s : State) : State :=
  let s1 := { s with aux := { s.aux with pending := some r } }
  if auxOnBus s1 || s1.aux.busBusy then s1 else takeAuxRegs s1

/-- AUX_CFG_APPLY (R516): the first moment with no transfer on the bus, which the command says has come. -/
def execAuxCfgApply (s : State) : Out :=
  if auxOnBus s || s.aux.pending.isNone then .next s
  else .next (takeAuxRegs { s with aux := { s.aux with busBusy := false } })

/-- `AUX_STATUS_GET` of this device, 38 bytes (R530). -/
def auxStatus (s : State) : List Byte :=
  let a := s.latch.aux
  u64 s.latch.stroke ++ uBool a.busBusy ++ uBool a.clearFailing ++ u32 a.transfers.toNat ++ u32 a.nacks.toNat
    ++ u32 a.arbLosses.toNat ++ u32 a.startInAck.toNat ++ u32 a.sclTimeouts.toNat ++ u32 a.sdaTimeouts.toNat
    ++ u32 a.busClears.toNat

/-- AUX_STATUS_GET. -/
def execAuxStatusGet (ch : Fin 4) (s : State) : Out :=
  .next (serve ch 0x0B03 .read parseDevice (serveDevice auxStatus) s)

end Sys2Proof.Machine
end

