-- ==== Sys2Proof/Machine/Image.lean ====
section
/-! DEFINITION. The firmware image and its authentication (03_startup_power_identity.md R123, R124). -/

namespace Sys2Proof.Machine

/-- The checks of R124 on a header, in order up to check 6: magic and version, silicon, reserved bytes, body length against
the bytes received, security version against OTP, and a key that OTP has not revoked. -/
def headerOk (otp : Otp) (img : List Byte) : Bool :=
  let body := getU 4 0x10 img
  getU 4 0 img == 0x314B5244 && getU 2 4 img == 1
    && getU 1 0x18 img == 0xB0
    && zeroAt 2 6 img && zeroAt 6 0x1A img && zeroAt 96 0x40 img && zeroAt 32 0xE0 img
    && 16 ≤ body && body ≤ 786432 && body % 16 == 0 && img.length == 256 + body
    && otp.minSecurity.toNat ≤ getU 4 0x0C img
    && (getU 1 0x19 img == 1 || (getU 1 0x19 img == 0 && !otp.key0Revoked))

/-- An image is accepted (R124): the header checks, the body hash (check 7) and the vendor signature over the SHA-256 of
header bytes 0x00 to 0x9F (check 8) under the vendor key in ROM that `key_index` names. -/
def imageOk (otp : Otp) (rom : Rom) (img : List Byte) : Bool :=
  headerOk otp img && sha256 (img.drop 256) == (img.drop 0x20).take 32
    && ecdsaVerify (if getU 1 0x19 img = 0 then rom.vendorKey0 else rom.vendorKey1) (sha256 (img.take 0xA0))
      ((img.drop 0xA0).take 64)

/-- The version that a header names (R123). -/
def imageVersion (img : List Byte) : FwVersion :=
  ⟨BitVec.ofNat 8 (getU 1 8 img), BitVec.ofNat 8 (getU 1 9 img), BitVec.ofNat 16 (getU 2 0x0A img),
    BitVec.ofNat 32 (getU 4 0x0C img)⟩

end Sys2Proof.Machine
end

