-- ==== Sys2Proof/Machine/Lag.lean ====
section
/-! DEFINITION. The lag measurement on the histories of two legs (09_programme_following.md, R321): the coarse search at 4 kHz, the
fine search at 48 kHz, and the level of the windows. Samples stand newest first; a correlation is held in 2⁻³². -/

namespace Sys2Proof.Machine

/-- Samples of a window of 1.024 s at 4 kHz and at 48 kHz, and the reach of ±4.0 s at 4 kHz. -/
def lagWindow : Nat := 4096
def fineWindow : Nat := 49152
def lagReach : Nat := 16000

/-- Samples of 48 kHz in one step of the coarse search, 250 µs, and ticks in one of them. -/
def coarseSamples : Nat := 12
def fineStepTicks : Nat := 512

/-- The normalised correlation of a window against a history some samples back. -/
def correlation (n back : Nat) (win hist : List Int) : Int :=
  let a := win.take n
  let b := (hist.drop back).take n
  let energy := fun (l : List Int) => (l.map fun v => (v * v).toNat).sum
  let e := isqrt 80 (energy a * energy b) 0
  if e = 0 then 0 else (unitOne : Int) * (List.zipWith (· * ·) a b).sum / e

/-- Whether a history covers a window some samples back. -/
def covers (n back : Nat) (hist : List Int) : Bool := back + n ≤ hist.length

/-- The correlation at a lag in samples: when B is behind, B's latest window stands in A's history, and the other way round (R321
step 2); none where the history does not reach so far. -/
def correlationAt (n : Nat) (a b : List Int) (lag : Int) : Option Int :=
  let (win, hist) := if 0 ≤ lag then (b, a) else (a, b)
  if covers n 0 win && covers n lag.natAbs hist then some (correlation n lag.natAbs win hist) else none

/-- The greatest of the correlations that a search finds, with its lag. -/
def bestOf (at_ : Int → Option Int) (lags : List Int) : Option (Int × Int) :=
  lags.foldl (fun best k =>
    match at_ k, best with
    | some c, some (_, d) => if d < c then some (k, c) else best
    | some c, none => some (k, c)
    | none, _ => best) none

/-- The lags from -n to n. -/
def lagsWithin (n : Nat) : List Int := (List.range (2 * n + 1)).map fun (k : Nat) => (k : Int) - n

/-- The coarse search (R321 step 2): the lag in steps of 250 µs, and its correlation. -/
def coarseLag (a b : List Int) : Option (Int × Int) := bestOf (correlationAt lagWindow a b) (lagsWithin lagReach)

/-- The vertex of a parabola through three neighbouring correlations, in ticks from the middle one, to a multiple of 32
(R321 step 3). -/
def parabolicTicks (left mid right : Int) : Int :=
  let d := left - 2 * mid + right
  if d = 0 then 0 else 32 * roundDiv ((left - right) * fineStepTicks * (if d < 0 then -1 else 1)) (2 * d.natAbs * 32)

/-- The fine search within ±0.5 ms of a coarse lag (R321 step 3), in ticks: `at_` is the correlation at a lag in samples of
48 kHz. -/
def fineLag (coarse : Int) (at_ : Int → Option Int) : Option Int :=
  (bestOf at_ ((lagsWithin 24).map (· + coarse * coarseSamples))).map fun e =>
    e.1 * fineStepTicks + (match at_ (e.1 - 1), at_ (e.1 + 1) with
      | some l, some r => parabolicTicks l e.2 r
      | _, _ => 0)

/-- The RMS of a leg over its window in 0.01 dBFS (R321 step 4). -/
def windowLevel (p : LegPath) : Int :=
  levelOf (isqrt 64 (2 * (((p.mono.take fineWindow).map fun v => (v * v).toNat).sum * 4294967296 / fineWindow)) 0) (fullScale * 65536)

/-- One lag measurement (R321): λ in ticks and the peak correlation in 0.1 %; none where the histories cover no lag. -/
def measureLag (a b : LegPath) : Option LagReading :=
  match coarseLag a.history b.history with
  | none => none
  | some (k, c) => (fineLag k (correlationAt fineWindow a.mono b.mono)).map fun l =>
      { lag := l, corr := (roundDiv (1000 * c) unitOne).toNat }

end Sys2Proof.Machine
end

