-- ==== Sys2Proof/Machine/Follow.lean ====
section
/-! DEFINITION. Programme following (09_programme_following.md, R312 to R338): matching, the choice of a standby,
lag, alignment delays, level and quality, readiness, fades and dips, and the follower's status record. Delays are held
in millionths of a tick, trims in 1/600 of 0.01 dB and qualities in 2^-32 of 0.1 %, so that walks, relaxation and
means are exact to those units. -/

namespace Sys2Proof.Machine

/-- One follower replaced by a function of it. -/
def modFollow (s : State) (o : Fin 8) (f : Follower → Follower) : State := { s with follow := vmod s.follow o f }

/-- A leg by side; `true` is B. -/
def legOf (f : Follower) (b : Bool) : LegRef := if b then f.legB else f.legA
/-- The leg that is heard. -/
def activeLeg (f : Follower) : LegRef := legOf f f.activeB
/-- The other leg. -/
def standbyLeg (f : Follower) : LegRef := legOf f (!f.activeB)
/-- A standby is present. -/
def twoLegs (f : Follower) : Bool := (standbyLeg f).slot.isSome

def setLeg (b : Bool) (k : LegRef) (f : Follower) : Follower := if b then { f with legB := k } else { f with legA := k }
def delayOf (f : Follower) (b : Bool) : Nat := if b then f.delayB else f.delayA
def setDelay (b : Bool) (d : Nat) (f : Follower) : Follower := if b then { f with delayB := d } else { f with delayA := d }
def trimOf (f : Follower) (b : Bool) : Int := if b then f.trimB else f.trimA
def setTrim (b : Bool) (v : Int) (f : Follower) : Follower := if b then { f with trimB := v } else { f with trimA := v }

/-- The slot of a leg. -/
def legSlot (s : State) (k : LegRef) : Slot :=
  match k.slot with
  | some i => s.slots[i]
  | none => Slot.reset

/-- The slot state of a leg. -/
def legState (s : State) (k : LegRef) : SlotState := (legSlot s k).state

/-! ### Codes and events (R322, R334, R336) -/

/-- Codes of R334. -/
def followCode : FollowState → Nat
  | .off => 0 | .single => 1 | .measuring => 2 | .dip => 3 | .ready => 4 | .fading => 5
/-- Codes of R322. -/
def lagCode : LagState → Nat
  | .searching => 0 | .locked => 1 | .exceeded => 2 | .notFound => 3

/-- A slot number or 0xFF. -/
def slotByte (k : LegRef) : List Byte := opt8 (k.slot.map Fin.val)

/-- `EV_FOLLOW_STATE` (R336). With no lag known, `lag_ticks` is a free value (log entry 29). -/
def followEvent (o : Fin 8) (old : FollowState) (offset : Int) (s : State) : State :=
  let f := s.follow[o]
  let lag := f.lagTicks.getD (Config.freeInt s.freeNext)
  queueEvent { s with freeNext := s.freeNext + 1 } evFollowState o.val
    (u8 (followCode old) ++ u8 (followCode f.state) ++ u8 (lagCode f.lag) ++ slotByte (standbyLeg f)
      ++ s32 lag ++ s32 offset ++ u16 f.corr)

/-- A follower changes state (R334). -/
def setFollowState (o : Fin 8) (new : FollowState) (offset : Int) (s : State) : State :=
  let old := s.follow[o].state
  if old = new then s
  else noteState s.now 3 o.val (followCode old) (followCode new) (followEvent o old offset (modFollow s o fun f => { f with state := new }))

/-- The lag state changes (R322): SEARCHING starts its runs anew, and LOCKED asks for a new trim (R327). -/
def setLag (o : Fin 8) (new : LagState) (s : State) : State :=
  let f := s.follow[o]
  if f.lag = new then s
  else followEvent o f.state 0 (modFollow s o fun f =>
    { f with
      lag := new
      agreeing := if new = .searching then [] else f.agreeing
      lowRun := if new = .searching then 0 else f.lowRun
      searchFrom := if new = .searching then curStroke s else f.searchFrom
      trimSet := f.trimSet && new != .locked })

/-- The search starts again: a leg enters ACQUIRING, or the standby changes (R322). -/
def lagReset (o : Fin 8) (s : State) : State :=
  let s1 := setLag o .searching (modFollow s o fun f => { f with lagTicks := none, corr := 0, lagDue := none })
  modFollow s1 o fun f => { f with agreeing := [], lowRun := 0, searchFrom := curStroke s }

/-! ### Matching (R317 to R319) -/

/-- The service records with their indices, by index. -/
def serviceRecs (s : State) : List (Nat × ServiceRec) :=
  sortBy (fun a b => a.1 ≤ b.1) (s.db.recs.filterMap fun r => match r.body with | .service v => some (r.index, v) | _ => none)

/-- Two ECCs match (R318). -/
def eccMatch (a b : Byte) : Bool := a == 0 || b == 0 || a == b

/-- A linkage set names a service (R299, R317). -/
def setNames (l : LinkageRec) (v : ServiceRec) : Bool :=
  l.entries.any fun e => e.id == v.sid.toNat && e.kind == (if v.dab then 0 else 1) && eccMatch (BitVec.ofNat 8 e.flag) v.ecc

/-- The linkage sets of the database. -/
def linkageSets (s : State) : List LinkageRec :=
  s.db.recs.filterMap fun r => match r.body with | .linkage l => some l | _ => none

/-- The rank of a record against the target, which is also its kind code (R317, R318). -/
def matchRank (sets : List LinkageRec) (allow : Byte) (t r : ServiceRec) : Option Nat :=
  if !allow.getLsbD (if r.dab then 1 else 0) then none
  else if t.dab = r.dab ∧ t.sid = r.sid ∧ eccMatch t.ecc r.ecc then some 1
  else if t.dab ≠ r.dab ∧ t.sid = r.sid ∧ t.sid.toNat < 0x10000 ∧ eccMatch t.ecc r.ecc then some 2
  else
    let both := sets.filter fun l => l.active && setNames l t && setNames l r
    if both.any (·.hard) then some 3
    else if allow.getLsbD 3 ∧ !t.dab ∧ !r.dab ∧ (t.sid ^^^ r.sid) &&& 0xF0FF = 0 then some 4
    else if allow.getLsbD 4 ∧ !both.isEmpty then some 5
    else none

/-- The PI codes whose AF sets name an FM frequency (R299, R317): RDS sets of methods A and B, FIG 0/21 and EON. -/
def afOwners (s : State) (freq : Nat) : List Word :=
  s.db.recs.filterMap fun r => match r.body with
    | .afSet a =>
      if a.entries.any fun e => e.id == freq && e.kind == 0 then
        (match recAt s.db.recs a.owner with | some q => (match q.body with | .service v => some v.sid | _ => none) | none => none)
      else none
    | _ => none

/-- The service record that an FM slot carries: that of its PI and ECC, or, while no PI has been received, that of its frequency,
which may stand in the record or in an AF set (R317). -/
def fmServiceOf (s : State) (x : Slot) : Option Nat :=
  let l := (serviceRecs s).filter fun e => !e.2.dab
  match x.rds.piLast with
  | some pi => (l.find? fun e => e.2.sid == pi.zeroExtend 32 && eccMatch e.2.ecc x.rds.ecc).map (·.1)
  | none =>
    match l.find? fun e => e.2.freq == x.tune.freq with
    | some e => some e.1
    | none => let owners := afOwners s x.tune.freq; (l.find? fun e => owners.contains e.2.sid).map (·.1)

/-- The ECC of the ensemble that a slot receives; 0 while the database has none. -/
def slotEcc (s : State) (i : Fin 48) : Byte :=
  (s.db.recs.findSome? fun r => match r.body with
    | .ensemble v => if v.freq = s.slots[i].tune.freq then some v.ecc else none
    | _ => none).getD 0

/-- The primary audio components of an ensemble slot: those of its current configuration, or in the local role those that the
database places in its ensemble (R265, R318; log entry 128). -/
def slotPrimaries (s : State) (i : Fin 48) : List (Word × Byte) :=
  if isLocal s then
    s.db.recs.filterMap fun r => match r.body with
      | .component c => if c.tmid = 0 ∧ c.flags.getLsbD 0 ∧ (slotComponent s i c.sid (BitVec.ofNat 8 c.scids)).isSome
          then some (c.sid, BitVec.ofNat 8 c.scids) else none
      | _ => none
  else
    s.slots[i].dab.comps.filterMap fun c => if c.tmid = 0 ∧ c.primary then c.scids.map fun k => (c.sid, BitVec.ofNat 8 k) else none

/-- The DAB service record of a SId on the ensemble of a slot. -/
def dabServiceOf (s : State) (i : Fin 48) (sid : Word) : Option Nat :=
  ((serviceRecs s).find? fun e => e.2.dab && e.2.sid == sid && eccMatch e.2.ecc (slotEcc s i)).map (·.1)

/-- Every leg that a slot of the host in one of some states offers, with the record it carries (R319). -/
def carriedBy (s : State) (ok : SlotState → Bool) : List (LegRef × Nat) :=
  (indexed s.slots).flatMap fun (i, x) =>
    if x.visit || x.state == .free || !ok x.state then []
    else match x.tune.type with
      | .am => []
      | .dab => (slotPrimaries s i).filterMap fun e => (dabServiceOf s i e.1).map fun r => (⟨some i, e.1, e.2⟩, r)
      | _ => match fmServiceOf s x with | some r => [(⟨some i, 0, 0⟩, r)] | none => []

/-- The legs that LIVE and NO_SIGNAL slots offer (R319). -/
def carried (s : State) : List (LegRef × Nat) := carriedBy s fun x => x == .live || x == .noSignal

/-- The record of a leg: the target when the leg is A (R317). -/
def legRecord (s : State) (k : LegRef) : Option Nat :=
  match k.slot with
  | none => none
  | some i =>
    match s.slots[i].tune.type with
    | .am => none
    | .dab => if (slotComponent s i k.sid k.scids).isSome then dabServiceOf s i k.sid else none
    | _ => fmServiceOf s s.slots[i]

/-- The service of a record index. -/
def serviceAt (s : State) (i : Option Nat) : Option ServiceRec :=
  match i.bind (recAt s.db.recs) with
  | some r => (match r.body with | .service v => some v | _ => none)
  | none => none

/-- The rank of a leg against a follower's target. -/
def legRank (s : State) (f : Follower) (k : LegRef) : Option Nat :=
  match serviceAt s f.target, serviceAt s (legRecord s k) with
  | some t, some r => matchRank (linkageSets s) f.cfg.allow t r
  | _, _ => none

/-- The candidates of a follower with their ranks; the active leg is never one (R319). -/
def candidates (s : State) (f : Follower) : List (LegRef × Nat) :=
  match serviceAt s f.target with
  | none => []
  | some t =>
    let sets := linkageSets s
    (carried s).filterMap fun e =>
      if e.1 = activeLeg f then none
      else match serviceAt s (some e.2) with
        | some r => (matchRank sets f.cfg.allow t r).map fun k => (e.1, k)
        | none => none

/-! ### Quality (R326) -/

/-- 0.1 % in the unit of the qualities. -/
def qUnit : Nat := 4294967296

/-- The quality of a leg over the stroke just ended (R326), 2^-32 of 0.1 %. `conceal` is its last concealment. -/
def qualityOf (s : State) (c : FollowCfg) (k : LegRef) (conceal : Option Nat) : Nat :=
  let x := legSlot s k
  if x.state ≠ .live then 0
  else if x.tune.type = .dab then
    if conceal.any (s.now ≤ · + 12288000) then 0
    else 1000 * (unitOne - ramp (if x.dab.lastFrameOk then x.dab.berPre else 65535) c.dabBerGood c.dabBerBad)
  else 1000 * (unitOne - driveTarget x (fnsOf x).1)

/-- The history of a leg. -/
def histOf (f : Follower) (k : LegRef) : List Nat :=
  match f.hist.find? fun e => e.1 == k with
  | some e => e.2
  | none => []

/-- Qs: the mean over the last `q_window_ms` strokes, or over those since the leg joined (R326). -/
def smoothedQ (f : Follower) (k : LegRef) : Nat :=
  let l := (histOf f k).take f.cfg.qWindowMs
  if l.isEmpty then 0 else l.sum / l.length

/-- The bearer of a leg in the code of `prefer` (R313). -/
def bearerCode (s : State) (k : LegRef) : Nat :=
  match (legSlot s k).tune.type with
  | .dab => 2 | .am => 0 | _ => 1

/-- The score of a leg (R326). -/
def scoreOf (s : State) (f : Follower) (k : LegRef) : Nat :=
  smoothedQ f k + if f.cfg.prefer ≠ 0 ∧ bearerCode s k = f.cfg.prefer then f.cfg.preferBonus * qUnit else 0

/-- When the decoder of a leg, or of a standby its follower, last concealed a frame (R266, R326). -/
def concealOf (s : State) (o : Fin 8) (k : LegRef) : Option Nat :=
  let f := s.follow[o]
  if k = f.legA then s.audio[o].legA.concealAt else if k = f.legB then s.audio[o].legB.concealAt else none

/-- The histories one stroke later: the legs and the candidates, each with its newest quality. -/
def stepHist (s : State) (o : Fin 8) (keys : List LegRef) : List (LegRef × List Nat) :=
  let f := s.follow[o]
  keys.eraseDups.map fun k => (k, (qualityOf s f.cfg k (concealOf s o k) :: histOf f k).take 10000)

/-! ### The standby (R320) -/

/-- The path of a new standby begins, at the rate of its source (R341), with an empty history; without two legs no history stands
(R321). -/
def beginStandby (o : Fin 8) (b : Bool) (s : State) : State :=
  let k := legSource s o b
  let s1 := modLeg s o b fun _ => { LegPath.reset with rate := sourceRate s o k }
  if k.leg.slot.isSome then beginLeg o b s1
  else modLeg s1 o (!b) fun p => { p with mono := [], history := [] }

/-- The standby changes, or is dropped: its path begins, its delay and trim start at zero, and the search starts again (R320,
R322). -/
def setStandby (o : Fin 8) (k : LegRef) (rank : Nat) (s : State) : State :=
  let b := !s.follow[o].activeB
  let s1 := modFollow s o fun f =>
    let f1 := setTrim b 0 (setDelay b 0 (setLeg b k f))
    { f1 with
      bMatch := rank, trimSet := false, beat := [], need := none, levelFrom := none, lastMeasure := s.now
      prevA := if b then f.prevA else none, prevB := if b then none else f.prevB
      hist := if k.slot.isSome then upsert (fun e => e.1 == k) (k, [qualityOf s f.cfg k none]) f1.hist else f1.hist }
  lagReset o (beginStandby o b s1)

/-- The best of a list of candidates: highest score, then lowest rank, then lowest slot (R320). -/
def bestCandidate (s : State) (f : Follower) (l : List (LegRef × Nat)) : Option (LegRef × Nat) :=
  l.foldl (fun (b : Option (LegRef × Nat)) e =>
    match b with
    | none => some e
    | some c =>
      let (se, sc) := (scoreOf s f e.1, scoreOf s f c.1)
      if sc < se ∨ (sc = se ∧ (e.2 < c.2 ∨ (e.2 = c.2 ∧ (e.1.slot.map Fin.val).getD 48 < (c.1.slot.map Fin.val).getD 48))) then some e else b) none

/-- The reasons of R320 to replace a standby that is present. -/
def replaceDue (s : State) (f : Follower) : Bool :=
  twoLegs f &&
    ((leftLive (legSlot s (standbyLeg f))).any (· + 24576000 ≤ s.now) || f.lag == .exceeded || f.lag == .notFound
      || f.beat.any (5000 ≤ ·.2))

/-- How long each candidate has outscored the standby (R320), one stroke later. -/
def stepBeat (s : State) (f : Follower) (l : List (LegRef × Nat)) : List (LegRef × Nat) :=
  let s0 := scoreOf s f (standbyLeg f) + f.cfg.qHyst * qUnit
  l.filterMap fun e =>
    if e.1 = standbyLeg f ∨ scoreOf s f e.1 < s0 then none
    else some (e.1, 1 + (match f.beat.find? fun b => b.1 == e.1 with | some b => b.2 | none => 0))

/-- The replacement of R320: the best other candidate takes the standby's place; with none it stays. -/
def replaceRule (o : Fin 8) (s : State) : State :=
  let f := s.follow[o]
  if f.cfg.mode = 2 ∧ f.state ≠ .off ∧ f.state ≠ .fading ∧ f.state ≠ .dip ∧ replaceDue s f then
    match bestCandidate s f ((candidates s f).filter fun e => e.1 != standbyLeg f) with
    | some (k, r) => setStandby o k r s
    | none => s
  else s

/-- The choice of the standby on one stroke (R320). A standby whose slot has been released is dropped. -/
def chooseStandby (o : Fin 8) (s : State) : State :=
  let s1 := if twoLegs s.follow[o] ∧ legState s (standbyLeg s.follow[o]) = .free then setStandby o LegRef.none 0 s else s
  let f := s1.follow[o]
  let l := candidates s1 f
  if !twoLegs f then
    match bestCandidate s1 f l with
    | some (k, r) => setStandby o k r s1
    | none => s1
  else
    let rank := match l.find? fun e => e.1 == standbyLeg f with | some e => e.2 | none => f.bMatch
    replaceRule o (modFollow s1 o fun f => { f with beat := stepBeat s1 f l, bMatch := rank })

/-! ### Lag (R321, R322) -/

/-- A measurement is void (R321 step 4): a leg below −60 dBFS, or outside LIVE within the window. -/
def lagVoid (s : State) (o : Fin 8) : Bool :=
  let f := s.follow[o]
  let a := s.now - 25165824
  windowLevel s.audio[o].legA < -6000 || windowLevel s.audio[o].legB < -6000
    || !liveThroughout (legSlot s f.legA) a s.now || !liveThroughout (legSlot s f.legB) a s.now

/-- LAG_MEASUREMENT (R321): every 250 ms, while two legs are present, a measurement ends; its result waits for the first
boundary at least 2 ms later. A void one is not counted. -/
def execLagMeasurement (o : Fin 8) (s : State) : Out :=
  let f := s.follow[o]
  if f.state ≠ .off ∧ twoLegs f ∧ f.lastMeasure + 6144000 ≤ s.now then
    let due := if lagVoid s o then none else measureLag s.audio[o].legA s.audio[o].legB
    .next (modFollow s o fun f =>
      { f with lastMeasure := s.now - (s.now - f.lastMeasure) % 6144000
               lagDue := match due with | some r => some (strokeFrom (s.now + 49152), r) | none => f.lagDue })
  else .next s

/-- λ within 3.0 s locks, beyond it exceeds (R322). -/
def lockState (lag : Int) : LagState := if lag.natAbs ≤ 73728000 then .locked else .exceeded

/-- A counted measurement steps the lag state (R322). -/
def takeLag (o : Fin 8) (r : LagReading) (s0 : State) : State :=
  let s := modFollow s0 o fun f => { f with corr := r.corr, lagDue := none }
  let f := s.follow[o]
  let reach := f.cfg.corrLock ≤ r.corr
  match f.lag with
  | .searching =>
    if !reach then modFollow s o fun f => { f with agreeing := [] }
    else
      let run := if f.agreeing.all fun v => (v - r.lag).natAbs ≤ 24576 then (r.lag :: f.agreeing).take 3 else [r.lag]
      if run.length = 3 then setLag o (lockState r.lag) (modFollow s o fun f => { f with agreeing := run, lagTicks := some r.lag })
      else modFollow s o fun f => { f with agreeing := run }
  | .notFound => if reach then setLag o .searching s else s
  | _ =>
    let low := if 2 * r.corr < f.cfg.corrLock then f.lowRun + 1 else 0
    let moved := f.lagTicks.any fun v => 122880 < (v - r.lag).natAbs
    if moved ∨ 8 ≤ low then setLag o .searching s
    else setLag o (lockState r.lag) (modFollow s o fun f => { f with lowRun := low, lagTicks := some r.lag })

/-- A result has come to its stroke (R321 step 5). -/
def lagResultDue (s : State) (f : Follower) : Bool :=
  f.state != .off && twoLegs f && f.lagDue.any fun e => e.1 ≤ curStroke s
/-- The result takes effect (R322). -/
def lagResultRule (o : Fin 8) (s : State) : State :=
  if lagResultDue s s.follow[o] then
    match s.follow[o].lagDue with
    | some (_, r) => takeLag o r s
    | none => s
  else s

/-- 20 s of SEARCHING have passed (R322). -/
def notFoundDue (s : State) (f : Follower) : Bool :=
  f.state != .off && twoLegs f && f.lag == .searching && f.searchFrom + 20000 ≤ curStroke s
/-- SEARCHING to NOT_FOUND (R322). -/
def notFoundRule (o : Fin 8) (s : State) : State := if notFoundDue s s.follow[o] then setLag o .notFound s else s

/-- A leg that enters ACQUIRING starts the search again (R322). -/
def acquiringRule (o : Fin 8) (s : State) : State :=
  let f := s.follow[o]
  let entered := fun (k : LegRef) (p : Option SlotState) =>
    k.slot.isSome && legState s k == .acquiring && p.any (· != .acquiring)
  let s1 := if twoLegs f ∧ (entered f.legA f.prevA || entered f.legB f.prevB) then lagReset o s else s
  modFollow s1 o fun f =>
    { f with prevA := f.legA.slot.map fun i => s.slots[i].state, prevB := f.legB.slot.map fun i => s.slots[i].state }

/-! ### Alignment delays (R323, R324) -/

/-- 3.0 s in millionths of a tick. -/
def delayCap : Nat := 73728000000000

/-- λ_s: the lag of the standby behind the active leg, in millionths of a tick. -/
def standbyLag (f : Follower) : Option Int := f.lagTicks.map fun v => (if f.activeB then -v else v) * 1000000

/-- The standby's place against the active leg (R323): its delay when it fits, else zero or what the delay unit leaves, and the
delay that the active leg is to reach, with the least aligned pair of delays. -/
def placeStandby (f : Follower) : Follower :=
  match standbyLag f with
  | none => { f with need := none }
  | some l =>
    if f.lag ≠ .locked ∨ !twoLegs f then { f with need := none }
    else
      let a := delayOf f f.activeB
      let t : Int := a - l
      if 0 ≤ t ∧ a + t ≤ delayCap then setDelay (!f.activeB) t.toNat { f with need := none }
      else setDelay (!f.activeB) (if t < 0 then 0 else delayCap - a) { f with need := some l.toNat }

/-- One stroke of walking (R324), after which a locked standby takes its place; a standby dropped has no delay. -/
def walkDelays (f : Follower) : Follower :=
  let (a, b) := walkMove f (f.cfg.stretchPpm * 24576)
  let f1 := if twoLegs f then { f with delayA := a, delayB := b } else setDelay (!f.activeB) 0 f
  placeStandby f1

/-- A walk has reached its delay (R324). -/
def walkDoneDue (f : Follower) : Bool := f.state != .off && f.need.any (· == delayOf f f.activeB)
/-- The standby is aligned once the walk is done. -/
def walkDoneRule (o : Fin 8) (s : State) : State :=
  if walkDoneDue s.follow[o] then modFollow s o placeStandby else s

/-! ### Level (R325) and readiness (R327) -/

/-- The level window: it runs while the lag is LOCKED and no delay is awaited. -/
def stepLevelWindow (stroke : Nat) (f : Follower) : Follower :=
  if twoLegs f ∧ f.lag = .locked ∧ f.need = none then { f with levelFrom := some (f.levelFrom.getD stroke) }
  else { f with levelFrom := none }

/-- A trim held to ±12.00 dB. -/
def clampTrim (v : Int) : Int := clampInt (-720000) 720000 v

/-- The active trim relaxes toward 0 dB at 1.00 dB a minute outside FADING, and the standby's moves with it (R325). -/
def relaxTrim (f : Follower) : Follower :=
  if f.state = .fading then f
  else
    let a := trimOf f f.activeB
    let mv : Int := if 0 < a then -1 else if a < 0 then 1 else 0
    let f1 := setTrim f.activeB (a + mv) f
    if twoLegs f then setTrim (!f.activeB) (clampTrim (trimOf f (!f.activeB) + mv)) f1 else f1

/-- The standby is ready (R327). -/
def followReady (s : State) (f : Follower) : Bool :=
  twoLegs f && legState s (standbyLeg f) == .live && f.lag == .locked && f.need.isNone && f.fade.isNone && f.trimSet

/-- SINGLE, MEASURING and READY by what the standby is (R334), outside a fade and a dip. -/
def restFollow (o : Fin 8) (s : State) : State :=
  let f := s.follow[o]
  if f.state = .off ∨ f.state = .fading ∨ f.state = .dip then s
  else setFollowState o (if !twoLegs f then .single else if followReady s f then .ready else .measuring) 0 s

/-- A level window of `level_window_ms` has ended (R325). -/
def levelWindowDue (s : State) (f : Follower) : Bool :=
  f.state != .off && f.state != .fading && f.state != .dip && f.levelFrom.any fun n => n + f.cfg.levelWindowMs ≤ curStroke s

/-- The trim of the standby at the end of a window, from the mono RMS of both legs in 0.01 dBFS (R325). -/
def setTrimFrom (rmsA rmsB : Int) (f : Follower) : Follower :=
  if rmsA < -5000 ∨ rmsB < -5000 then f
  else
    let (ra, rs) := if f.activeB then (rmsB, rmsA) else (rmsA, rmsB)
    let v := (roundDiv (trimOf f f.activeB) 600 + ra - rs) * 600
    { setTrim (!f.activeB) (clampTrim v) f with trimSet := true }

/-- The end of a level window (R325): the trim is set where both legs have the level, and the next window begins. -/
def levelWindowRule (o : Fin 8) (s : State) : State :=
  let f := s.follow[o]
  if !levelWindowDue s f then s
  else modFollow s o fun f =>
    { (match legLevels s o f.cfg.levelWindowMs with
        | some (a, b) => setTrimFrom a b f
        | none => f) with levelFrom := some (curStroke s) }

/-! ### Fades and dips (R324, R329 to R332) -/

/-- D + a of a leg in ticks. -/
def legLatency (s : State) (o : Fin 8) (f : Follower) (b : Bool) : Nat :=
  delayTicks (delayOf f b) + arrivalTicks s s.outs[o].cfg.minLatency (legOf f b)

/-- The start stroke s of R329 for a decision at a boundary. -/
def startStroke (n lat : Nat) : Nat := strokeFrom (n * 24576 + 49152 - lat)

/-- A fade is decided on this boundary (R328, R329, R330). -/
def decideFade (o : Fin 8) (reason : Nat) (unaligned : Bool) (s : State) : State :=
  let f := s.follow[o]
  let n := curStroke s
  let out := legLatency s o f f.activeB
  let st := startStroke n out
  let len := f.cfg.fadeMs * 24576
  modFollow s o fun f =>
    { f with
      switches := bump f.switches 1
      fade := some
        { Fade.reset with
          start := st, decided := n, reason := reason, toB := !f.activeB, unaligned := unaligned
          linear := f.cfg.linear, fadeMs := f.cfg.fadeMs, finish := st * 24576 + len, fromAt := st * 24576
          latency := out, tsStep := (out : Int) - legLatency s o f (!f.activeB)
          leave := strokeFrom (st * 24576 + len + out) } }

/-- A dip is decided on this boundary (R324, R329, R334). -/
def decideDip (o : Fin 8) (need : Nat) (lag : Int) (s : State) : State :=
  let f := s.follow[o]
  let n := curStroke s
  let out := legLatency s o f f.activeB
  let st := startStroke n out
  modFollow s o fun f =>
    { f with
      fade := some
        { Fade.reset with
          dip := true, start := st, decided := n, toB := f.activeB, latency := out
          mid := st * 24576 + out + 491520, finish := st * 24576 + 983040
          tsStep := (delayTicks (delayOf f f.activeB) : Int) - delayTicks need
          leave := strokeFrom (st * 24576 + out + 983040)
          newActive := need, newStandby := ((need : Int) - lag).toNat } }

/-- `EV_FOLLOW_SWITCH` (R336). -/
def switchEvent (o : Fin 8) (w : Fade) (phase : Nat) (s : State) : State :=
  queueEvent s evFollowSwitch o.val
    (u8 phase ++ u8 w.reason ++ uBool (!w.toB) ++ uBool w.toB ++ uBool w.unaligned ++ uBool w.linear ++ u16 w.fadeMs
      ++ s32 (((w.start * 24576 : Nat) : Int) - s.now) ++ s16 (if w.unaligned then 0 else Int.tdiv w.tsStep 24576))

/-- A decided fade or dip is to begin: the boundary after the decision has come (R328). -/
def fadeStartDue (s : State) (f : Follower) (dip : Bool) : Bool :=
  f.fade.any fun w => w.dip == dip && w.decided + 1 ≤ curStroke s && f.state != (if dip then .dip else .fading)
    && f.state != .off

/-- Entry to FADING (R328, R336). -/
def fadeStartRule (o : Fin 8) (s : State) : State :=
  if fadeStartDue s s.follow[o] false then
    match s.follow[o].fade with
    | some w => switchEvent o w 0 (setFollowState o .fading 0 s)
    | none => s
  else s

/-- The delays of a dip take their new values between its two fades (R324). -/
def dipDelays (o : Fin 8) (s : State) : State :=
  modFollow s o fun f =>
    match f.fade with
    | some w =>
      if w.dip ∧ !w.dipped ∧ w.mid ≤ s.now then
        setDelay (!f.activeB) w.newStandby (setDelay f.activeB w.newActive { f with fade := some { w with dipped := true } })
      else f
    | none => f

/-- Entry to DIP with the dip's start offset (R336), and the change of the delays once the first fade has passed. -/
def dipStartRule (o : Fin 8) (s : State) : State :=
  let s1 := if fadeStartDue s s.follow[o] true then
      match s.follow[o].fade with
      | some w => setFollowState o .dip (((w.start * 24576 : Nat) : Int) - s.now) s
      | none => s
    else s
  dipDelays o s1

/-- The source of an output changes to what its follower, or its configuration, now says: a restart (R316, R353), with
the old path as it was in the state before. -/
def sourceChange (o : Fin 8) (before s : State) : State :=
  let x := s.outs[o]
  if (x.state = .settling ∨ x.state = .running) ∧ x.stopAt = none then restartOut o outByRestart .defaults before s else s

/-- The path of a heard leg B goes on as that of leg A, where following ends or starts anew (log entry 108). -/
def pathToA (o : Fin 8) (s : State) : State :=
  if heardB s o then
    modOut (modAudio s o fun p => { p with legA := p.legB, legB := LegPath.reset }) o fun x =>
      { x with active := (x.active.set 0 x.active[(2 : Fin 7)]).set 1 x.active[(3 : Fin 7)]
               shadow := (x.shadow.set 0 x.shadow[(2 : Fin 7)]).set 1 x.shadow[(3 : Fin 7)] }
  else s

/-- Following ends (R316, R334): with no OUT_SET in the transaction the active leg stays the live source. -/
def stopFollow (o : Fin 8) (keep : Bool) (s : State) : State :=
  let f := s.follow[o]
  let k := activeLeg f
  let s1 := setFollowState o .off 0
    (modFollow (pathToA o s) o fun f => { Follower.reset with cfg := { f.cfg with mode := 0 }, state := f.state })
  let c := s.outs[o].cfg
  if keep then
    match k.slot with
    | some i => modOut s1 o fun x => { x with cfg := { x.cfg with cursor := false, srcSlot := i, srcSid := k.sid, srcScids := k.scids } }
    | none => s1
  else if c.cursor ∨ some c.srcSlot ≠ k.slot ∨ c.srcSid ≠ k.sid ∨ c.srcScids ≠ k.scids then sourceChange o s s1
  else s1

/-- Following starts with leg A active (R316, R317, R334). -/
def startFollow (o : Fin 8) (c : FollowCfg) (s : State) : State :=
  let old := s.follow[o].state
  let s1 := modFollow (pathToA o s) o fun _ =>
    { Follower.reset with cfg := c, state := old, legA := c.a, onLegFrom := curStroke s, searchFrom := curStroke s }
  let s2 := modFollow (setFollowState o .single 0 s1) o fun f => { f with target := legRecord s c.a }
  if c.b.slot.isSome then setStandby o c.b ((legRank s2 s2.follow[o] c.b).getD 0) s2 else s2

/-- The leg that an output hears before a `FOLLOW_SET`. -/
def heardNow (s : State) (o : Fin 8) : LegRef := heardLeg s o

/-- `FOLLOW_SET` outside a fade (R316, R317): it ends following, starts it, or changes its parameters and, in manual
mode, its legs. Another leg A than the settings or, in manual mode, leg A hold, or a new leg B while B is heard, starts following
anew. In auto mode a standby whose slot the same transaction releases is dropped (R320). -/
def setFollow (o : Fin 8) (c : FollowCfg) (s : State) : State :=
  let f := s.follow[o]
  if c.mode = 0 then
    if f.state = .off then modFollow s o fun f => { f with cfg := c }
    else modFollow (stopFollow o true s) o fun f => { f with cfg := c }
  else if f.state = .off ∨ c.a ≠ f.cfg.a ∨ (c.mode = 1 ∧ (c.a ≠ f.legA ∨ (f.activeB ∧ c.b ≠ f.legB))) then
    let s1 := startFollow o c s
    if s.outs[o].cfg.cursor ∨ heardNow s o ≠ c.a then sourceChange o s s1 else s1
  else
    let s1 := modFollow s o fun f => { f with cfg := c }
    if c.mode = 1 ∧ c.b ≠ legOf f (!f.activeB) ∧ !f.activeB then
      setStandby o c.b ((legRank s1 s1.follow[o] c.b).getD 0) s1
    else if twoLegs f ∧ legState s (standbyLeg f) = .free then setStandby o LegRef.none 0 s1
    else s1

/-- The end of a fade or dip (R331, R332, R334): the delays of a dip stand, the incoming leg of a fade is active, and
what was held applies. -/
def fadeEndCore (o : Fin 8) (s : State) : State :=
  match s.follow[o].fade with
  | none => s
  | some w =>
    let s1 := if w.dip then dipDelays o (modFollow s o fun f =>
        { f with fade := some { w with mid := if w.dipped then w.mid else min w.mid s.now } }) else s
    let held := s.follow[o].heldSet
    let s2 := modFollow s1 o fun f =>
      { f with
        fade := none, lastFade := some w, heldSet := none
        activeB := if w.dip then f.activeB else w.toB
        onLegFrom := if w.dip then f.onLegFrom else curStroke s
        need := none }
    let s3 := modFollow s2 o placeStandby
    let s4 := if w.dip then setFollowState o .measuring 0 s3
      else
        let f := s3.follow[o]
        setFollowState o (if followReady s3 f then .ready else if twoLegs f then .measuring else .single) 0 (switchEvent o w 1 (resetPad o s3))
    let s5 := if w.stopAfter then stopFollow o w.keepSource s4 else s4
    match held with
    | some c => setFollow o c s5
    | none => s5

/-- The boundary at which the last faded sample has left the crossfade stage (R332, R334). -/
def fadeEndDue (s : State) (f : Follower) (dip : Bool) : Bool :=
  f.fade.any fun w => w.dip == dip && w.leave ≤ curStroke s && f.state == (if dip then .dip else .fading)

/-- FADING is left (R332). -/
def fadeEndRule (o : Fin 8) (s : State) : State := if fadeEndDue s s.follow[o] false then fadeEndCore o s else s
/-- DIP is left (R334). -/
def dipEndRule (o : Fin 8) (s : State) : State := if fadeEndDue s s.follow[o] true then fadeEndCore o s else s

/-- `mode` off during a fade or dip: the rest is shortened to 10 ms from the apply stroke (R331). -/
def shortenFade (o : Fin 8) (s : State) : State :=
  modFollow s o fun f =>
    { f with
      cfg := { f.cfg with mode := 0 }, heldSet := none
      fade := f.fade.map fun w =>
        let finish := s.now + 245760
        let stampEnd := max (w.start * 24576) (min w.finish (finish - w.latency))
        let from_ := max (w.start * 24576) (s.now - w.latency)
        { w with
          fromAt := from_, fromX := fadePosition w from_
          stopAfter := true, leave := min w.leave (strokeFrom finish)
          finish := if w.dip then w.finish else stampEnd
          } }

/-- `FOLLOW_SET` applies (R331). -/
def applyFollowSet (o : Fin 8) (c : FollowCfg) (s : State) : State :=
  if followBusy s o (curStroke s) then
    if c.mode = 0 then shortenFade o s else modFollow s o fun f => { f with heldSet := some c }
  else setFollow o c s

/-! ### Decisions (R328) -/

/-- The reasons of R336. -/
def fadeFailover : Nat := 1
def fadeQuality : Nat := 2
def fadePreference : Nat := 3
def fadeManual : Nat := 4

/-- What R328 decides for one follower on a boundary, and the dip of R334 for a deficit. -/
def followDecide (o : Fin 8) (s : State) : State :=
  let f := s.follow[o]
  if f.state = .off ∨ f.state = .fading ∨ f.state = .dip ∨ f.fade.isSome ∨ !twoLegs f then s
  else
    let (sa, ss) := (scoreOf s f (activeLeg f), scoreOf s f (standbyLeg f))
    let ready := followReady s f
    match f.need, standbyLag f with
    | some n, some l => if f.cfg.dip ∧ f.lag = .locked then decideDip o n l s else decide2 f sa ss ready s
    | _, _ => decide2 f sa ss ready s
where
  /-- The switching rules. -/
  decide2 (f : Follower) (sa ss : Nat) (ready : Bool) (s : State) : State :=
    if legState s (activeLeg f) ≠ .live then
      if f.cfg.mode ≠ 2 then s
      else if ready then decideFade o fadeFailover false s
      else if f.cfg.allow.getLsbD 5 ∧ legState s (standbyLeg f) = .live
          ∧ (leftLive (legSlot s (activeLeg f))).any (· + ticksOfMs f.cfg.unalignedWaitMs ≤ s.now) then
        decideFade o fadeFailover true s
      else s
    else if f.cfg.mode = 2 ∧ ready then
      if smoothedQ f (activeLeg f) < f.cfg.qFail * qUnit ∧ sa + f.cfg.qHyst * qUnit ≤ ss then decideFade o fadeQuality false s
      else if f.onLegFrom + f.cfg.dwellMs ≤ curStroke s ∧ f.cfg.qGood * qUnit ≤ smoothedQ f (standbyLeg f)
          ∧ sa + f.cfg.qHyst * qUnit ≤ ss then decideFade o fadePreference false s
      else s
    else s

/-! ### Strokes -/

/-- The rules of one follower at a stroke boundary, before the records are latched. A manual standby that matches under no kind of
R317 has kind code 0 (DESIGN CHOICE, log entry 121). -/
def strokeFollower (o : Fin 8) (s0 : State) : State :=
  if s0.follow[o].state = .off then s0
  else
    let s := dipEndRule o (fadeEndRule o (dipStartRule o (fadeStartRule o s0)))
    if s.follow[o].state = .off then s
    else
      let busy := s.follow[o].state = .fading ∨ s.follow[o].state = .dip
      let s1 := modFollow s o fun f => { f with target := match f.target with | some t => some t | none => legRecord s f.cfg.a }
      let f1 := s1.follow[o]
      let keys := ([f1.legA, f1.legB].filter (·.slot.isSome)) ++ (if f1.cfg.mode = 2 then (candidates s1 f1).map (·.1) else [])
      let s2 := modFollow s1 o fun f => { f with hist := stepHist s1 o keys }
      let s3 := if !busy ∧ f1.cfg.mode = 2 then chooseStandby o s2 else s2
      let s4 := notFoundRule o (lagResultRule o (acquiringRule o s3))
      let s5 := if busy then s4 else modFollow (levelWindowRule o s4) o fun f => stepLevelWindow (curStroke s) (walkDelays f)
      let s6 := modFollow s5 o relaxTrim
      let s7 := if s6.follow[o].cfg.mode = 1 ∧ twoLegs s6.follow[o] then
          modFollow s6 o fun f => { f with bMatch := (legRank s6 f (standbyLeg f)).getD 0 } else s6
      restFollow o s7

/-- Every follower at a stroke boundary. -/
def strokeFollowers (s : State) : State := (List.finRange 8).foldl (fun s o => strokeFollower o s) s

/-- The decisions of every follower from the records latched on the boundary. -/
def decideFollowers (s : State) : State := (List.finRange 8).foldl (fun s o => followDecide o s) s

/-- A follower's rule as a command of its own: it acts on a boundary, its records are latched with it, and the decision
of R328 is evaluated on them. -/
def followRow (o : Fin 8) (rule : State → State) (s : State) : State :=
  if atBoundary s then
    let s1 := restamp s.evq.length (restFollow o (rule s))
    followDecide o { s1 with latch := { s1.latch with outs := s1.outs, ports := s1.ports, follow := s1.follow } }
  else s

/-! ### Event rows -/

/-- LAG_RESULT (R322, R323): the result takes effect, and a locked standby takes its place. -/
def execLagResult (o : Fin 8) (s : State) : Out :=
  .next (if lagResultDue s s.follow[o] then followRow o (fun s =>
    let s1 := lagResultRule o s
    if followBusy s1 o (curStroke s1) then s1 else modFollow s1 o placeStandby) s else s)
/-- LAG_NOT_FOUND (R322). -/
def execLagNotFound (o : Fin 8) (s : State) : Out :=
  .next (if notFoundDue s s.follow[o] then followRow o (notFoundRule o) s else s)
/-- FOLLOW_STANDBY_REPLACE (R320). -/
def execFollowStandbyReplace (o : Fin 8) (s : State) : Out :=
  .next (if s.follow[o].cfg.mode = 2 ∧ replaceDue s s.follow[o] then followRow o (replaceRule o) s else s)
/-- LEVEL_WINDOW_END (R325). -/
def execLevelWindowEnd (o : Fin 8) (s : State) : Out :=
  .next (if levelWindowDue s s.follow[o] then followRow o (levelWindowRule o) s else s)
/-- DELAY_WALK_DONE (R324). -/
def execDelayWalkDone (o : Fin 8) (s : State) : Out :=
  .next (if walkDoneDue s.follow[o] then followRow o (walkDoneRule o) s else s)
/-- FOLLOW_FADE_START (R329 to R331). -/
def execFollowFadeStart (o : Fin 8) (s : State) : Out :=
  .next (if fadeStartDue s s.follow[o] false then followRow o (fadeStartRule o) s else s)
/-- FOLLOW_FADE_END (R332). -/
def execFollowFadeEnd (o : Fin 8) (s : State) : Out :=
  .next (if fadeEndDue s s.follow[o] false then followRow o (fadeEndRule o) s else s)
/-- FOLLOW_DIP_START (R324, R334). -/
def execFollowDipStart (o : Fin 8) (s : State) : Out :=
  .next (if fadeStartDue s s.follow[o] true then followRow o (dipStartRule o) s else s)
/-- FOLLOW_DIP_END (R334). -/
def execFollowDipEnd (o : Fin 8) (s : State) : Out :=
  .next (if fadeEndDue s s.follow[o] true then followRow o (dipEndRule o) s else s)

/-! ### Commands (R312 to R314, R333, R335, R319) -/

/-- A leg of `FOLLOW_SET` at an offset: slot, SId, SCIdS. -/
def getLeg (off : Nat) (p : List Byte) : LegRef :=
  ⟨finOf 48 (getU 1 off p), BitVec.ofNat 32 (getU 4 (off + 1) p), BitVec.ofNat 8 (getU 1 (off + 5) p)⟩

/-- A number within a range. -/
def within (lo hi n : Nat) : Bool := lo ≤ n && n ≤ hi

/-- Parses `FOLLOW_SET` (R313, R314). An absent leg B has no component. -/
def parseFollowSet (p : List Byte) : Option (Fin 8 × FollowCfg) :=
  match finOf 8 (getU 1 0 p) with
  | none => none
  | some o =>
    let b := getLeg 8 p
    let c : FollowCfg :=
      { mode := getU 1 1 p, a := getLeg 2 p, b := if getU 1 8 p = 0xFF then LegRef.none else b
        allow := BitVec.ofNat 8 (getU 1 14 p), prefer := getU 1 15 p, preferBonus := getU 2 16 p, qFail := getU 2 18 p
        qGood := getU 2 20 p, qHyst := getU 2 22 p, qWindowMs := getU 2 24 p, dwellMs := getU 2 26 p, fadeMs := getU 2 28 p
        linear := getU 1 30 p == 1, dip := getU 1 31 p == 1, stretchPpm := getU 2 32 p, corrLock := getU 2 34 p
        levelWindowMs := getU 2 36 p, unalignedWaitMs := getU 2 38 p, dabBerGood := getU 2 40 p, dabBerBad := getU 2 42 p }
    if p.length = 44 ∧ c.mode ≤ 2 ∧ c.a.slot.isSome ∧ getU 1 7 p ≤ 15 ∧ getU 1 13 p ≤ 15
        ∧ (getU 1 8 p = 0xFF ∨ (b.slot.isSome ∧ c.mode ≠ 2)) ∧ c.a ≠ c.b ∧ getU 1 14 p < 64 ∧ c.prefer ≤ 2
        ∧ c.preferBonus ≤ 500 ∧ c.qFail ≤ 1000 ∧ c.qGood ≤ 1000 ∧ c.qHyst ≤ 500 ∧ within 100 10000 c.qWindowMs
        ∧ c.dwellMs ≤ 60000 ∧ within 10 2000 c.fadeMs ∧ getU 1 30 p ≤ 1 ∧ getU 1 31 p ≤ 1 ∧ c.stretchPpm ≤ 5000
        ∧ within 300 990 c.corrLock ∧ within 100 3000 c.levelWindowMs ∧ c.unalignedWaitMs ≤ 10000
        ∧ within 1 10000 c.dabBerGood ∧ within 1 10000 c.dabBerBad ∧ c.dabBerGood < c.dabBerBad then some (o, c) else none

/-- A leg that `FOLLOW_SET` may name (R314). -/
def legOk (after : State) (allow : Byte) (k : LegRef) : Bool :=
  match k.slot with
  | none => true
  | some i =>
    let x := after.slots[i]
    x.state != .free && !x.visit
      && (x.tune.type != .dab || (slotComponent after i k.sid k.scids).isSome)
      && allow.getLsbD (match x.tune.type with | .dab => 1 | .am => 2 | _ => 0)

/-- A leg's component lies within R313: 0 for FM and AM slots. -/
def componentOk (after : State) (k : LegRef) : Bool :=
  match k.slot with
  | none => true
  | some i => after.slots[i].tune.type == .dab || after.slots[i].state == .free || (k.sid == 0 && k.scids == 0)

/-- The refusals of `FOLLOW_SET` on the state the transaction produces (R313, R314). -/
def judgeFollow (o : Fin 8) (c : FollowCfg) (after : State) : Option Status :=
  if !componentOk after c.a || !componentOk after c.b then some .badParam
  else if (c.mode != 0 && (!after.outs[o].cfg.run || after.outs[o].cfg.cursor)) || !legOk after c.allow c.a || !legOk after c.allow c.b then
    some .badState
  else none

/-- Parses `FOLLOW_SWITCH`: `output`, `flags` with [0] `unaligned` (R333). -/
def parseFollowSwitch (p : List Byte) : Option (Fin 8 × Bool) :=
  match finOf 8 (getU 1 0 p) with
  | some o => if p.length = 2 ∧ getU 1 1 p ≤ 1 then some (o, getU 1 1 p == 1) else none
  | none => none

/-- FOLLOW_SWITCH (R333): the checks when S0 takes the request. -/
def execFollowSwitch (ch : Fin 4) (s : State) : Out :=
  .next <| serve ch 0x0602 .long parseFollowSwitch (fun (o, un) _ s =>
    let f := s.follow[o]
    if f.state = .fading ∨ f.state = .dip ∨ f.fade.isSome then refuse .busy s
    else if f.state = .off ∨ !twoLegs f ∨ (!followReady s f ∧ !un) then refuse .badState s
    else .wait ⟨.followSwitch o un (strokeFrom (s.now + 6144)), false, s.now⟩ (dryOk s 8) s) s

/-- The decision of a manual switch on its stroke (R333, R560): the fade is placed and the response carries s, or the
request fails when the standby is no longer ready. To a standby that is ready the fade is aligned, whatever `unaligned` says
(DESIGN CHOICE, log entry 120). -/
def switchDecision (ch : Fin 4) (s : State) : State :=
  match opOf s ch with
  | some ⟨.followSwitch o un n, _, _⟩ =>
    if n * 24576 ≤ s.now ∧ atBoundary s then
      let f := s.follow[o]
      let ready := followReady s f
      if abortLanded s ch then respond ch .aborted [] s
      else if f.state = .off ∨ !twoLegs f ∨ f.fade.isSome ∨ (!ready ∧ !un) then respond ch .badState [] s
      else
        let s1 := noteMark ch (decideFade o fadeManual (!ready) s)
        completeOp ch (match s1.follow[o].fade with | some w => u64 w.start | none => u64 0) s1
    else s
  | _ => s

/-- FOLLOW_SWITCH_DECISION (R333). -/
def execFollowSwitchDecision (ch : Fin 4) (s : State) : Out := .next (switchDecision ch s)

/-- The record of one follower (R335). While both legs are present and no lag is known, `lag_ticks` and `ts_lag_ticks` read
the sentinel that the rule states for an absent leg (DESIGN CHOICE, log entry 93). -/
def followStatus (o : Fin 8) (s0 : State) : List Byte :=
  let s := latchedState s0
  let f := s.follow[o]
  let on := f.state ≠ .off
  let pair := on ∧ twoLegs f
  let a := if on then f.legA else LegRef.none
  let b := if on then f.legB else LegRef.none
  let arr := fun (k : LegRef) => arrivalTicks s s.outs[o].cfg.minLatency k
  let ts : Option Int := if pair ∧ a.slot.isSome ∧ b.slot.isSome then f.lagTicks.map fun l => l - ((arr b : Int) - arr a) else none
  let per {α : Type} (k : LegRef) (v : α) : Option α := if k.slot.isSome then some v else none
  let qs := fun (k : LegRef) => (2 * smoothedQ f k + qUnit) / (2 * qUnit)
  u64 s0.latch.stroke ++ u8 (followCode f.state) ++ uBool f.activeB ++ slotByte a ++ slotByte b
    ++ opt16 (if on then f.target else none) ++ opt8 (if pair then some f.bMatch else none)
    ++ opt8 (if pair then some (lagCode f.lag) else none) ++ optS32 (if pair then f.lagTicks else none) ++ optS32 ts
    ++ opt16 (if pair then some f.corr else none) ++ opt32 (per a (arr a)) ++ opt32 (per b (arr b))
    ++ opt32 (per a (delayTicks f.delayA)) ++ opt32 (per b (delayTicks f.delayB))
    ++ optS16 (per a (roundDiv f.trimA 600)) ++ optS16 (per b (roundDiv f.trimB 600))
    ++ opt16 (per a (qs a)) ++ opt16 (per b (qs b)) ++ u32 f.switches.toNat

/-- The matching records of a follower with kind and slot, in rank order and then by index (R319); of several slots that
carry one record a candidate's comes first, and then the lowest. -/
def candidateList (s : State) (f : Follower) : List (Nat × Nat × Nat) :=
  match (if f.state = .off then none else serviceAt s f.target) with
  | none => []
  | some t =>
    let sets := linkageSets s
    let all := carriedBy s fun _ => true
    let held := (carried s).filter fun e => e.1 != activeLeg f
    let slotsOf := fun (l : List (LegRef × Nat)) (i : Nat) => (l.filter fun h => h.2 == i).filterMap fun h => h.1.slot.map Fin.val
    let l := (serviceRecs s).filterMap fun e =>
      (matchRank sets f.cfg.allow t e.2).map fun k =>
        let slots := slotsOf held e.1
        (k, e.1, (if slots.isEmpty then slotsOf all e.1 else slots).foldl min 0xFF)
    (sortBy (fun a b => a.1 < b.1 || (a.1 == b.1 && a.2.1 ≤ b.2.1)) l).take 32

/-- The response of `FOLLOW_CANDIDATES_GET` (R319, R564). -/
def candidateBytes (o : Fin 8) (s0 : State) : List Byte :=
  let s := latchedState s0
  let l := candidateList s s.follow[o]
  let e := l.flatMap fun (k, i, slot) => u16 i ++ u8 k ++ u8 slot
  u64 s0.latch.stroke ++ u8 l.length ++ zeros 3 ++ e ++ zeros (128 - e.length)

end Sys2Proof.Machine
end

