-- ==== Sys2Proof/Machine/Load.lean ====
section
/-! DEFINITION. Load and hard limits (01_architecture.md, R34 to R38, R41, R42). Loads are in hundredths of an LU. -/

namespace Sys2Proof.Machine

/-- Cost of one slot by its type (R34). -/
def slotCost : SlotType → Nat
  | .fm => 75 | .fmDiversity => 125 | .am => 40 | .dab => 250

/-- The slots that the host has assigned. -/
def hostSlots (s : State) : List (Fin 48 × Slot) := (indexed s.slots).filter fun e => e.2.state != .free && !e.2.visit

/-- The slots that census visits hold. -/
def visitSlots (s : State) : List (Fin 48 × Slot) := (indexed s.slots).filter fun e => e.2.state != .free && e.2.visit

/-- The cost of a list of slots. -/
def costOf (l : List (Fin 48 × Slot)) : Nat := (l.map fun e => slotCost e.2.tune.type).sum

/-- Analogue services being stored, each charged one storage encode (R34). -/
def encodeLoad (s : State) : Nat :=
  25 * (s.store.recs.filter fun r => r.recording && (r.bearer == 0 || r.bearer == 1)).length

/-- The link encodes of a remote, one for each FM or AM slot (R499). -/
def linkEncodeLoad (s : State) : Nat :=
  25 * ((hostSlots s).filter fun e => e.2.tune.type != .dab).length

/-- What is charged to the device that holds the slots (R34, R499). -/
def slotLoad (s : State) : Nat :=
  costOf (hostSlots s) + (if isRemote s then linkEncodeLoad s else if isLocal s then 0 else encodeLoad s)

/-- A setting counts as having two legs present (R315). -/
def countsTwoLegs (c : FollowCfg) : Bool := c.mode == 2 || (c.mode == 1 && c.b.slot.isSome)

/-- The settings that an output is charged for: those in force, and one that a fade holds (R315, R331). -/
def chargedCfgs (f : Follower) : List FollowCfg := f.cfg :: f.heldSet.toList

/-- What is charged to the device that holds the outputs (R34). -/
def outputLoad (s : State) : Nat :=
  50 * (s.outs.toList.filter (·.cfg.run)).length + 25 * (s.follow.toList.filter fun f => (chargedCfgs f).any countsTwoLegs).length

/-- The load of the device (R34, R38). -/
def deviceLoad (s : State) : Nat :=
  if isLocal s then outputLoad s else if isRemote s then slotLoad s else slotLoad s + outputLoad s

/-- The delay units that following outputs take (R41). -/
def delayUnits (s : State) : Nat :=
  ((indexed s.outs).map fun (o, x) =>
    if !followOn s.follow[o] then 0 else if s.ports[x.cfg.port].cfg.rate = 2 then 2 else 1).sum

/-- The four count limits of R36, judged where the slots are (R38). -/
def countsOk (s : State) : Bool :=
  let l := (hostSlots s).map (·.2.tune)
  l.length ≤ 48 && (l.filter (·.type == .dab)).length ≤ 12 && (l.filter (·.input == 2)).length ≤ 24
    && (l.filter (·.type == .fmDiversity)).length ≤ 16

/-- A state is within R36 for this device (R37, R38). -/
def admits (s : State) : Bool := (isLocal s || countsOk s) && deviceLoad s ≤ 8000

/-- Host slots and census visits fit together (R303). -/
def visitsFit (s : State) : Bool :=
  let v := visitSlots s
  let all := hostSlots s ++ v
  all.length ≤ 48 && (all.filter fun e => e.2.tune.type == .dab).length ≤ 12 && deviceLoad s + costOf v ≤ 8000

end Sys2Proof.Machine
end

