-- ==== Sys2Proof/Machine/Pages.lean ====
section
/-! DEFINITION. What the Crucible puts on the media, byte for byte: codewords with their BCH parity and encryption (R383 to
R386), system pages (R388, R389), records, block headers, maps and checkpoints (R391 to R394, R397), and the commands on the
NAND bus (R381, R382). 11_crucible_store.md. -/

namespace Sys2Proof.Machine

/-! ### Codewords (R383 to R386) -/

/-- Data bytes of a codeword, and bytes of its parity. -/
def codewordBytes : Nat := 1024
def parityBytes : Nat := 126
/-- Bit errors that the code corrects. -/
def correctable : Nat := 72

/-- Codewords in a page. -/
def codewordsOf (g : Geometry) : Nat := g.pageBytes / codewordBytes
/-- The spare offset at which the parity of codeword 0 begins. -/
def parityAt (g : Geometry) : Nat := if g.pageBytes = 8192 then 16 else 32

/-- The generator of the BCH code (R384). -/
def storeGenerator (_ : Unit) : Nat := bchGenerator gf16384 correctable

/-- The parity of a codeword's data (R384). -/
def codewordParity (data : List Byte) : List Byte := bytesOfBits (bchParity (storeGenerator ()) (8 * parityBytes) (bitsOfBytes data))

/-- Zero bits in bytes, counted no further than is needed to tell 8 from more. -/
def zeroBits (bs : List Byte) : Nat := ((bitsOfBytes bs).filter (! ·)).length

/-- A codeword as it is read (R384, R385): an erased one delivers 0xFF bytes; else its data and the bits corrected; nothing
when it is uncorrectable. -/
def readCodeword (data parity : List Byte) : Option (List Byte × Nat) :=
  if zeroBits (data ++ parity) ≤ 8 then some (List.replicate codewordBytes 0xFF, 0)
  else (bchDecode gf16384 correctable (bitsOfBytes (data ++ parity))).map fun e => ((bytesOfBits e.1).take codewordBytes, e.2)

/-- The least number of bits that count a number of values. -/
def bitWidth (n : Nat) : Nat := if n ≤ 1 then 0 else (n - 1).log2 + 1

/-- Blocks of one LUN. -/
def lunBlocks (g : Geometry) : Nat := max 1 (g.blocks / max 1 g.luns)

/-- The ONFI row address of a page (R386): the page in the lowest bits, the block above it, the LUN on top (PRESUMED from
ONFI, notes/assumptions/13.md). -/
def rowOf (g : Geometry) (block page : Nat) : Nat :=
  ((block / lunBlocks g) * 2 ^ bitWidth (lunBlocks g) + block % lunBlocks g) * 2 ^ bitWidth g.pagesPerBlock + page

/-- The tweak of a codeword (R386). -/
def tweakOf (ce row i : Nat) : Nat := ce * 2 ^ 40 + row * 16 + i

/-- Where a page lies. -/
structure PagePlace where
  ce : Nat
  block : Nat
  page : Nat
deriving DecidableEq, Repr

/-- Codeword i of a page is stored in clear: the boot area (R121), and codeword 0 of a system page (R386). -/
def inClear (p : PagePlace) (i : Nat) : Bool := (p.ce == 0 && p.block < 2) || ((p.block == 2 || p.block == 3) && i == 0)

/-- The keys of a store as one run of 32 bytes: the data key, then the tweak key (R145). -/
def keyBytes (k : List Byte × List Byte) : List Byte := k.1 ++ k.2

/-- The stored data of a codeword (R386). -/
def sealCodeword (keys : List Byte) (g : Geometry) (p : PagePlace) (i : Nat) (data : List Byte) : List Byte :=
  if inClear p i then data else xtsEncrypt (keys.take 16) (keys.drop 16) (tweakOf p.ce (rowOf g p.block p.page) i) data

/-- The inverse of `sealCodeword`. -/
def openCodeword (keys : List Byte) (g : Geometry) (p : PagePlace) (i : Nat) (data : List Byte) : List Byte :=
  if inClear p i then data else xtsDecrypt (keys.take 16) (keys.drop 16) (tweakOf p.ce (rowOf g p.block p.page) i) data

/-- A page as it is programmed (R383, R386): its main area, encrypted by codewords, and its spare area, in which only the
parity is programmed. -/
def pageCells (keys : List Byte) (g : Geometry) (p : PagePlace) (main : List Byte) : NandPage :=
  let stored := (List.range (codewordsOf g)).map fun i => sealCodeword keys g p i ((main.drop (1024 * i)).take 1024)
  let spare := List.replicate (parityAt g) 0xFF ++ stored.flatMap codewordParity
  { NandPage.reset with
    ce := p.ce, block := p.block, page := p.page, main := stored.flatten
    spare := spare ++ List.replicate (g.spareBytes - spare.length) 0xFF }

/-- The cells of a page; one that was not programmed since its erase reads as ones. -/
def cellsAt (m : Media) (g : Geometry) (p : PagePlace) : NandPage :=
  match m.pages.find? fun x => x.ce == p.ce && x.block == p.block && x.page == p.page with
  | some x => x
  | none =>
    { NandPage.reset with
      ce := p.ce, block := p.block, page := p.page
      main := List.replicate g.pageBytes 0xFF, spare := List.replicate g.spareBytes 0xFF }

/-- Bytes with some of their bits read wrongly; bits are numbered in the order in which they enter the code. -/
def flipBits (wrong : List Nat) (bs : List Byte) : List Byte :=
  wrong.foldl (fun l k => l.set (k / 8) (l.getD (k / 8) 0 ^^^ BitVec.ofNat 8 (2 ^ (7 - k % 8)))) bs

/-- Codeword i of a page read with bits in error, corrected and decrypted (R384 to R386). -/
def fetchCodeword (keys : List Byte) (g : Geometry) (x : NandPage) (i : Nat) (wrong : List Nat) : Option (List Byte × Nat) :=
  let raw := flipBits wrong ((x.main.drop (1024 * i)).take 1024 ++ (x.spare.drop (parityAt g + parityBytes * i)).take parityBytes)
  (readCodeword (raw.take 1024) (raw.drop 1024)).map fun e =>
    (if zeroBits raw ≤ 8 then e.1 else openCodeword keys g ⟨x.ce, x.block, x.page⟩ i e.1, e.2)

/-- What a data-out of contiguous codewords brings: their bytes, none for one that is uncorrectable, and the bits corrected
in each. -/
def fetchCodewords (keys : List Byte) (g : Geometry) (x : NandPage) (first count : Nat) (wrong : List (List Nat)) :
    List (Option (List Byte × Nat)) :=
  (List.range count).map fun k => fetchCodeword keys g x (first + k) (wrong.getD k [])

/-- The media with a page programmed. -/
def programPage (x : NandPage) (m : Media) : Media :=
  { m with pages := upsert (fun y => y.ce == x.ce && y.block == x.block && y.page == x.page) x m.pages }

/-- The media with a block erased. -/
def eraseBlock (ce block : Nat) (m : Media) : Media :=
  { m with pages := m.pages.filter fun y => !(y.ce == ce && y.block == block) }

/-! ### System pages (R388, R389) -/

/-- Bytes followed by their CRC-32 (R197). -/
def withCrc (bs : List Byte) : List Byte := bs ++ u32 (crc32 bs).toNat

/-- Bytes filled with zeros to a length. -/
def fillTo (n : Nat) (bs : List Byte) : List Byte := bs ++ zeros (n - bs.length)

/-- The first codeword of a system page, which is stored in clear. -/
def systemClear (v : Volume) : List Byte :=
  withCrc (fillTo 0x3FC
    (u32 0x43555243 ++ u16 1 ++ u16 0 ++ u32 v.sysSeq ++ u32 0 ++ v.volumeId ++ u64 v.serial.toNat ++ v.keyCheck
      ++ u32 v.geometry.pageBytes ++ u16 v.geometry.pagesPerBlock ++ u8 v.ceCount ++ u8 v.geometry.bitsPerCell
      ++ u32 v.geometry.blocks ++ u32 v.ringBlocks))

/-- The rest of a system page before encryption. -/
def systemSealed (v : Volume) : List Byte :=
  withCrc (fillTo 0x1BFC
    (u64 v.anchorSeq ++ u32 v.anchorPos ++ u16 v.slag.length ++ u16 0
      ++ v.slag.flatMap fun e => u16 e.block ++ u8 e.ce ++ u8 e.cause))

/-- A system page as the volume stands (R389). -/
def systemPage (v : Volume) : List Byte := fillTo v.geometry.pageBytes (systemClear v ++ systemSealed v)

/-! ### Records (R391, R392, R394, R397) -/

/-- The header of a record (R391). -/
def recordHeader (r : StoredRec) : List Byte :=
  u16 r.recNo ++ u8 r.kind ++ u8 r.flags.toNat ++ u32 r.seq.toNat ++ u64 r.timestamp ++ u32 r.length ++ u16 r.bitrate
    ++ u8 r.unitCount ++ u8 r.unitBad.toNat ++ u32 r.generation.toNat ++ u32 0

/-- A record as the stream holds it. -/
def recordBytes (r : StoredRec) : List Byte := recordHeader r ++ r.payload

/-- Bytes padded with zeros to a multiple of 4. -/
def padFour (bs : List Byte) : List Byte := fillTo (ceilDiv bs.length 4 * 4) bs

/-- The payload of a Billet (R392): AAC-LC access units, each behind its length; else the payloads of R263 one after the
other. -/
def billetPayload (kind : Nat) (units : List (List Byte)) : List Byte :=
  padFour (if kind = 0 then units.flatMap fun u => u16 u.length ++ u else units.flatten)

/-- A record that belongs to no rec (R391): a block header, a pad or a checkpoint. The fields of its header to which R391
gives no meaning there are free (log entry 98). -/
def plainRecord (kind stage : Nat) (payload : List Byte) : StoredRec :=
  { StoredRec.reset with
    recNo := 0xFFFF, kind := kind, seq := BitVec.ofNat 32 (Config.plainField kind 0), timestamp := Config.plainField kind 1 % 2 ^ 64
    bitrate := Config.plainField kind 2 % 2 ^ 16, length := 32 + payload.length, payload := payload, stage := stage, written := true }

/-- The header record of a block (R394). -/
def blockHeader (b : RingBlock) (stage : Nat) : StoredRec :=
  plainRecord 0x0B stage (u64 b.seq ++ u64 b.openTime ++ u32 b.pos ++ zeros 4)

/-- Where the stream stands once it is padded to a page boundary. A pad is a record with a header, so one that would be
shorter than 32 bytes runs to the end of the next page (DEDUCED, log entry 98). -/
def paddedTo (page used : Nat) : Nat :=
  let e := ceilDiv used page * page
  if used < e ∧ e - used < 32 then e + page else e

/-- The pad record over a number of bytes; what it holds is free. -/
def padRecord (n stage : Nat) : StoredRec := plainRecord 0x0F stage ((List.range (n - 32)).map Config.freeByte)

/-- The stream of a block: its records, which follow each other from its start. -/
def blockStream (v : Volume) (seq : Nat) : List Byte := (v.stream.filter (·.block == seq)).flatMap recordBytes

/-- The map entry of a Billet (R394). -/
def mapEntry (r : StoredRec) : List Byte :=
  u32 (r.offset / 4) ++ (u32 r.seq.toNat).take 3 ++ u8 r.recNo

/-- The map of a block with its trailer, over the pages to the block's end (R394). The CRC covers the map before it
(DEDUCED, log entry 98); bytes between the entries and the trailer are free. -/
def blockMap (v : Volume) (b : RingBlock) : List Byte :=
  let pages := v.geometry.pagesPerBlock - b.data
  let billets := v.stream.filter fun r => r.block == b.seq && r.kind < 4
  let entries := billets.flatMap mapEntry
  let gap := (List.range (pages * v.geometry.pageBytes - 32 - entries.length)).map Config.freeByte
  withCrc (entries ++ gap ++ u32 0x50414D42 ++ u32 billets.length ++ u32 pages ++ u64 b.seq ++ zeros 8)

/-- The main area of a page of a ring block: a page of the stream, or of the map. -/
def ringPage (v : Volume) (seq page : Nat) : List Byte :=
  let pg := v.geometry.pageBytes
  match v.blocks.find? fun b => b.seq == seq with
  | some b =>
    if b.closed && b.data ≤ page then ((blockMap v b).drop ((page - b.data) * pg)).take pg
    else ((blockStream v seq).drop (page * pg)).take pg
  | none => []

/-- The index entry of one rec in a checkpoint (R397). -/
def indexEntry (r : RecEntry) : List Byte :=
  u32 r.oldest.toNat ++ u32 r.next.toNat ++ u32 r.quota ++ u32 r.used ++ u32 r.sid.toNat ++ u8 r.ecc.toNat ++ u8 r.bearer.toNat
    ++ u8 r.scids.toNat ++ u8 0

/-- The payload of a checkpoint record (R397): its bytes 32 to 8,191. -/
def checkpointPayload (header : List Byte) (c : Checkpoint) : List Byte :=
  let recs := (List.range 256).flatMap fun n =>
    indexEntry ((c.recs.find? fun r => r.recNo == n).getD { RecEntry.reset with recNo := n })
  let reloc := (List.range 64).flatMap fun k => match c.reloc[k]? with | some e => u64 e.1 ++ u64 e.2 | none => zeros 16
  (withCrc (header ++ fillTo 8156
    (u64 c.stroke ++ u64 c.headSeq ++ u32 c.headPos ++ u32 c.tailPos ++ zeros 8 ++ recs ++ reloc))).drop 32

/-- The checkpoint record (R397). -/
def checkpointRecord (c : Checkpoint) (stage : Nat) : StoredRec :=
  let blank := { plainRecord 0x0C stage [] with length := 8192 }
  { blank with payload := checkpointPayload (recordHeader blank) c }

/-! ### The NAND bus (R381, R382) -/

/-- The command cycles of a command, with the number of address cycles after the first (R382). -/
def NandCommand.cycles : NandCommand → List Nat × Nat
  | .reset => ([0xFF], 0)
  | .readId => ([0x90], 1)
  | .readParameterPage => ([0xEC], 1)
  | .setFeatures => ([0xEF], 1)
  | .getFeatures => ([0xEE], 1)
  | .readStatus => ([0x70], 0)
  | .readStatusEnhanced => ([0x78], 3)
  | .read => ([0x00, 0x30], 5)
  | .changeReadColumnEnhanced => ([0x06, 0xE0], 5)
  | .pageProgram => ([0x80, 0x10], 5)
  | .blockErase => ([0x60, 0xD0], 3)

/-- The commands of one operation, its status polls included (R380, R382). -/
def commandsOf (g : Geometry) (k : NandKind) : List NandCommand :=
  let poll := if 1 < g.luns then NandCommand.readStatusEnhanced else .readStatus
  match k with
  | .read => [.read, poll, .changeReadColumnEnhanced]
  | .program => [.pageProgram, poll]
  | .erase => [.blockErase, poll]
  | .reset => [.reset, poll]

/-- The commands of identification and of the interface set-up at a mount (R379, R381). -/
def setupCommands : List NandCommand :=
  [.reset, .readId, .readParameterPage, .setFeatures, .setFeatures, .setFeatures, .getFeatures, .getFeatures, .getFeatures]

/-- The timing mode that a mount selects (R381): the highest that the parameter pages and `max_mode` allow. -/
def nvMode (m : Media) (maxMode : Nat) : Nat :=
  [m.ce0, m.ce1].foldl (fun n o => match o with | some g => min n g.maxMode | none => n) maxMode

/-- The features that a mount writes, by address (R381): 0x01 selects NV-DDR2 at a timing mode, 0x02 the on-die termination
with differential signalling off, 0x10 the drive. The places of the fields within a feature are ONFI's (PRESUMED,
notes/assumptions/13.md). -/
def featureWords (mode odt drive : Nat) : List (Nat × Nat) := [(0x01, 0x20 + mode), (0x02, odt * 16), (0x10, drive)]

end Sys2Proof.Machine
end

