-- ==== Sys2Proof/Machine/Store.lean ====
section
/-! DEFINITION. The Crucible: media, ring and write path, recs, policing, quotas and expiry, checkpoints, NAND operations,
scrubbing, and the store's states (11_crucible_store.md R378 to R411, R417 to R423; 12_dispatch.md R437 to R443). -/

namespace Sys2Proof.Machine

/-! ### Media and layout (R378, R379, R387) -/

/-- A CE meets the requirements of R378. -/
def geometryOk (g : Geometry) : Bool :=
  g.onfiOk && 4 ≤ g.maxMode && 1 ≤ g.bitsPerCell && g.bitsPerCell ≤ 3
    && ((g.pageBytes == 8192 && 1024 ≤ g.spareBytes) || (g.pageBytes == 16384 && 2048 ≤ g.spareBytes))
    && 64 ≤ g.pagesPerBlock && g.pagesPerBlock ≤ 2048 && 1024 ≤ g.blocks && g.blocks ≤ 65536
    && g.pageBytes * g.pagesPerBlock * g.blocks ≤ 512 * 1073741824 && 1 ≤ g.luns && g.luns ≤ 4 && g.eccBits ≤ 72
    && g.tResetUs ≤ 500 && !(g.factoryBad.any (· < 4))

/-- Two CEs have one geometry (R378). -/
def sameGeometry (a b : Geometry) : Bool :=
  a.pageBytes == b.pageBytes && a.spareBytes == b.spareBytes && a.pagesPerBlock == b.pagesPerBlock && a.blocks == b.blocks
    && a.luns == b.luns && a.bitsPerCell == b.bitsPerCell

/-- Identification (R379, R381): the geometry of CE0, or nothing when the media fails a requirement. -/
def identify (m : Media) : Option Geometry :=
  match m.ce0 with
  | none => none
  | some g =>
    if !geometryOk g then none
    else match m.ce1 with
      | none => some g
      | some h => if geometryOk h && sameGeometry g h then some g else none

/-- CEs fitted. -/
def ceCountOf (m : Media) : Nat := if m.ce1.isSome then 2 else 1

/-- The CE and block of the k-th pair in ring order, slag blocks included (R387). -/
def pairOf (ceCount k : Nat) : Nat × Nat := (k % ceCount, 4 + k / ceCount)

/-- The pairs that hold a ring position: those not in the slag table as the format left it (R387). -/
def ringPairs (v : Volume) : List (Nat × Nat) :=
  let slag := v.slag.take (v.slag.length - v.retired.length)
  ((List.range ((v.geometry.blocks - 4) * v.ceCount)).map (pairOf v.ceCount)).filter fun e =>
    !(slag.any fun x => x.ce == e.1 && x.block == e.2)

/-- The CE and block of a ring position. -/
def posBlock (v : Volume) (pos : Nat) : Nat × Nat := (ringPairs v).getD pos (0, 0)

/-- The CE and LUN of a block. -/
def lunOf (v : Volume) (ce block : Nat) : Nat × Nat := (ce, block / lunBlocks v.geometry)

/-- The CE and LUN of a ring position. -/
def posLun (v : Volume) (pos : Nat) : Nat × Nat := lunOf v (posBlock v pos).1 (posBlock v pos).2

/-- LUNs in total. -/
def totalLuns (v : Volume) : Nat := v.geometry.luns * v.ceCount

/-- Blocks of the ring that are not retired (R424 `ring_blocks`). -/
def ringBlocks (v : Volume) : Nat := v.ringBlocks - v.retired.length

/-- The ring position after one, past the retired (R387). -/
def followPos (v : Volume) (p : Nat) : Nat :=
  let n := max 1 v.ringBlocks
  match (List.range (v.retired.length + 1)).find? fun k => !v.retired.contains ((p + 1 + k) % n) with
  | some k => (p + 1 + k) % n
  | none => (p + 1) % n

/-! ### States and events (R417, R425) -/

/-- The codes of R417. -/
def storeCode : StoreState → Nat
  | .unmounted => 0 | .mounting => 1 | .mounted => 2 | .quenched => 3 | .fault => 4 | .formatting => 5

/-- Causes of `EV_STORE_STATE` (R566). -/
def storeByCommand : Nat := 1
def storeByPwrfail : Nat := 2
def storeByMedia : Nat := 3
def storeBySlag : Nat := 4
def storeByMount : Nat := 5

/-- The stroke of the last committed checkpoint, 0 before the first. -/
def lastCommit (v : Volume) : Nat := match v.committed with | some c => c.stroke | none => 0

/-- WP_N as the state drives it (R380). -/
def wpLevel (st : StoreState) (bootWriting : Bool) : Bool := st == .mounted || st == .formatting || bootWriting

/-- The store leaves MOUNTED: nothing records, no cursor or export runs (R417, R420). -/
def stopStore (s : State) : State :=
  { s with store := { s.store with
      recs := s.store.recs.map fun r => { r with recording := false }
      exports := s.store.exports.map fun e => { e with running := false }
      keys := [], relocLive := [], op := none, arrays := [], expiring := [], erasing := [], ckpts := [], nh := none, expired := [], quenching := false
      unmounting := false } }

/-- The store takes a state, with its event (R417, R425). -/
def setStoreState (new : StoreState) (cause : Nat) (s : State) : State :=
  let old := s.store.state
  let s1 := if old = .mounted ∧ new ≠ .mounted then stopStore s else s
  let s2 := noteState s.now 6 0 (storeCode old) (storeCode new) { s1 with
    store := { s1.store with state := new, wpHigh := wpLevel new s1.store.bootWriting } }
  refreshQueues (queueEvent s2 evStoreState 0xFFFF
    (u8 (storeCode old) ++ u8 (storeCode new) ++ u8 cause ++ zeros 1 ++ u64 (lastCommit s2.store.vol) ++ zeros 4))

/-- The store moves to FAULT, which is posted and held (R401, R417, R562). -/
def storeFault (cause : Nat) (s : State) : State :=
  raiseFault (setStoreState .fault cause s) 0x0002 0xFFFF cause

/-! ### NW packets (R428) -/

/-- The kinds of a NAND packet in the model. -/
def tagPage : Nat := 1
def tagErase : Nat := 2
def tagCheckpoint : Nat := 3
def tagSystem : Nat := 4
def tagRead : Nat := 5
def tagSysErase : Nat := 6

/-- A packet waits in NW. -/
def pushNw (p : Packet) (s : State) : State :=
  { s with dispatch := modQueue s.dispatch 0x00 fun q => if q.active then { q with items := q.items ++ [p] } else q }

/-- A page program of a ring block, which completes the records up to a staging number. -/
def pagePacket (v : Volume) (tag upTo seq page : Nat) : Packet :=
  { Packet.reset with length := v.geometry.pageBytes, tag := tag, offset := upTo, total := seq, page := page }

/-- The programs of a run of pages of a ring block, from a page on. -/
def pushPages (tag upTo seq : Nat) : Nat → Nat → State → State
  | _, 0, s => s
  | page, n + 1, s => pushPages tag upTo seq (page + 1) n (pushNw (pagePacket s.store.vol tag upTo seq page) s)

/-- The two system blocks of a CE (R387). -/
def otherSystem (block : Nat) : Nat := if block = 2 then 3 else 2

/-- The volume with its next free system page taken; when the system block is full the other one is the one to erase and
write (R388). -/
def takeSystem (v : Volume) : Volume × Bool :=
  if v.sysPage < v.geometry.pagesPerBlock then ({ v with sysPage := v.sysPage + 1 }, false)
  else ({ v with sysBlock := otherSystem v.sysBlock, sysPage := 1 }, true)

/-- A system page on every CE, CE0 first (R388): each format, slag change and anchor. -/
def writeSystem (s : State) : State :=
  let (v, turned) := takeSystem { s.store.vol with sysSeq := s.store.vol.sysSeq + 1 }
  let bytes := systemPage v
  (List.range v.ceCount).foldl (fun s ce =>
    let s1 := if turned then pushNw { Packet.reset with tag := tagSysErase, ce := ce, total := v.sysBlock } s else s
    pushNw { Packet.reset with
      length := v.geometry.pageBytes, tag := tagSystem, ce := ce, total := v.sysBlock, page := v.sysPage - 1, bytes := bytes } s1)
    { s with store := { s.store with vol := v } }

/-! ### The ring (R394, R395) -/

/-- Bytes of a block. -/
def blockBytes (v : Volume) : Nat := v.geometry.pageBytes * v.geometry.pagesPerBlock

/-- The block that records are written to: the newest, while it is open. -/
def headOf (v : Volume) : Option RingBlock :=
  match v.blocks.getLast? with
  | some b => if b.closed then none else some b
  | none => none

/-- Pages of the map of a number of Billets, with its trailer (R394). -/
def mapPages (v : Volume) (n : Nat) : Nat := ceilDiv (8 * n + 32) v.geometry.pageBytes

/-- Billets in a block. -/
def billetsIn (v : Volume) (seq : Nat) : Nat := (v.stream.filter fun r => r.block == seq && isBillet r).length

/-- The newest block replaced by a function of it. -/
def modHead (f : RingBlock → RingBlock) (s : State) : State :=
  match s.store.vol.blocks.getLast? with
  | some b => { s with store := { s.store with vol := { s.store.vol with blocks := s.store.vol.blocks.dropLast ++ [f b] } } }
  | none => s

/-- Bytes go to the head; each page that fills is programmed. `stage` is the staging number of the record they belong
to, which is on the media once the page that holds its last byte is. -/
def growHead (bytes stage : Nat) (s : State) : State :=
  match headOf s.store.vol with
  | none => s
  | some h =>
    let pg := max 1 s.store.vol.geometry.pageBytes
    let used := h.used + bytes
    let n := used / pg - h.used / pg
    let s1 := modHead (fun b => { b with used := used }) s
    if n = 0 then s1
    else
      pushPages tagPage (if used % pg = 0 then stage else stage - 1) h.seq (used / pg - 1) 1
        (pushPages tagPage (stage - 1) h.seq (h.used / pg) (n - 1) s1)

/-- A record takes its place behind the last of the head block. -/
def putStream (r : StoredRec) (s : State) : State :=
  match headOf s.store.vol with
  | none => s
  | some h =>
    { s with store := { s.store with vol := { s.store.vol with
        stream := s.store.vol.stream ++ [{ r with block := h.seq, offset := h.used }] } } }

/-- The open page is padded to its end and programmed. -/
def padHead (s : State) : State :=
  match headOf s.store.vol with
  | none => s
  | some h =>
    let pg := max 1 s.store.vol.geometry.pageBytes
    let n := paddedTo pg h.used - h.used
    let stage := s.store.stageNext - 1
    if n = 0 then s else growHead n stage (putStream (padRecord n stage) s)

/-- A block closes: it is padded to a page, and its map fills the pages up to its end (R394). -/
def closeHead (s : State) : State :=
  let s1 := padHead s
  match headOf s1.store.vol with
  | none => s1
  | some h =>
    let v := s1.store.vol
    let data := h.used / max 1 v.geometry.pageBytes
    pushPages tagPage (s1.store.stageNext - 1) h.seq data (v.geometry.pagesPerBlock - data)
      (modHead (fun b => { b with closed := true, data := data, used := blockBytes v }) s1)

/-- The tail block: the oldest whose Billets have not expired (R395, R396). -/
def tailOf (st : Store) : Option RingBlock :=
  st.vol.blocks.find? fun b => !st.erasing.contains b.seq && !st.vol.abandoned.contains b.seq

/-- The oldest block that the tail has not yet decided to erase. -/
def nextTail (st : Store) : Option RingBlock :=
  st.vol.blocks.find? fun b =>
    !st.expiring.contains b.seq && !st.erasing.contains b.seq && !st.vol.abandoned.contains b.seq

/-- While fewer than 4 erased positions lie between the head and the tail, the tail decides to erase its block, whose
Billets expire on the next stroke boundary (R395, R396). -/
def decideTail : Nat → State → State
  | 0, s => s
  | k + 1, s =>
    let st := s.store
    let held := st.vol.blocks.length - st.expiring.length - st.erasing.length - st.vol.abandoned.length
    if ringBlocks st.vol < held + 4 then
      match nextTail st with
      | some b =>
        if st.vol.blocks.getLast?.map (·.seq) = some b.seq then s
        else decideTail k { s with store := { st with expiring := st.expiring ++ [b.seq] } }
      | none => s
    else s

/-- The next block opens with its header record; one at a multiple of 256 positions writes a new anchor (R388, R394,
R395). -/
def openNext (s : State) : State :=
  let v := s.store.vol
  let b : RingBlock := { RingBlock.reset with seq := v.nextSeq, pos := v.nextPos, openTime := s.now, used := 56 }
  let v1 := { v with
    blocks := v.blocks ++ [b], nextSeq := v.nextSeq + 1, nextPos := followPos v v.nextPos
    stream := v.stream ++ [{ blockHeader b (s.store.stageNext - 1) with block := b.seq }] }
  let s1 := { s with store := { s.store with vol := v1 } }
  let s2 := if b.pos % 256 = 0 then
      writeSystem { s1 with store := { s1.store with vol := { v1 with anchorSeq := b.seq, anchorPos := b.pos } } } else s1
  decideTail 4 s2

/-- A record and the map it adds fit before the end of a block (R394, R395). -/
def fitsBlock (v : Volume) (h : RingBlock) (bytes : Nat) (billet : Bool) : Bool :=
  let pg := max 1 v.geometry.pageBytes
  paddedTo pg (h.used + bytes) / pg
    + mapPages v (billetsIn v h.seq + (if billet then 1 else 0)) ≤ v.geometry.pagesPerBlock

/-- The head has room for a number of bytes: else it closes and the next block opens (R395). -/
def makeRoom (bytes : Nat) (billet : Bool) (s : State) : State :=
  match headOf s.store.vol with
  | some h => if fitsBlock s.store.vol h bytes billet then s else openNext (closeHead s)
  | none => openNext s

/-- `block_seq` of the head. -/
def headSeq (v : Volume) : Nat := match v.blocks.getLast? with | some b => b.seq | none => 0
/-- Ring position of the head. -/
def headPos (v : Volume) : Nat := match v.blocks.getLast? with | some b => b.pos | none => v.nextPos

/-- A record takes its place in the stream (R393, R395). -/
def appendRec (r : StoredRec) (s : State) : State :=
  growHead r.length r.stage (putStream { r with written := false } (makeRoom r.length (isBillet r) s))

/-! ### Recs: reach, use and quota (R392, R397, R410) -/

/-- One rec replaced by a function of it. -/
def modRecNo (n : Nat) (f : Rec → Rec) (s : State) : State :=
  { s with store := { s.store with recs := upsert (fun r => r.recNo == n) (f (recOf s.store n)) s.store.recs } }

/-- The use of a rec (R410). -/
def useOf (st : Store) (n : Nat) : Nat := ((reachOf st n).map (·.length)).sum

/-- Everything of a rec before a sequence number expires, for a cause of R425 (0 quota, 1 tail, 2 delete). -/
def expireRec (n : Nat) (oldest : Word) (cause : Nat) (s : State) : State :=
  if (recOf s.store n).oldest = oldest then s
  else
    let s1 := modRecNo n (fun r => { r with oldest := oldest }) s
    let bits := match s.store.expired.find? fun e => e.1 == n with | some e => e.2 | none => 0
    let add := if bits / 2 ^ cause % 2 = 1 then bits else bits + 2 ^ cause
    { s1 with store := { s1.store with expired := upsert (fun e => e.1 == n) (n, add) s1.store.expired } }

/-- The sequence number to which the oldest records must go so that the rest fits in a number of bytes (R410). -/
def quotaOldest (next : Word) : List StoredRec → Nat → Word
  | [], _ => next
  | r :: rs, limit => if ((r :: rs).map (·.length)).sum ≤ limit then r.seq else quotaOldest next rs limit

/-- Oldest-first expiry keeps the use at or below the quota (R410). -/
def applyQuota (n : Nat) (s : State) : State :=
  let r := recOf s.store n
  if r.quota = 0 then s
  else
    let l := reachOf s.store n
    if (l.map (·.length)).sum ≤ r.quota * 1048576 then s
    else expireRec n (quotaOldest r.nextSeq l (r.quota * 1048576)) 0 s

/-! ### Entry to the stream (R391 to R393, R409, R440 to R443) -/

/-- A record enters the stream (R393, R395): its order, the bytes of the stroke, and quota expiry after it (R410). -/
def enterStream (r : StoredRec) (s : State) : State :=
  let st := s.store.stageNext
  let bytes := match s.store.entered.find? fun e => e.1 == curStroke s with | some e => e.2 | none => 0
  let s1 := { s with store := { s.store with
    stageNext := st + 1
    entered := upsert (fun e => e.1 == curStroke s) (curStroke s, bytes + r.length) s.store.entered } }
  applyQuota r.recNo (appendRec { r with stage := st, entered := curStroke s } s1)

/-- A gap record of a rec (R392, R409); the newest Billet of the rec, if it is still in staging, carries `last`, and the
next one carries `first`. -/
def writeGap (n cause ts : Nat) (s : State) : State :=
  let r := recOf s.store n
  let lastBillet := (s.store.vol.stream.filter fun x => x.recNo == n && isBillet x).getLast?.map (·.seq)
  let mark (x : StoredRec) : StoredRec :=
    if x.recNo = n ∧ some x.seq = lastBillet ∧ !x.written then { x with flags := x.flags ||| 4 } else x
  let s1 := { s with store := { s.store with vol := { s.store.vol with stream := s.store.vol.stream.map mark } } }
  let g : StoredRec := { StoredRec.reset with
    recNo := n, kind := 0x0E, seq := r.nextSeq, timestamp := ts, length := 36, cause := cause
    payload := u8 cause ++ zeros 3 }
  enterStream g (modRecNo n (fun r => { r with nextSeq := r.nextSeq + 1, firstDue := true, gaps := bump r.gaps 1 }) s1)

/-- AAC-LC rate of an analogue rec in kbit/s (R406). -/
def aacKbps (aac : Nat) : Nat := if aac = 0 then 96 else if aac = 1 then 128 else 192

/-- The source rate of a rec in kbit/s (R441). -/
def sourceKbps (r : Rec) : Nat := if r.bearer = 2 then r.sourceBitrate else aacKbps r.aac

/-- The policer rate of a rec in bit/s (R440, R441). -/
def policeBps (r : Rec) : Nat := if r.policeKbps = 0 then 1125 * sourceKbps r + 2200 else r.policeKbps * 1000

/-- The sum of the policer rates of the recording recs in bit/s (R443). -/
def budgetUsed (st : Store) : Nat := ((st.recs.filter (·.recording)).map policeBps).sum

/-- The write budget in bit/s (R438). -/
def writeBudget (st : Store) : Nat := if 2 ≤ totalLuns st.vol then 48000000 else 8000000

/-- Units of a byte in which tokens are kept: a rate in bit/s adds a whole number of them on each tick. -/
def tokenUnit : Nat := 196608000

/-- The tokens of a rec at a device time (R442). -/
def tokensNow (now : Nat) (r : Rec) : Nat := min (r.policeBurst * tokenUnit) (r.tokens + (now - r.tokensAt) * policeBps r)

/-- The slot of a rec. -/
def recSlot (s : State) (r : Rec) : Option Slot := (finOf 48 r.slot).map fun i => s.slots[i]

/-! ### Billets (R391 to R393, R408) -/

/-- A Billet as it enters staging: its access units, logical frames or superframe, and what its header says of them (R391). -/
structure Billet where
  kind : Nat
  units : List (List Byte)
  bitrate : Nat
  unitCount : Nat
  unitBad : BitVec 8
  generation : BitVec 32
  bad : Bool
deriving DecidableEq, Repr

/-- How many AAC-LC frames begin within a span (log entry 46). -/
def aacStarts (from_ until_ : Nat) : Nat := ceilDiv until_ aacTicks - ceilDiv from_ aacTicks

/-- The AAC-LC Billet of a span that ends at a stop or with its 120 ms (R392, R408): in the local role of the frames that the remote
has sent (R499), else of those of the encoder, once the last of them is complete. -/
def aacBillet (s : State) (r : Rec) (ts until_ : Nat) (aus : List (List Byte)) : Option Billet :=
  let held := match finOf 48 r.slot with
    | some i => (s.slots[i].aac.filter fun a => decide (ts ≤ a.ts ∧ a.ts < until_)).map (·.data)
    | none => []
  let l := if isLocal s then held else aus
  if ts % billetTicks = 0 ∧ l.length = aacStarts ts until_ ∧ ceilDiv until_ aacTicks * aacTicks ≤ s.now then
    some ⟨0, l, aacKbps r.aac, l.length, 0, 0, false⟩
  else none

/-- The Billet that a run of units of a component begins with (R392): one superframe, or five logical frames from a CIF count
divisible by 5 on. -/
def unitsBillet (l : List DabUnit) : Option Billet :=
  match l with
  | [] => none
  | u :: _ =>
    let h := u.header
    let five := l.take 5
    let bad := fun (w : DabUnit) => w.header.flags.getLsbD 0
    if h.kind = 1 then some ⟨2, [u.payload], h.bitrate, h.auCount, h.auBad, h.generation, bad u⟩
    else if five.length = 5 ∧ h.cifCount % 5 = 0 ∧ five.zipIdx.all (fun e => e.1.header.cifCount == h.cifCount + e.2) then
      some ⟨if h.kind = 0 then 1 else 3, five.map (·.payload), h.bitrate, 5,
        BitVec.ofNat 8 (five.zipIdx.map fun e => bitAt (bad e.1) e.2).sum, h.generation, five.any bad⟩
    else none

/-- The Billet of a rec that begins at a time, once its last content is complete (R264, R265, R393). -/
def completeBillet (s : State) (r : Rec) (ts : Nat) (aus : List (List Byte)) : Option Billet :=
  if r.bearer ≠ 2 then aacBillet s r ts (min (ts + billetTicks) (r.stopAt.getD (ts + billetTicks))) aus
  else unitsBillet ((legUnits s ⟨finOf 48 r.slot, r.sid, r.scids⟩).dropWhile fun w => w.header.timestamp != ts)

/-- A span of a rec is one that it records (R408, R409): from its start, up to the stop, and with its source LIVE over it. -/
def spanTaken (s : State) (r : Rec) (ts : Nat) : Bool :=
  r.fromTick ≤ ts && (match r.stopAt with | some t => ts < t | none => r.recording)
    && (match recSlot s r with
        | some x => liveThroughout x ts (min (ts + billetTicks) (r.stopAt.getD (ts + billetTicks)))
        | none => false)

/-- The Billet that enters staging for a rec at a time, if there is one. -/
def stagedBillet (s : State) (r : Rec) (ts : Nat) (aus : List (List Byte)) : Option Billet :=
  if spanTaken s r ts then completeBillet s r ts aus else none

/-! ### Staging in Hearth (R40) -/

/-- A region of Hearth: its first and last bank of 1,024 KiB and the bytes that its sizing uses. -/
structure HearthRegion where
  first : Nat
  last : Nat
  used : Nat
deriving DecidableEq, Repr

/-- The regions of R40: firmware data, service database and snapshot reserve, slot buffers, DAB time de-interleavers, alignment
delay pool, NAND write staging, link buffers, and decode, encode and export buffers. -/
def hearthRegions : List HearthRegion :=
  [⟨0, 0, 1024 * 1024⟩, ⟨1, 2, 4096 * 256 + 1024 * 1024⟩, ⟨3, 5, 48 * 65536⟩, ⟨6, 11, 12 * 432 * 1024⟩, ⟨12, 18, 8 * 864000⟩,
    ⟨19, 20, 2048 * 1024⟩, ⟨21, 21, 1024 * 1024⟩, ⟨22, 23, 2048 * 1024⟩]

/-- Bytes in NAND write staging: the records that have entered the stream and are not yet programmed (R40, R393). -/
def stagingBytes (s : State) : Nat := ((s.store.vol.stream.filter fun r => !r.written).map (·.length)).sum

/-- NAND write staging has no room for a record of a length (R40, banks 19 and 20). -/
def stagingFull (s : State) (length : Nat) : Bool :=
  match hearthRegions[5]? with
  | some r => r.used < stagingBytes s + length
  | none => false

/-- The record of a Billet (R391). -/
def billetRecord (r : Rec) (ts : Nat) (b : Billet) : StoredRec :=
  let payload := billetPayload b.kind b.units
  let last := match r.stopAt with | some e => decide (e ≤ ts + billetTicks) | none => false
  { StoredRec.reset with
    recNo := r.recNo, kind := b.kind, seq := r.nextSeq, timestamp := ts, length := 32 + payload.length, payload := payload
    flags := BitVec.ofNat 8 (bitAt b.bad 0 + bitAt r.firstDue 1 + bitAt last 2)
    bitrate := b.bitrate, unitCount := b.unitCount, unitBad := b.unitBad, generation := b.generation }

/-- BILLET_STAGED (R393, R408, R442): a complete Billet passes the policer and enters staging; a Billet beyond the
tokens is dropped and counted, and the first one dropped after one that passed writes a gap with cause 3. One that the staging
region of R40 has no room for is dropped in the same way (DESIGN CHOICE, log entry 111). -/
def execBilletStaged (n : Fin 256) (ts : Nat) (aus : List (List Byte)) (s : State) : Out :=
  let r := recOf s.store n.val
  match (if s.store.state = .mounted ∧ s.store.quenching = false then stagedBillet s r ts aus else none) with
  | none => .next s
  | some b =>
    let x := billetRecord r ts b
    let t := tokensNow s.now r
    if t < x.length * tokenUnit ∨ stagingFull s x.length then
      let s1 := modRecNo n.val (fun r => { r with
        fromTick := ts + 1, tokens := t, tokensAt := s.now, dropping := true, policedBillets := bump r.policedBillets 1
        policedBytes := bump r.policedBytes x.length }) s
      .next (if r.dropping then s1 else writeGap n.val 3 ts s1)
    else
      .next (enterStream x (modRecNo n.val (fun r => { r with
        fromTick := ts + 1, tokens := t - x.length * tokenUnit, tokensAt := s.now, dropping := false, firstDue := false
        nextSeq := r.nextSeq + 1 }) s))

/-! ### Checkpoints (R395, R397, R398) -/

/-- The index as a checkpoint holds it (R397). -/
def indexOf (st : Store) : List RecEntry :=
  st.recs.map fun r => ⟨r.recNo, r.oldest, r.nextSeq, r.quota, r.sid, r.ecc, r.bearer, r.scids, ceilDiv (useOf st r.recNo) 256⟩

/-- The ring position of the tail (R397). -/
def tailPos (st : Store) : Nat := match tailOf st with | some b => b.pos | none => st.vol.nextPos

/-- A checkpoint of a stroke is appended to the head, padded to the page end and programmed (R395). -/
def appendCheckpoint (stroke : Nat) (s : State) : State :=
  let s1 := makeRoom 8192 false s
  let c : Checkpoint :=
    ⟨stroke, headSeq s1.store.vol, headPos s1.store.vol, tailPos s1.store, indexOf s1.store, s1.store.reloc,
      s1.store.stageNext - 1⟩
  let pg := max 1 s1.store.vol.geometry.pageBytes
  match headOf s1.store.vol with
  | none => s1
  | some h =>
    let full := h.used + 8192
    let used := paddedTo pg full
    let n := used / pg - h.used / pg
    let grow (u : Nat) := modHead (fun b => { b with used := u })
    let s2 := grow full (putStream (checkpointRecord c c.upTo) s1)
    let s2 := if full = used then s2 else grow used (putStream (padRecord (used - full) c.upTo) s2)
    let s3 := pushPages tagCheckpoint c.upTo h.seq (used / pg - 1) 1 (pushPages tagPage c.upTo h.seq (h.used / pg) (n - 1) s2)
    { s3 with store := { s3.store with ckpts := s3.store.ckpts ++ [c], ckptStroke := some stroke } }

/-- CHECKPOINT: on every 500th stroke (R395). -/
def checkpointRule (s : State) : State :=
  if s.store.state = .mounted ∧ !s.store.quenching ∧ s.latch.stroke % 500 = 0
      ∧ s.store.ckptStroke ≠ some s.latch.stroke then appendCheckpoint s.latch.stroke s
  else s

/-- The records up to a staging number are on the media. -/
def markWritten (upTo : Nat) (s : State) : State :=
  { s with store := { s.store with vol := { s.store.vol with
      stream := s.store.vol.stream.map fun r => if r.stage ≤ upTo then { r with written := true } else r } } }

/-- The oldest checkpoint in flight commits (R398); an unmount that waits for it ends (R421). -/
def commitCheckpoint (s : State) : State :=
  match s.store.ckpts with
  | [] => s
  | c :: cs =>
    let s1 := { s with store := { s.store with ckpts := cs, vol := { s.store.vol with committed := some c } } }
    if s1.store.unmounting ∧ cs.isEmpty then setStoreState .unmounted storeByCommand s1 else s1

/-! ### Slag (R388, R400, R401) -/

/-- A ring position is retired for a cause; above 1,536 entries the store moves to FAULT (R400, R401). -/
def retirePos (pos cause : Nat) (s : State) : State :=
  let v := s.store.vol
  let e := posBlock v pos
  if 1536 ≤ v.slag.length then storeFault storeBySlag s
  else
    writeSystem { s with store := { s.store with vol :=
      { v with slag := v.slag ++ [⟨e.2, e.1, cause⟩], retired := v.retired ++ [pos] } } }

/-- A block leaves the ring: its records and its relocation entry go with it (R395, R405). -/
def dropBlock (seq : Nat) (s : State) : State :=
  { s with store := { s.store with
      vol := { s.store.vol with
        blocks := s.store.vol.blocks.filter (·.seq != seq)
        stream := s.store.vol.stream.filter fun r => r.block != seq && r.origin != seq
        abandoned := s.store.vol.abandoned.filter (· != seq) }
      erasing := s.store.erasing.filter (· != seq)
      reloc := s.store.reloc.filter (·.1 != seq), relocWait := s.store.relocWait.filter (· != seq)
      checkQueue := s.store.checkQueue.filter (· != seq), readTable := s.store.readTable.filter (·.1 != seq) } }

/-! ### Tail expiry (R396) -/

/-- The Billets of a block expire (R396). -/
def expireBlock (seq : Nat) (s : State) : State :=
  s.store.recs.foldl (fun s r =>
    match ((reachOf s.store r.recNo).filter (·.block == seq)).getLast? with
    | some x => expireRec r.recNo (x.seq + 1) 1 s
    | none => s) s

/-- One block that the tail has decided to erase: its Billets expire, and its erase is queued; a block whose program
failed or that is weak is retired without an erase (R396, R400). -/
def expireTail (seq : Nat) (s : State) : State :=
  let s1 := expireBlock seq s
  match s.store.vol.blocks.find? fun b => b.seq == seq with
  | none => s1
  | some b =>
    if b.failed ∨ b.weak then dropBlock seq (retirePos b.pos (if b.failed then 3 else 4) s1)
    else
      pushNw { Packet.reset with tag := tagErase, total := seq }
        { s1 with store := { s1.store with erasing := s1.store.erasing ++ [seq] } }

/-- TAIL_EXPIRY (R396): on the first stroke boundary after the decision. -/
def tailExpiryRule (s : State) : State :=
  if s.store.state = .mounted then
    s.store.expiring.foldl (fun s q => expireTail q s) { s with store := { s.store with expiring := [] } }
  else s

/-! ### Scrubbing (R402 to R405) -/

/-- `rd_limit` in force: the host's, or the reset value of the cell type (R402). -/
def rdLimit (st : Store) : Nat :=
  st.maint.rdLimit.getD (if st.vol.geometry.bitsPerCell ≤ 1 then 100000 else if st.vol.geometry.bitsPerCell = 2 then 20000 else 5000)

/-- A page of a block is read (R404): its count steps; at the limit the block is to be checked and its count restarts;
a block that leaves the table of 1,024 is to be checked once. -/
def notePageRead (seq : Nat) (s : State) : State :=
  let n := (match s.store.readTable.find? fun e => e.1 == seq with | some e => e.2 | none => 0) + 1
  let full := rdLimit s.store ≤ n
  let table := (seq, if full then 0 else n) :: s.store.readTable.filter fun e => e.1 != seq
  let out := ((table.drop 1024).map (·.1)).filter fun q => !s.store.checkQueue.contains q
  { s with store := { s.store with
      readTable := table.take 1024
      checkQueue := s.store.checkQueue ++ (if full && !s.store.checkQueue.contains seq then [seq] else []) ++ out } }

/-- A relocated copy of a record takes its place at the head, with its `seq` and `timestamp` unchanged (R405). -/
def enterCopy (origin : Nat) (r : StoredRec) (s : State) : State :=
  let st := s.store.stageNext
  appendRec { r with flags := r.flags ||| 8, origin := origin, stage := st }
    { s with store := { s.store with stageNext := st + 1 } }

/-- The record that a read of another goes to (R405): the copy of a block whose relocation has committed. -/
def servedFrom (st : Store) : Nat → StoredRec → StoredRec
  | 0, r => r
  | k + 1, r =>
    if st.relocLive.contains r.block then
      match st.vol.stream.find? fun c => c.origin == r.block && c.recNo == r.recNo && c.seq == r.seq with
      | some c => servedFrom st k c
      | none => r
    else r

/-- The data-outs that read a record (R428): contiguous codewords, each within one page. -/
def readPackets (st : Store) (r : StoredRec) : List Packet :=
  let c := servedFrom st 64 r
  let per := max 1 (codewordsOf st.vol.geometry)
  let first := c.offset / 1024
  let last := (c.offset + c.length - 1) / 1024
  (List.range (last / per - first / per + 1)).map fun k =>
    let page := first / per + k
    let lo := max first (page * per)
    let hi := min last (page * per + per - 1)
    { Packet.reset with length := 1024 * (hi + 1 - lo), tag := tagRead, total := c.block, page := page, first := lo - page * per }

/-- A block is to be relocated (R405): it waits for NH to read it, and while `reloc` holds 64 entries it is deferred. -/
def relocate (seq : Nat) (s : State) : State :=
  if (s.store.reloc.any fun e => e.1 == seq) || s.store.relocWait.contains seq then s
  else
    { s with store := { s.store with
        relocWait := s.store.relocWait ++ [seq]
        scrubDeferred := if 64 ≤ s.store.reloc.length then bump s.store.scrubDeferred 1 else s.store.scrubDeferred } }

/-- A record lies in one of these codewords of its block. -/
def touches (lost : List Nat) (r : StoredRec) : Bool :=
  lost.any fun k => r.offset / 1024 ≤ k && k ≤ (r.offset + r.length - 1) / 1024

/-- Copies of the reachable records of a block that has been read go to the head, and the entry waits for the next
checkpoint (R405); a record with an uncorrectable codeword cannot be copied (R385). -/
def copyBlock (seq : Nat) (lost : List Nat) (s : State) : State :=
  let copies := s.store.vol.stream.filter fun r => r.block == seq && r.recNo < 256 && reachable s.store r && !touches lost r
  let s0 := makeRoom ((copies.map (·.length)).headD 0) true s
  let at_ := headSeq s0.store.vol
  let s1 := copies.foldl (fun s r => enterCopy seq r s) s0
  { s1 with store := { s1.store with reloc := s1.store.reloc ++ [(seq, at_)], relocWait := s1.store.relocWait.filter (· != seq) } }

/-- What a check of a block finds (R400, R405): at the first scrub read `retire_bits` retires it as weak; `scrub_bits`
relocates it. -/
def checkBlock (seq worst : Nat) (s : State) : State :=
  let first := s.store.vol.blocks.any fun b => b.seq == seq && !b.checked
  let weak := first && s.store.maint.retireBits ≤ worst
  let s1 := { s with store := { s.store with vol := { s.store.vol with
    blocks := s.store.vol.blocks.map fun b =>
      if b.seq = seq then { b with checked := true, weak := b.weak || weak } else b } } }
  if weak || s.store.maint.scrubBits ≤ worst then relocate seq s1 else s1

/-- Blocks that the patrol reads: closed, and not about to be erased (R403). -/
def patrolBlocks (st : Store) : List RingBlock :=
  st.vol.blocks.filter fun b => b.closed && !st.erasing.contains b.seq && !st.expiring.contains b.seq

/-- Ticks between two blocks of the patrol: a pass is spread over `patrol_hours`, and the first after a mount runs 24
times faster (R403). -/
def patrolInterval (st : Store) : Nat :=
  let pass := st.maint.patrolHours * 3600 * 24576000
  (if st.patrolPass = 0 then pass / 24 else pass) / max 1 (patrolBlocks st).length

/-- The next block of the patrol, and whether the pass wraps (R403). -/
def nextPatrol (st : Store) : Option (Nat × Bool) :=
  let l := (patrolBlocks st).map (·.seq)
  match l.find? fun q => st.patrolPos < q with
  | some q => some (q, false)
  | none => l.head?.map fun q => (q, true)

/-- Data pages of a block. -/
def dataPages (v : Volume) (seq : Nat) : Nat :=
  match v.blocks.find? fun b => b.seq == seq with
  | some b => if b.closed then b.data else ceilDiv b.used (max 1 v.geometry.pageBytes)
  | none => 0

/-- The housekeeping work that comes next: erases that Quench abandoned, relocations for which `reloc` has room, checks,
then the patrol when it is due (R403 to R405, R423). -/
def nextHousekeeping (s : State) : Option NhWork :=
  let work (kind block left : Nat) : NhWork := { NhWork.reset with kind := kind, block := block, left := left }
  let v := s.store.vol
  match v.abandoned, (if s.store.reloc.length < 64 then s.store.relocWait else []), s.store.checkQueue with
  | b :: _, _, _ => some (work 2 b 1)
  | [], b :: _, _ => some (work 3 b (dataPages v b))
  | [], [], b :: _ => some (work 1 b v.geometry.pagesPerBlock)
  | [], [], [] => if s.store.patrolDue ≤ s.now then (nextPatrol s.store).map fun e => work 0 e.1 3 else none

/-- The page that housekeeping reads next (R403, R404): the first, the middle and the last data page of a block that the
patrol visits; every page of one that is checked; the data pages of one to be relocated. -/
def nhPage (v : Volume) (w : NhWork) : Nat :=
  let data := dataPages v w.block
  if w.kind = 0 then (if w.left = 3 then 0 else if w.left = 2 then data / 2 else data - 1)
  else if w.kind = 3 then data - w.left
  else v.geometry.pagesPerBlock - w.left

/-- PATROL_READ (R403): the three reads of the next closed block are complete. -/
def execPatrolRead (s : State) : Out :=
  match s.store.nh with
  | some w =>
    if s.store.state = .mounted ∧ w.kind = 0 ∧ w.left = 0 then
      let wraps := match nextPatrol s.store with | some (_, x) => x | none => false
      let s1 := { s with store := { s.store with
        nh := none, patrolPos := w.block, patrolPass := if wraps then s.store.patrolPass + 1 else s.store.patrolPass } }
      .next (checkBlock w.block w.worst { s1 with store := { s1.store with patrolDue := s.now + patrolInterval s1.store } })
    else .next s
  | none => .next s

/-- READ_DISTURB_CHECK (R404): a block whose count reached the limit has been read whole. -/
def execReadDisturbCheck (s : State) : Out :=
  match s.store.nh with
  | some w =>
    if s.store.state = .mounted ∧ w.kind = 1 ∧ w.left = 0 then
      .next (checkBlock w.block w.worst { s with store := { s.store with
        nh := none, checkQueue := s.store.checkQueue.filter (· != w.block) } })
    else .next s
  | none => .next s

/-! ### NAND operations (R380, R428, R434, R437, R439) -/

/-- An erase, of a ring block or of a system block. -/
def isErase (p : Packet) : Bool := p.tag == tagErase || p.tag == tagSysErase

/-- The operation of a packet's kind. -/
def opKind (p : Packet) : NandKind := if isErase p then .erase else if p.tag = tagRead then .read else .program

/-- A tail erase may be issued: only on a LUN that holds neither the head block nor the next ring position, except on
media with a single LUN (R437). -/
def eraseAllowed (s : State) (seq : Nat) : Bool :=
  let v := s.store.vol
  totalLuns v ≤ 1 ||
    match v.blocks.find? fun b => b.seq == seq with
    | some b => posLun v b.pos != posLun v (headPos v) && posLun v b.pos != posLun v v.nextPos
    | none => true

/-- Where the page or the block of a packet lies. -/
def placeIn (v : Volume) (p : Packet) : PagePlace :=
  if p.tag = tagSystem ∨ p.tag = tagSysErase then ⟨p.ce, p.total, p.page⟩
  else
    let e := match v.blocks.find? fun b => b.seq == p.total with | some b => posBlock v b.pos | none => (0, 0)
    ⟨e.1, e.2, p.page⟩

/-- The erase of a system block has not ended: the pages of that block wait for it (R388). -/
def systemErasing (s : State) : Bool :=
  (s.store.arrays.any fun o => o.packet.tag == tagSysErase) || (queueOf s.dispatch 0x00).items.any fun p => p.tag == tagSysErase

/-- The CE and LUN that a packet goes to. -/
def packetLun (s : State) (p : Packet) : Nat × Nat :=
  let e := placeIn s.store.vol p
  lunOf s.store.vol e.ce e.block

/-- An array operation runs in a LUN. -/
def lunBusy (s : State) (l : Nat × Nat) : Bool := s.store.arrays.any fun o => packetLun s o.packet == l

/-- An NW packet may start: one program or erase of NW is in an array at a time, and its LUN is idle. -/
def nwStarts (s : State) (p : Packet) : Bool :=
  let busy (k : NandKind) : Bool := s.store.arrays.any fun o => o.kind == k
  !lunBusy s (packetLun s p) &&
    if isErase p then !busy .erase && (p.tag == tagSysErase || eraseAllowed s p.total)
    else !busy .program && !(p.tag == tagSystem && systemErasing s)

/-- The place in NW of the packet that may start first. -/
def nwPick (s : State) : Option Nat := (queueOf s.dispatch 0x00).items.findIdx? (nwStarts s)

/-! ### Array reads (R382, R428) -/

/-- The array read that the head packet of a queue waits for, before its data-out can be granted. -/
def readWanted (s : State) (id : Nat) : Option Packet :=
  match (queueOf s.dispatch id).items with
  | p :: _ =>
    if p.tag == tagRead && p.fetched.isNone && !(s.store.arrays.any fun o => o.queue == id) then some p else none
  | [] => none

/-- A page lies in the data register of a LUN, whose data-out has not crossed the bus. -/
def registerHeld (s : State) (l : Nat × Nat) : Bool :=
  (s.dispatch.queues.any fun e => isNandQueue e.1 && e.1 != 0 &&
    (match e.2.items.head? with | some p => p.fetched.isSome && packetLun s p == l | none => false))
    || s.store.op.any fun o => packetLun s o.packet == l

/-- NW waits for a LUN. -/
def writeWaits (s : State) (l : Nat × Nat) : Bool :=
  (queueOf s.dispatch 0x00).items.any fun p => packetLun s p == l && nwStarts s p

/-- The array read of the head packet of a queue begins when its LUN is free (R382): READ takes the page to the data register of
the LUN; its data-out is granted after it. -/
def beginRead (id : Nat) (s : State) : State :=
  match readWanted s id with
  | none => s
  | some p =>
    let l := packetLun s p
    if lunBusy s l || registerHeld s l || writeWaits s l then s
    else
      let o : NandOp := ⟨id, .read, p, s.now, commandsOf s.store.vol.geometry .read⟩
      { s with store := { s.store with arrays := s.store.arrays ++ [o] } }

/-- The reads that can begin, by the order of their queues (R426). -/
def beginReads (s : State) : State :=
  if s.store.state ≠ .mounted ∨ s.store.quenching then s
  else ((s.dispatch.queues.map (·.1)).filter isNandQueue).foldl (fun s id => beginRead id s) s

/-- A queue's array read has ended: its page lies in the data register, with the bits that were read wrongly (R384). -/
def setFetched (o : NandOp) (wrong : List (List Nat)) (s : State) : State :=
  { s with dispatch := modQueue s.dispatch o.queue fun q =>
    match q.items with
    | p :: rest => if p = o.packet then { q with items := { p with fetched := some wrong } :: rest } else q
    | [] => q }

/-- Data-in takes the data register of a LUN: a page that was read into it has to be read again. -/
def dropFetched (l : Nat × Nat) (s : State) : State :=
  let drop (q : DQueue) : DQueue :=
    match q.items with
    | p :: rest => if p.fetched.isSome && packetLun s p == l then { q with items := { p with fetched := none } :: rest } else q
    | [] => q
  { s with dispatch := { s.dispatch with
    queues := s.dispatch.queues.map fun e => if isNandQueue e.1 && e.1 != 0 then (e.1, drop e.2) else e } }

/-- The head packet of a queue can go onto the bus: a data-out whose page has been read, an erase for an idle LUN. -/
def readyPacket (s : State) (q : DQueue) : Bool :=
  match q.items with
  | p :: _ => (isErase p || p.fetched.isSome) && !lunBusy s (packetLun s p)
  | [] => false

/-- An operation begins: the data of a page program or of a data-out crosses the bus, and an erase goes to its array at once
(R428, R429, R431). -/
def beginOp (id : Nat) (p : Packet) (s0 : State) : State :=
  let s := if opKind p = .program then dropFetched (packetLun s0 p) s0 else s0
  let p1 := if p.tag = tagPage ∨ p.tag = tagCheckpoint then { p with bytes := ringPage s.store.vol p.total p.page } else p
  let o : NandOp := ⟨id, opKind p, p1, s.now, commandsOf s.store.vol.geometry (opKind p)⟩
  if isErase p then
    { s with
      store := { s.store with arrays := s.store.arrays ++ [o] }
      counters := { s.counters with nandErases := bump s.counters.nandErases 1 } }
  else
    { s with
      store := { s.store with op := some o }
      xq := let n := min 16 (p.length / 1024)
        if o.kind = .program then { s.xq with nandqW := n } else { s.xq with nandqR := n } }

/-- NAND_GRANT (R428, R434, R437, R439): the bus is idle and NW goes first; in Quench only NW is granted. A read is granted as the
data-out of a page that its array read has brought to the data register. -/
def execNandGrant (s : State) : Out :=
  if s.store.state ≠ .mounted ∨ s.store.op.isSome then .next s
  else
    let s0 := accrue s
    match nwPick s0 with
    | some k =>
      (match (queueOf s0.dispatch 0x00).items[k]? with
      | some p =>
        let d := modQueue s0.dispatch 0x00 fun q =>
          { q with items := q.items.eraseIdx k, sent := bump q.sent (countedLength q p), grants := bump q.grants 1 }
        .next (beginReads (beginOp 0x00 p (noteGrantOf 0x00 p { s0 with dispatch := d })))
      | none => .next s0)
    | none =>
      if s0.store.quenching then .next s0
      else
        match pickQueue s0.dispatch.lastNand
            (queueIdsWith s0.dispatch fun id q => isNandQueue id && id != 0 && eligible id q && readyPacket s0 q) with
        | none => .next (beginReads s0)
        | some id =>
          match (queueOf s0.dispatch id).items with
          | [] => .next s0
          | p :: _ =>
            let d := modQueue s0.dispatch id (grantHead (!isErase p) id)
            .next (beginReads (beginOp id p (noteGrantOf id p { s0 with dispatch :=
              { d with lastNand := upsert (fun e => e.1 == queuePriority id) (queuePriority id, id) d.lastNand } })))

/-- Records that are not on the media, in stream order. -/
def unwritten (st : Store) : List StoredRec := st.vol.stream.filter fun r => !r.written

/-- A program failed once more (R417). -/
def countTry (s : State) : State := { s with store := { s.store with tries := s.store.tries + 1 } }

/-- The volume with a block closed at a failed page (R400): its earlier records stay, with the map behind that page; the
records of that page and of every later one, and blocks opened since, leave it. -/
def cutVolume (v : Volume) (b : RingBlock) (page : Nat) : Volume :=
  let keep (r : StoredRec) : Bool :=
    r.written && r.block ≤ b.seq && !(r.block == b.seq && page * v.geometry.pageBytes ≤ r.offset)
  { v with
    stream := v.stream.filter keep
    blocks := (v.blocks.filter fun x => x.seq ≤ b.seq).map fun x =>
      if x.seq = b.seq then { x with failed := true, closed := true, data := page + 1, used := blockBytes v } else x
    nextSeq := b.seq + 1, nextPos := followPos v b.pos }

/-- A system page whose program failed is written again on the next page of the same system block, then in the other one
(R419). -/
def redoSystem (p : Packet) (s : State) : State :=
  let (v, turned) := takeSystem s.store.vol
  let s1 := { s with store := { s.store with vol := v } }
  let s2 := if turned then pushNw { Packet.reset with tag := tagSysErase, ce := p.ce, total := v.sysBlock } s1 else s1
  pushNw { p with total := v.sysBlock, page := v.sysPage - 1 } s2

/-- The relocations still held, each with the block at which its copies begin (R405). -/
def replaceReloc (st : Store) : List (Nat × Nat) :=
  st.reloc.map fun e => (e.1, match st.vol.stream.find? fun r => r.origin == e.1 with | some r => r.block | none => e.2)

/-- A page program failed (R400, R417): the records of the failed page and after it are written again at the start of a
new head block, with the checkpoints still in flight; the failed block is closed with a map of its earlier records. The
third failure in a row moves the store to FAULT. In Quench it ends Quench without a commit (R401). -/
def failProgram (p : Packet) (s : State) : State :=
  let s1 := countTry { s with store := { s.store with programFails := bump s.store.programFails 1 } }
  if s1.store.quenching then setStoreState .quenched storeByPwrfail s1
  else if 3 ≤ s1.store.tries then storeFault storeByMedia s1
  else if p.tag = tagSystem then redoSystem p s1
  else match s1.store.vol.blocks.find? fun b => b.seq == p.total with
    | none => s1
    | some b =>
      let redo := unwritten s1.store
      let cks := s1.store.ckpts
      let v := cutVolume s1.store.vol b p.page
      let d := modQueue s1.dispatch 0x00 fun q =>
        { q with items := q.items.filter fun x => isErase x || x.tag == tagSystem }
      let s2 := { s1 with dispatch := d, store := { s1.store with ckpts := [], vol := v } }
      let s3 := pushPages tagPage 0 b.seq (p.page + 1) (v.geometry.pagesPerBlock - (p.page + 1)) s2
      let s4 := redo.foldl (fun s r => appendRec r s) (openNext s3)
      let s5 := { s4 with store := { s4.store with reloc := replaceReloc s4.store } }
      cks.foldl (fun s c => appendCheckpoint c.stroke s) s5

/-- The cells that a page program leaves (R383 to R386). -/
def burnPage (p : Packet) (s : State) : State :=
  let g := s.store.vol.geometry
  { s with media := programPage (pageCells s.store.keys g (placeIn s.store.vol p) p.bytes) s.media }

/-- A page program passed. -/
def passProgram (p : Packet) (s : State) : State :=
  let s0 := burnPage p s
  let s1 := { s0 with
    store := { s0.store with tries := 0 }
    counters := { s0.counters with nandPagesProgrammed := bump s0.counters.nandPagesProgrammed 1 } }
  if p.tag = tagSystem then s1
  else if p.tag = tagCheckpoint then commitCheckpoint (markWritten p.offset s1)
  else markWritten p.offset s1

/-- An erase ended (R395, R400): its cells are erased and its block leaves the ring; a failure also retires it. The erase of
a system block is tried again until its third failure (R417). -/
def endErase (pass : Bool) (p : Packet) (s : State) : State :=
  let seq := p.total
  let at_ := placeIn s.store.vol p
  let erased := { s with media := eraseBlock at_.ce at_.block s.media }
  let failed := { s with store := { s.store with eraseFails := bump s.store.eraseFails 1 } }
  if p.tag = tagSysErase then
    if pass then { erased with store := { erased.store with tries := 0 } }
    else
      let s1 := countTry failed
      if 3 ≤ s1.store.tries then storeFault storeByMedia s1
      else { s1 with dispatch := modQueue s1.dispatch 0x00 fun q => { q with items := p :: q.items } }
  else
    let nhDone := match s.store.nh with | some w => w.kind == 2 && w.block == seq | none => false
    let clear (s : State) : State := if nhDone then { s with store := { s.store with nh := none } } else s
    if pass then dropBlock seq (clear erased)
    else match s.store.vol.blocks.find? fun b => b.seq == seq with
      | some b => dropBlock seq (retirePos b.pos 2 (clear failed))
      | none => clear failed

/-- What a data-out of a packet brings (R384 to R386). -/
def dataOut (s : State) (p : Packet) : List (Option (List Byte × Nat)) :=
  let g := s.store.vol.geometry
  fetchCodewords s.store.keys g (cellsAt s.media g (placeIn s.store.vol p)) p.first (p.length / 1024) (p.fetched.getD [])

/-- A data-out ended (R385, R404, R424): its corrections and uncorrectable codewords are counted, and its queue's work
goes on. -/
def endRead (o : NandOp) (s : State) : State :=
  let got := dataOut s o.packet
  let fixed := got.filterMap fun x => x.map (·.2)
  let corrected := fixed.sum
  let lost := got.length - fixed.length
  let worst := if 0 < lost then correctable + 1 else fixed.foldl max 0
  let bytes := got.flatMap fun x => match x with | some e => e.1 | none => zeros 1024
  let s1 := notePageRead o.packet.total { s with
    store := { s.store with
      correctedBits := bump s.store.correctedBits corrected, uncorrectable := bump s.store.uncorrectable lost }
    counters := { s.counters with
      nandPagesRead := bump s.counters.nandPagesRead 1, nandCorrectedBits := bump s.counters.nandCorrectedBits corrected
      nandUncorrectable := bump s.counters.nandUncorrectable lost } }
  let more := !(queueOf s1.dispatch o.queue).items.isEmpty
  if o.queue = 0x1F then
    match s1.store.nh with
    | none => s1
    | some w =>
      let base := o.packet.page * codewordsOf s.store.vol.geometry
      let bad := (List.range got.length).filterMap fun k => if (got.getD k none).isNone then some (base + k) else none
      let w1 := { w with left := w.left - 1, worst := max w.worst worst, lost := w.lost ++ bad }
      if w1.kind = 3 ∧ w1.left = 0 then copyBlock w1.block w1.lost { s1 with store := { s1.store with nh := none } }
      else { s1 with store := { s1.store with nh := some w1 } }
  else if o.queue < 0x18 then
    match finOf 8 (o.queue - 0x10) with
    | some c => { s1 with store := { s1.store with cursors := vmod s1.store.cursors c fun x =>
        { x with ready := !more, spoiled := x.spoiled || 0 < lost } } }
    | none => s1
  else match finOf 2 (o.queue - 0x18) with
    | some k => { s1 with store := { s1.store with exports := vmod s1.store.exports k fun e =>
        { e with buffer := e.buffer ++ bytes, spoiled := e.spoiled || 0 < lost } } }
    | none => s1

/-! ### Quench (R422, R423) -/

/-- PWRFAIL_N_FALL (R417, R422): held low for 1 µs it starts Quench in MOUNTED: a LUN that is erasing gets
RESET (R382), the erases and the system pages that wait on one are abandoned, the open page is padded and the last
checkpoint appended; in MOUNTING it ends the mount; in every other state it is ignored. -/
def startQuench (s : State) : State :=
  let erasing := (s.store.arrays.filter fun o => o.packet.tag == tagErase).map fun o => o.packet.total
  let s1 := { s with
    dispatch := modQueue s.dispatch 0x00 fun q => { q with
      items := q.items.filter fun p => !isErase p && !(p.tag == tagSystem && systemErasing s) }
    store := { s.store with
      quenching := true
      arrays := s.store.arrays.map fun o =>
        if o.kind = .erase then { o with kind := .reset, startedAt := s.now, commands := [.reset] } else o
      vol := { s.store.vol with abandoned := s.store.vol.abandoned ++ erasing }
      erasing := s.store.erasing.filter fun q => !erasing.contains q } }
  appendCheckpoint (curStroke s1) s1

/-- QUENCH_DONE (R401, R422): the checkpoint commits with every Billet that was in staging, or a program failed and the
last committed checkpoint stands; WP_N goes low in QUENCHED. -/
def execQuenchDone (pass : Bool) (s : State) : Out :=
  if s.store.state = .mounted ∧ s.store.quenching then
    let c := s.store.ckpts.getLast?
    let s1 :=
      if pass then
        let left := (queueOf s.dispatch 0x00).items.filter fun p => !isErase p
        let sent := ((s.store.arrays ++ s.store.op.toList).filter fun o => o.kind == .program).map (·.packet)
        let fill (p : Packet) : Packet := if p.tag = tagSystem then p else { p with bytes := ringPage s.store.vol p.total p.page }
        let burnt := sent ++ left.map fill
        let s0 := burnt.foldl (fun s p => burnPage p s) s
        let s2 := markWritten (s0.store.stageNext - 1) { s0 with
          counters := { s0.counters with nandPagesProgrammed := bump s0.counters.nandPagesProgrammed burnt.length } }
        { s2 with store := { s2.store with
          quenchCount := bump s2.store.quenchCount 1
          vol := { s2.store.vol with committed := if c.isSome then c else s2.store.vol.committed } } }
      else { s with store := { s.store with programFails := bump s.store.programFails 1 } }
    .next (setStoreState .quenched storeByPwrfail s1)
  else .next s

/-- READ STATUS of an array operation falls on a tick: every 2 µs from its start (R380). -/
def pollsNow (now : Nat) (o : NandOp) : Bool :=
  o.startedAt < now && (now - o.startedAt) * 1000 / 49152 != (now - 1 - o.startedAt) * 1000 / 49152

/-- The operation in the array of a LUN (R382): its place among those that run. -/
def arrayOn (s : State) (ce lun : Nat) : Option Nat := s.store.arrays.findIdx? fun o => packetLun s o.packet == (ce, lun)

/-- Codes of the operations in a NAND packet (R540). -/
def nandCode : NandKind → Nat
  | .read => 0 | .program => 1 | .erase => 2 | .reset => 3

/-- A NAND packet of an operation that ends now (R540): what it was, where, whether it failed, and how long it took. -/
def noteNand (o : NandOp) (fail : Bool) (s : State) : State :=
  let g := s.store.vol.geometry
  let at_ := placeIn s.store.vol o.packet
  let (ce, lun) := packetLun s o.packet
  noteTrace s.now 9
    [BitVec.ofNat 32 (nandCode o.kind * 2 ^ 28 + ce % 2 * 2 ^ 27 + lun % 4 * 2 ^ 25 + bitAt fail 24 + rowOf g at_.block at_.page % 2 ^ 24),
      BitVec.ofNat 32 ((s.now - o.startedAt) * 1000 / 24576)] s

/-- An array operation ends with pass or fail status (R380, R395, R398, R400); a read leaves its page in the data register. -/
def arrayDone (k : Nat) (r : OpRx) (s : State) : State :=
  match s.store.arrays[k]? with
  | none => s
  | some o =>
    let s1 := noteNand o (!r.pass) { s with store := { s.store with arrays := s.store.arrays.eraseIdx k } }
    match o.kind with
    | .program => if r.pass then passProgram o.packet s1 else failProgram o.packet s1
    | .erase => endErase r.pass o.packet s1
    | .read => setFetched o r.read.wrong s1
    | .reset => s1

/-- NAND_OP_COMPLETE (R380, R395, R398, R400): READ STATUS shows that the operation in the array of a LUN has ended. -/
def execNandOpComplete (r : OpRx) (s : State) : Out :=
  match arrayOn s r.ce r.lun with
  | none => .next s
  | some k =>
    match s.store.arrays[k]? with
    | none => .next s
    | some o => if pollsNow s.now o then .next (beginReads (arrayDone k r s)) else .next s

/-- A status poll has run beyond 10 times the maximum that the parameter page gives for its operation (R417). -/
def pollOver (s : State) (o : NandOp) : Bool :=
  let g := s.store.vol.geometry
  let limit := match o.kind with
    | .program => g.tProgUs
    | .erase => g.tEraseUs
    | .read => g.tReadUs
    | .reset => g.tResetUs
  usPassed s o.startedAt (10 * limit)

/-- NAND_STATUS_POLL_LIMIT (R417): a poll beyond 10 times the parameter page's maximum moves the store to FAULT. -/
def execNandStatusPollLimit (s : State) : Out :=
  .next (if s.store.state = .mounted ∧ s.store.arrays.any (pollOver s) then storeFault storeByMedia s else s)

end Sys2Proof.Machine
end

