-- ==== Sys2Proof/Machine/Mount.lean ====
section
/-! DEFINITION. What a mount reads from the cells (11_crucible_store.md R388 to R398, R420): the volume from the system pages,
the head from the block headers, the index from the last committed checkpoint, and the records of the ring. -/

namespace Sys2Proof.Machine

/-- The bits that a mount reads wrongly in a codeword. -/
def errorsAt (wrong : List MediaError) (p : PagePlace) (i : Nat) : List Nat :=
  match wrong.find? fun e => e.ce == p.ce && e.block == p.block && e.page == p.page && e.codeword == i with
  | some e => e.bits
  | none => []

/-- A codeword of a page, corrected and decrypted; none where it is uncorrectable (R384 to R386). -/
def codewordAt (keys : List Byte) (g : Geometry) (m : Media) (wrong : List MediaError) (p : PagePlace) (i : Nat) : Option (List Byte) :=
  (fetchCodeword keys g (cellsAt m g p) i (errorsAt wrong p i)).map (·.1)

/-! ### The volume (R388 to R390) -/

/-- The first codeword of a system page is one (R389): its magic and version, and its CRC. -/
def clearOk (c : List Byte) : Bool :=
  getU 4 0 c == 0x43555243 && getU 2 4 c == 1 && (crc32 (c.take 0x3FC)).toNat == getU 4 0x3FC c

/-- The volume belongs to this unit (R146, R390). -/
def ownVolume (otp : Otp) (c : List Byte) : Bool :=
  getU 8 0x20 c == otp.serial.toNat && (c.drop 0x28).take 16 == keyCheck otp ((c.drop 0x10).take 16)

/-- The slag table of a system page (R389), in which the entries of the format come first. -/
def slagEntries (d : List Byte) : List SlagEntry :=
  (List.range (getU 2 12 d)).map fun k => ⟨getU 2 (16 + 4 * k) d, getU 1 (18 + 4 * k) d, getU 1 (19 + 4 * k) d⟩

/-- The volume with the ring positions of its blocks retired since the format (R387, R400). -/
def noteRetired (v : Volume) : Volume :=
  let n := (v.geometry.blocks - 4) * v.ceCount - v.ringBlocks
  let pairs := ringPairs { v with slag := v.slag.take n, retired := [] }
  { v with retired := (v.slag.drop n).filterMap fun e => pairs.findIdx? (· == (e.ce, e.block)) }

/-- The volume that a system page describes (R389): its clear codeword, then the other bytes of its first 8 KiB. -/
def parseVolume (g : Geometry) (c d : List Byte) : Volume :=
  noteRetired { Volume.reset with
    volumeId := (c.drop 0x10).take 16, serial := BitVec.ofNat 64 (getU 8 0x20 c), keyCheck := (c.drop 0x28).take 16
    sysSeq := getU 4 8 c, ceCount := getU 1 0x3E c, ringBlocks := getU 4 0x44 c
    geometry := { g with
      pageBytes := getU 4 0x38 c, pagesPerBlock := getU 2 0x3C c, bitsPerCell := getU 1 0x3F c, blocks := getU 4 0x40 c }
    anchorSeq := getU 8 0 d, anchorPos := getU 4 8 d, slag := slagEntries d }

/-- What a page of a system block holds (R388, R390): its `sys_seq`, and its volume, or none where it is another unit's. The
second CRC of such a page cannot be checked without that unit's keys (DEDUCED, notes/assumptions/132.md). -/
def readSystem (otp : Otp) (g : Geometry) (m : Media) (wrong : List MediaError) (p : PagePlace) : Option (Nat × Option Volume) :=
  match codewordAt [] g m wrong p 0 with
  | none => none
  | some c =>
    if !clearOk c then none
    else if !ownVolume otp c then some (getU 4 8 c, none)
    else
      let keys := keyBytes (storeKeys otp ((c.drop 0x10).take 16))
      match (List.range 7).mapM fun i => codewordAt keys g m wrong p (i + 1) with
      | none => none
      | some l =>
        let d := l.flatten
        if (crc32 (d.take 0x1BFC)).toNat = getU 4 0x1BFC d then
          let pages := (m.pages.filter fun x => x.block == p.block && x.ce < ceCountOf m).map fun x => x.page + 1
          some (getU 4 8 c, some { parseVolume g c d with sysBlock := p.block, sysPage := pages.foldl max 0 })
        else none

/-- The valid system page of the highest `sys_seq`, on either CE (R388). -/
def findSystem (otp : Otp) (g : Geometry) (m : Media) (wrong : List MediaError) : Option (Nat × Option Volume) :=
  let pages := (m.pages.filter fun x => (x.block == 2 || x.block == 3) && x.ce < ceCountOf m).map fun x => PagePlace.mk x.ce x.block x.page
  (pages.filterMap (readSystem otp g m wrong)).foldl (fun best e =>
    match best with
    | some b => if b.1 < e.1 then some e else best
    | none => some e) none

/-- The volume that a mount finds, or why it fails (R378, R379, R381, R390). -/
def mountVolume (otp : Otp) (m : Media) (wrong : List MediaError) : Status ⊕ Volume :=
  match identify m with
  | none => .inl .mediaFault
  | some g =>
    if !g.featuresOk || !(match m.ce1 with | some h => h.featuresOk | none => true) then .inl .mediaFault
    else match findSystem otp g m wrong with
      | none => .inl .mediaFault
      | some (_, none) => .inl .authFail
      | some (_, some v) => if !sameGeometry g v.geometry ∨ v.ceCount ≠ ceCountOf m then .inl .mediaFault else .inr v

/-! ### Blocks (R394, R420) -/

/-- The place of a page of a ring position. -/
def pageAt (v : Volume) (pos page : Nat) : PagePlace := ⟨(posBlock v pos).1, (posBlock v pos).2, page⟩

/-- The block header on page 0 of a ring position: `block_seq` and `open_time` (R394). -/
def readHeader (keys : List Byte) (v : Volume) (m : Media) (wrong : List MediaError) (pos : Nat) : Option (Nat × Nat) :=
  match codewordAt keys v.geometry m wrong (pageAt v pos 0) 0 with
  | some c =>
    if getU 2 0 c = 0xFFFF ∧ getU 1 2 c = 0x0B ∧ getU 4 16 c = 56 ∧ getU 4 48 c = pos then some (getU 8 32 c, getU 8 40 c) else none
  | none => none

/-- The last block of a run of `block_seq`, from one on: its `block_seq` and ring position (R420, step 3). -/
def runEnd (header : Nat → Option Nat) (v : Volume) : Nat → Nat → Nat → Nat × Nat
  | 0, seq, pos => (seq, pos)
  | k + 1, seq, pos =>
    let next := followPos v pos
    if header next = some (seq + 1) then runEnd header v k (seq + 1) next else (seq, pos)

/-- The ring position before one. -/
def prevPos (v : Volume) (pos : Nat) : Option Nat :=
  (List.range v.ringBlocks).find? fun p => !v.retired.contains p && followPos v p == pos

/-- The head block (R420, steps 2 and 3). An anchor is written before its block, so the head may still be the block before it
(DEDUCED, notes/assumptions/132.md). -/
def findHead (header : Nat → Option Nat) (v : Volume) : Option (Nat × Nat) :=
  if header v.anchorPos = some v.anchorSeq then some (runEnd header v v.ringBlocks v.anchorSeq v.anchorPos)
  else (prevPos v v.anchorPos).bind fun p => if 0 < v.anchorSeq ∧ header p = some (v.anchorSeq - 1) then some (v.anchorSeq - 1, p) else none

/-- Pages of a ring position that are programmed, from page 0 on. -/
def pagesIn (v : Volume) (m : Media) (pos : Nat) : Nat :=
  ((List.range v.geometry.pagesPerBlock).takeWhile fun k =>
    m.pages.any fun x => x.ce == (posBlock v pos).1 && x.block == (posBlock v pos).2 && x.page == k).length

/-- The codewords of pages of a ring position. -/
def readPages (keys : List Byte) (v : Volume) (m : Media) (wrong : List MediaError) (pos count : Nat) : List (Option (List Byte)) :=
  (List.range count).flatMap fun k => (List.range (codewordsOf v.geometry)).map fun i => codewordAt keys v.geometry m wrong (pageAt v pos k) i

/-- Bytes of a stream at an offset; none where a codeword of them is uncorrectable. -/
def streamBytes (words : List (Option (List Byte))) (offset n : Nat) : Option (List Byte) :=
  let first := offset / 1024
  (((words.drop first).take ((offset + n - 1) / 1024 + 1 - first)).mapM id).bind fun l =>
    let b := (l.flatten.drop (offset % 1024)).take n
    if b.length = n then some b else none

/-- A record kind of R391. -/
def knownKind (k : Nat) : Bool := k < 4 || (0x0B ≤ k && k ≤ 0x0F)

/-- The record that a header and its payload spell (R391). -/
def parseRecord (seq offset : Nat) (h payload : List Byte) : StoredRec :=
  { StoredRec.reset with
    recNo := getU 2 0 h, kind := getU 1 2 h, flags := BitVec.ofNat 8 (getU 1 3 h), seq := BitVec.ofNat 32 (getU 4 4 h)
    timestamp := getU 8 8 h, length := getU 4 16 h, bitrate := getU 2 20 h, unitCount := getU 1 22 h
    unitBad := BitVec.ofNat 8 (getU 1 23 h), generation := BitVec.ofNat 32 (getU 4 24 h)
    cause := if getU 1 2 h = 0x0E then getU 1 0 payload else 0, payload := payload, offset := offset, block := seq, written := true }

/-- The records of a block, from an offset on. Where no header can be read the parse goes on at the next page (DEDUCED,
notes/assumptions/132.md); a record that runs beyond the pages programmed is not taken. -/
def parseStream (words : List (Option (List Byte))) (pageBytes seq : Nat) : Nat → Nat → List StoredRec
  | 0, _ => []
  | k + 1, o =>
    let next := (o / max 1 pageBytes + 1) * max 1 pageBytes
    if words.length * 1024 ≤ o then []
    else match streamBytes words o 32 with
      | none => parseStream words pageBytes seq k next
      | some h =>
        let n := getU 4 16 h
        if n < 32 ∨ n % 4 ≠ 0 ∨ !knownKind (getU 1 2 h) then parseStream words pageBytes seq k next
        else if words.length * 1024 < o + n then []
        else
          match streamBytes words (o + 32) (n - 32) with
          | some payload => parseRecord seq o h payload :: parseStream words pageBytes seq k (o + n)
          | none => parseStream words pageBytes seq k (o + n)

/-- The records on a number of pages of a block. -/
def recordsIn (keys : List Byte) (v : Volume) (m : Media) (wrong : List MediaError) (seq pos count : Nat) : List StoredRec :=
  let words := readPages keys v m wrong pos count
  parseStream words v.geometry.pageBytes seq (words.length * 32) 0

/-- The map pages of a block that was closed with its map, from its trailer (R394). -/
def trailerPages (keys : List Byte) (v : Volume) (m : Media) (pos seq : Nat) : Option Nat :=
  match codewordAt keys v.geometry m [] (pageAt v pos (v.geometry.pagesPerBlock - 1)) (codewordsOf v.geometry - 1) with
  | some c =>
    let t := c.drop 992
    if getU 4 0 t = 0x50414D42 ∧ getU 8 12 t = seq then some (getU 4 8 t) else none
  | none => none

/-- A block as a mount finds it (R394, R420): closed, with its map or without. That it was checked, weak or closed at a failed
page is not on the media (DEDUCED, notes/assumptions/132.md). -/
def foundBlock (keys : List Byte) (v : Volume) (m : Media) (seq pos : Nat) : RingBlock :=
  let programmed := pagesIn v m pos
  let opened := match readHeader keys v m [] pos with | some h => h.2 | none => 0
  match trailerPages keys v m pos seq with
  | some n =>
    { RingBlock.reset with
      seq := seq, pos := pos, openTime := opened, closed := true, data := v.geometry.pagesPerBlock - n, used := blockBytes v }
  | none =>
    { RingBlock.reset with
      seq := seq, pos := pos, openTime := opened, closed := true, data := programmed, used := programmed * v.geometry.pageBytes }

/-! ### The index (R397, R398, R420) -/

/-- One rec of a checkpoint; none for an unused one. -/
def parseIndex (p : List Byte) (n : Nat) : Option RecEntry :=
  let b := (p.drop (64 + 24 * n)).take 24
  let e : RecEntry :=
    ⟨n, BitVec.ofNat 32 (getU 4 0 b), BitVec.ofNat 32 (getU 4 4 b), getU 4 8 b, BitVec.ofNat 32 (getU 4 16 b), BitVec.ofNat 8 (getU 1 20 b),
      BitVec.ofNat 8 (getU 1 21 b), BitVec.ofNat 8 (getU 1 22 b), getU 4 12 b⟩
  if e = { RecEntry.reset with recNo := n } then none else some e

/-- A checkpoint from its 8,192 bytes (R397). -/
def parseCheckpoint (p : List Byte) : Checkpoint :=
  ⟨getU 8 32 p, getU 8 40 p, getU 4 48 p, getU 4 52 p, (List.range 256).filterMap (parseIndex p),
    ((List.range 64).map fun k => (getU 8 (6208 + 16 * k) p, getU 8 (6216 + 16 * k) p)).filter fun e => e.1 != 0, 0⟩

/-- The last checkpoint whose CRC passes among the records of a block, with its place (R420, step 4). -/
def lastCheckpoint (l : List StoredRec) : Option (Checkpoint × Nat × Nat) :=
  (l.filterMap fun r =>
    let p := recordBytes r
    if r.kind = 0x0C ∧ r.length = 8192 ∧ (crc32 (p.take 8188)).toNat = getU 4 8188 p then
      some (parseCheckpoint p, r.block, r.offset) else none).getLast?

/-- Ring positions from one up to another. -/
def posRun (v : Volume) (last : Nat) : Nat → Nat → List Nat
  | 0, p => [p]
  | k + 1, p => if p = last then [p] else p :: posRun v last k (followPos v p)

/-- A relocated record with the block whose record it copies (R405); a copy that no entry of the index names is none. -/
def withOrigin (reloc : List (Nat × Nat)) (l : List StoredRec) (r : StoredRec) : Option StoredRec :=
  if r.recNo < 256 && r.flags.getLsbD 3 then
    (reloc.find? fun e => e.2 ≤ r.block && l.any fun x => x.block == e.1 && x.recNo == r.recNo && x.seq == r.seq).map fun e =>
      { r with origin := e.1 }
  else some r

/-- A block outside the ring's run that is not erased, under a `block_seq` of the model's own (R423). -/
def strayBlock (pos : Nat) : RingBlock := { RingBlock.reset with seq := 2 ^ 64 + pos, pos := pos, closed := true }

/-- The volume with the ring as a mount finds it (R398, R420): the blocks from the tail to the head, every one closed, their
records up to the last committed checkpoint, and the blocks whose erase Quench abandoned. -/
def mountRing (keys : List Byte) (m : Media) (wrong : List MediaError) (v : Volume) : Volume :=
  let header (p : Nat) : Option Nat := (readHeader keys v m wrong p).map (·.1)
  match findHead header v with
  | none =>
    let stray := (List.range v.ringBlocks).filter fun p => !v.retired.contains p && 0 < pagesIn v m p
    { v with
      nextSeq := max 1 v.anchorSeq, nextPos := v.anchorPos, blocks := stray.map strayBlock, abandoned := stray.map fun p => 2 ^ 64 + p }
  | some (seq, pos) =>
    let parsed (q p : Nat) : Option (Checkpoint × Nat × Nat) := lastCheckpoint (recordsIn keys v m wrong q p (pagesIn v m p))
    let found := match parsed seq pos with
      | some c => some c
      | none => (prevPos v pos).bind fun p => parsed (seq - 1) p
    let tail := match found with | some c => c.1.tailPos | none => v.anchorPos
    let run := posRun v pos v.ringBlocks tail
    let blocks := run.zipIdx.map fun e => foundBlock keys v m (seq + e.2 + 1 - run.length) e.1
    let stray := (List.range v.ringBlocks).filter fun p => !v.retired.contains p && !run.contains p && 0 < pagesIn v m p
    let v1 := { v with
      blocks := stray.map strayBlock ++ blocks, abandoned := stray.map fun p => 2 ^ 64 + p
      nextSeq := seq + 1, nextPos := followPos v pos }
    match found with
    | none => v1
    | some (c, block, offset) =>
      let l := blocks.flatMap fun b => recordsIn keys v m [] b.seq b.pos (min b.data (pagesIn v m b.pos))
      let kept := l.filter fun r => r.block < block || (r.block == block && r.offset ≤ offset)
      { v1 with committed := some c, stream := kept.filterMap (withOrigin c.reloc kept) }

end Sys2Proof.Machine
end

