-- ==== Sys2Proof/Machine/StoreCmds.lean ====
section
/-! DEFINITION. The store's commands: formatting and mounting, recording, cursors, exports, maintenance, policing, the boot
area, status, and what the store does at a stroke boundary (11_crucible_store.md R402 to R425; 12_dispatch.md R440,
R447). -/

namespace Sys2Proof.Machine

/-! ### Expiry on a stroke (R411, R425) -/

/-- `EV_STORE_EXPIRED` (R425). -/
def expiredEvent (object recNo cause old new : Nat) (s : State) : State :=
  queueEventAt s (s.latch.stroke * 24576) evStoreExpired object
    (u8 recNo ++ u8 cause ++ zeros 2 ++ u32 (min 0xFFFFFFFF ((new - old) / 24576)) ++ u64 new)

/-- The start of a rec's oldest reachable Billet, if it has one. -/
def oldestBillet (st : Store) (n : Nat) : Option StoredRec := (reachOf st n).find? isBillet

/-- A playback cursor whose position fell within an expired span moves to the rec's new oldest point, or to the stroke
when nothing is reachable; a move is a restart of an output that plays from it (R353, R411). -/
def moveCursor (c : Fin 8) (bits : Nat) (s : State) : State :=
  let x := s.store.cursors[c]
  let at_ := match oldestBillet s.store x.recNo with | some r => r.timestamp | none => s.now
  if x.position < at_ then
    let y : Cursor :=
      { x with position := at_, arrival := s.now - at_, gap := false, ready := false }
    let s1 := { s with store := { s.store with cursors := s.store.cursors.set c y } }
    let s2 := expiredEvent c.val x.recNo bits x.position at_ s1
    if s2.outs[c].cfg.run ∧ s2.outs[c].cfg.cursor then restartOut c outByRestart .defaults s s2 else s2
  else s

/-- The next record of an export has expired. -/
def exportJumps (st : Store) (e : Export) : Bool :=
  let k := ((recOf st e.recNo).oldest - e.nextSeq).toNat
  k != 0 && decide (k < 2147483648)

/-- The causes of the jump that an export is to make (R415, R425). -/
def jumpCause (st : Store) (e : Export) : Nat :=
  e.expired ||| (match st.expired.find? fun x => x.1 == e.recNo with | some x => x.2 | none => 0)

/-- An export whose next record fell to an expiry notes its causes (R415). -/
def noteJump (st : Store) (e : Export) : Export := if exportJumps st e then { e with expired := jumpCause st e } else e

/-- The cursors of every rec with expiries since the last stroke (R411), and what the exports note of them. -/
def moveCursors (s0 : State) : State :=
  let s := { s0 with store := { s0.store with exports := s0.store.exports.map (noteJump s0.store) } }
  let l := s.store.expired
  let s1 := l.foldl (fun s e => (List.finRange 8).foldl (fun s c =>
    if s.store.cursors[c].set && s.store.cursors[c].recNo == e.1 then moveCursor c e.2 s else s) s) s
  { s1 with store := { s1.store with expired := [] } }

/-! ### Recording (R406 to R409) -/

/-- Parses `STORE_RECORD_SET` (R406, 13 bytes). -/
def parseRecordSet (p : List Byte) : Option (Nat × RecordCfg) :=
  match finOf 48 (getU 1 2 p) with
  | some i =>
    let c : RecordCfg := ⟨getU 1 1 p, i, BitVec.ofNat 32 (getU 4 3 p), BitVec.ofNat 8 (getU 1 7 p), getU 1 8 p, getU 4 9 p⟩
    if p.length = 13 ∧ c.action ≤ 3 ∧ c.aac ≤ 2 ∧ c.quota ≤ 1048576 then some (getU 1 0 p, c) else none
  | none => none

/-- The identity of a service on a slot (R397, R407): bearer, identifier, ECC, SCIdS and the bit rate of a DAB
component, from the slot's database records. -/
def serviceIdentity (s : State) (i : Fin 48) (sid : Word) (scids : Byte) : Byte × Word × Byte × Byte × Nat :=
  let x := s.slots[i]
  if x.tune.type = .dab then
    let ecc := match s.db.recs.findSome? fun r => match r.body with
        | .service v => if v.dab && v.sid == sid then some v.ecc else none
        | _ => none with | some e => e | none => 0
    let rate := match findKey s.db.recs (.component sid scids.toNat) with
      | some r => (match r.body with | .component c => c.bitrate | _ => 0)
      | none => 0
    (2, sid, ecc, scids, rate)
  else if x.tune.type = .am then (1, BitVec.ofNat 32 x.tune.freq, 0, 0, 0)
  else
    match s.db.recs.findSome? fun r => match r.body with
        | .service v => if !v.dab && v.freq == x.tune.freq then some (v.sid, v.ecc) else none
        | _ => none with
    | some (sid, ecc) => (0, sid, ecc, 0, 0)
    | none => (0, 0, 0, 0, 0)

/-- The rec's reachable data belongs to another service (R407). -/
def otherService (s : State) (r : Rec) (c : RecordCfg) : Bool :=
  let (b, sid, _, scids, _) := serviceIdentity s c.slot c.sid c.scids
  !(reachOf s.store r.recNo).isEmpty && (r.bearer != b || r.sid != sid || r.scids != scids)

/-- The refusals of `STORE_RECORD_SET` (R407, R443, R499): `before` is the state that the earlier commands of the
transaction leave, `after` the state that the whole transaction produces. -/
def judgeRecord (n : Nat) (c : RecordCfg) (before after : State) : Option Status :=
  if before.store.state ≠ .mounted ∨ before.store.quenching then some .badState
  else if c.action ≠ 1 then none
  else
    let x := after.slots[c.slot]
    let r := recOf before.store n
    let lacks := x.tune.type == .dab && (slotComponent after c.slot c.sid c.scids).isNone
    let aacClash := isLocal after && x.tune.type != .dab &&
      after.store.recs.any fun q => q.recNo != n && q.recording && q.slot == c.slot.val && q.aac != c.aac
    if x.state = .free ∨ x.visit ∨ lacks ∨ r.recording ∨ otherService after r c ∨ aacClash then some .badState
    else if after.store.overBudget || writeBudget after.store < budgetUsed after.store then some .noResource
    else none

/-- A rec starts (R407, R408, R442). -/
def startRec (n : Nat) (c : RecordCfg) (s : State) : State :=
  let (b, sid, ecc, scids, rate) := serviceIdentity s c.slot c.sid c.scids
  modRecNo n (fun r => { r with
    recording := true, slot := c.slot.val, sid := sid, ecc := ecc, bearer := b, scids := scids, aac := c.aac
    quota := c.quota, fromTick := s.now, firstDue := true, stopAt := none, sourceUp := s.slots[c.slot].state == .live
    sourceBitrate := rate, tokens := r.policeBurst * tokenUnit, tokensAt := s.now, dropping := false }) s

/-- A rec stops: the Billets that begin before the stroke are still written (R408). -/
def stopRec (n : Nat) (s : State) : State :=
  modRecNo n (fun r => if r.recording then { r with recording := false, stopAt := some s.now } else r) s

/-- A delete: every reachable Billet of the rec expires on the apply stroke (R409). -/
def deleteRec (n : Nat) (s : State) : State :=
  let s1 := expireRec n (recOf s.store n).nextSeq 2 s
  modRecNo n (fun r => if r.recording then r else { r with bearer := 0xFF }) s1

/-- `STORE_RECORD_SET` applies; a quota change expires on its apply stroke (R410). -/
def applyRecord (n : Nat) (c : RecordCfg) (s : State) : State :=
  if c.action = 0 then stopRec n s
  else if c.action = 1 then applyQuota n (startRec n c s)
  else if c.action = 2 then deleteRec n s
  else applyQuota n (modRecNo n (fun r => { r with quota := c.quota }) s)

/-- `SLOT_RELEASE` stops every rec on the slot (R211, R408). -/
def stopSlotRecs (i : Fin 48) (s : State) : State :=
  (s.store.recs.filter fun r => r.recording && r.slot == i.val).foldl (fun s r => stopRec r.recNo s) s

/-- The source of a rec gives content: LIVE, and a DAB component present (R409). -/
def sourceGives (s : State) (r : Rec) : Bool :=
  match finOf 48 r.slot with
  | some i =>
    s.slots[i].state == .live && (r.bearer != 2 || (slotComponent s i r.sid r.scids).isSome)
  | none => false

/-- One gap at the first stroke boundary at which the source of a rec leaves (R409); a link loss brings every rec one of
cause 2, whatever its slot's state was (R57). -/
def gapRule (r : Rec) (s : State) : State :=
  if !r.recording then s
  else
    let up := sourceGives s r
    let lost : Bool := match recSlot s r with | some x => x.state == .linkLost | none => false
    let s1 := if (r.sourceUp && !up) || (lost && !r.lostSeen) then writeGap r.recNo (if lost then 2 else 1) (s.latch.stroke * 24576) s else s
    modRecNo r.recNo (fun q => { q with sourceUp := up, lostSeen := lost }) s1

/-! ### Policing (R440, R441, R443, R447) -/

/-- Parses `POLICE_SET` (R440, 9 bytes). -/
def parsePolice (p : List Byte) : Option (Nat × Nat × Nat) :=
  let k := getU 4 1 p
  let b := getU 4 5 p
  if p.length = 9 ∧ (k = 0 ∨ (8 ≤ k ∧ k ≤ 8000)) ∧ 4096 ≤ b ∧ b ≤ 262144 then some (getU 1 0 p, k, b) else none

/-- The refusal of `POLICE_SET` on the produced state (R443). -/
def judgePolice (after : State) : Option Status :=
  if writeBudget after.store < budgetUsed after.store then some .noResource else none

/-- `POLICE_SET` applies (R440): the tokens up to now have accrued at the old rate. -/
def applyPolice (n kbps burst : Nat) (s : State) : State :=
  modRecNo n (fun r =>
    let r1 := { r with tokens := tokensNow s.now r, tokensAt := s.now }
    { r1 with policeKbps := kbps, policeBurst := burst, tokens := min r1.tokens (burst * tokenUnit) }) s

/-- The automatic rate of a DAB rec follows its component's bit rate (R441); a sum above the budget is noted until it
falls (R443). -/
def refreshRates (s : State) : State :=
  let recs := s.store.recs.map fun r =>
    if r.recording ∧ r.bearer = 2 then
      match findKey s.db.recs (.component r.sid r.scids.toNat) with
      | some q => (match q.body with
        | .component c =>
          if c.bitrate = r.sourceBitrate then r
          else { r with tokens := tokensNow s.now r, tokensAt := s.now, sourceBitrate := c.bitrate }
        | _ => r)
      | none => r
    else r
  let st := { s.store with recs := recs }
  { s with store := { st with overBudget := decide (writeBudget st < budgetUsed st) } }

/-- `POLICE_STATUS_GET`, 29 bytes (R447). -/
def policeStatus (n : Nat) (s : State) : List Byte :=
  let st := s.latch.store
  let r := recOf st n
  u64 s.latch.stroke ++ u32 (policeBps r / 1000) ++ u32 (tokensNow (s.latch.stroke * 24576) r / tokenUnit)
    ++ u32 r.policedBillets.toNat ++ u32 r.policedBytes.toNat ++ u32 (budgetUsed st / 1000) ++ uBool st.overBudget

/-! ### Playback cursors (R412 to R414) -/

/-- Parses `CURSOR_SET` (R412, 12 bytes). -/
def parseCursor (p : List Byte) : Option (Fin 8 × CursorCfg) :=
  match finOf 8 (getU 1 0 p) with
  | some c =>
    if p.length = 12 ∧ getU 1 2 p ≤ 1 ∧ getU 1 11 p ≤ 1 then
      some (c, ⟨getU 1 1 p, getU 1 2 p == 1, getU 8 3 p, getU 1 11 p == 1⟩)
    else none
  | none => none

/-- The refusals of `CURSOR_SET` on the produced state (R412). -/
def judgeCursor (c : CursorCfg) (after : State) : Option Status :=
  if after.store.state ≠ .mounted ∨ (reachOf after.store c.recNo).isEmpty then some .badState else none

/-- The arrival floor behind a stroke in ticks (R413). -/
def arrivalFloor (r : Rec) : Nat := if r.bearer = 2 then 1200 * 24576 else 600 * 24576

/-- The position that a seek resolves to on its apply stroke, and whether it was clamped (R413). -/
def resolveSeek (c : CursorCfg) (s : State) : Nat × Bool :=
  let want := if c.behind then s.now - c.position else c.position
  let floor := s.now - arrivalFloor (recOf s.store c.recNo)
  let lo := match oldestBillet s.store c.recNo with | some r => r.timestamp | none => 0
  let p := max lo (min want floor)
  (p, p != want)

/-- `CURSOR_SET` applies (R413, R414): a seek, or a resume from it, of a cursor whose output runs is a restart. -/
def applyCursor (c : Fin 8) (k : CursorCfg) (s : State) : State :=
  let (p, clamped) := resolveSeek k s
  let y : Cursor :=
    { Cursor.reset with
      set := true, recNo := k.recNo, run := k.run, position := p, arrival := s.now - p, clamped := clamped, seek := some k }
  let s1 := { s with store := { s.store with cursors := s.store.cursors.set c y } }
  let s2 := refreshQueues s1
  if s2.outs[c].cfg.run ∧ s2.outs[c].cfg.cursor then restartOut c outByRestart .defaults s s2 else s2

/-- The seeks of this stroke, resolved after its expiries (R413). -/
def settleSeeks (s : State) : State :=
  let settle (x : Cursor) : Cursor :=
    match x.seek with
    | some k =>
      let (p, clamped) := resolveSeek k s
      { x with position := p, arrival := s.now - p, clamped := clamped, seek := none }
    | none => x
  let s1 := { s with store := { s.store with cursors := s.store.cursors.map settle } }
  (List.finRange 8).foldl (fun t c =>
    if s.store.cursors[c].seek.isSome ∧ t.outs[c].cfg.cursor then
      modLeg t c false fun p => { p with takeFrom := 25 * (t.store.cursors[c].position : Int) } else t) s1

/-- The next Billet that a cursor needs: the one that covers its position or follows it. -/
def nextBillet (st : Store) (x : Cursor) : Option StoredRec :=
  (reachOf st x.recNo).find? fun r => isBillet r && decide (x.position < r.timestamp + billetTicks)

/-- CURSOR_READ (R414): the next Billet has been read, lies in staging, or was not read in time. An uncorrectable
codeword and a late Billet send a gap. -/
def execCursorRead (c : Fin 8) (r : CursorRx) (s : State) : Out :=
  let x := s.store.cursors[c]
  let put (y : Cursor) : State := { s with store := { s.store with cursors := s.store.cursors.set c y } }
  if s.store.state ≠ .mounted ∨ s.store.quenching ∨ !x.set ∨ !x.run then .next s
  else match r with
    | .billet => if x.ready then .next (put { x with ready := false, gap := x.spoiled, spoiled := false }) else .next s
    | .inTime =>
      (match nextBillet s.store x with
      | some b => if b.written then .next s else .next (put { x with gap := false })
      | none => .next (put { x with gap := true }))
    | .late =>
      let s1 := put { x with ready := false, gap := true }
      .next { s1 with store := { s1.store with late := bump s1.store.late 1 } }

/-- What a playing cursor does at a stroke (R414): it advances by the stroke, but not on that of its seek, and a span that no Billet covers is a
gap. -/
def strokeCursor (st : Store) (now : Nat) (x : Cursor) : Cursor :=
  if x.set ∧ x.run ∧ x.seek.isNone then
    let y := { x with position := x.position + strokeTicks }
    match covering st y.recNo y.position with
    | none => if now < y.position then x else { y with gap := true }
    | some _ => y
  else x

/-! ### Export cursors (R415) -/

/-- Parses `EXPORT_SET` (R415, 19 bytes). -/
def parseExport (p : List Byte) : Option (Fin 2 × ExportCfg) :=
  match finOf 2 (getU 1 0 p) with
  | some k => if p.length = 19 ∧ getU 1 2 p ≤ 1 then some (k, ⟨getU 1 1 p, getU 1 2 p == 1, getU 8 3 p, getU 8 11 p⟩) else none
  | none => none

/-- The refusals of `EXPORT_SET` on the state before it (R415, R563). -/
def judgeExport (k : Fin 2) (c : ExportCfg) (before : State) : Option Status :=
  if !c.run then none
  else if (before.bulk.mapped.isSome && before.bulk.mapped != some .exportStream) || before.store.exports[k].running then some .busy
  else if before.store.state ≠ .mounted then some .badState
  else none

/-- The first record of a rec in `seq` order at or after a number. -/
def nextRecord (st : Store) (n : Nat) (seq : Word) : Option StoredRec :=
  (reachOf st n).find? fun r => (r.seq - seq).toNat < 2147483648

/-- `EXPORT_SET` applies (R415): a start maps or joins the export stream; a stop ends with `ST_ABORTED`. -/
def applyExport (k : Fin 2) (c : ExportCfg) (s : State) : State :=
  if c.run then
    let (first, start) := match (reachOf s.store c.recNo).find? fun r => c.start ≤ r.timestamp with
      | some r => (r.seq, r.timestamp)
      | none => ((recOf s.store c.recNo).nextSeq, c.start)
    let s1 := if s.bulk.mapped = some .exportStream then { s with bulk := { s.bulk with finalHalf := none } } else mapStream .exportStream false s
    let e : Export :=
      { Export.reset with running := true, recNo := c.recNo, start := start, stop := c.stop, nextSeq := first }
    refreshQueues { s1 with store := { s1.store with exports := s1.store.exports.set k e } }
  else
    { s with store := { s.store with exports := vmod s.store.exports k fun e =>
      if e.running ∧ e.ending.isNone then { e with ending := some (BitVec.ofNat 16 (statusCode .aborted)) } else e } }

/-- The end record of an export (R415): 36 bytes of kind 0x0D. -/
def endRecord (e : Export) (st : BitVec 16) : List Byte :=
  recordBytes { plainRecord 0x0D 0 (u16 st.toNat ++ zeros 2) with recNo := e.recNo, seq := e.nextSeq }

/-- A record waits in HX. -/
def pushHx (k : Fin 2) (length : Nat) (known : List Byte) (s0 : State) : State :=
  let s := accrue s0
  { s with dispatch := modQueue s.dispatch (0x72 + k.val) fun q =>
    if q.active then { q with items := q.items ++ [{ Packet.reset with length := length, tag := 0x72 + k.val, bytes := known }] }
    else q }

/-- The end of an export is decided (R415): the next record lies at or after its end time. -/
def exportDone (st : Store) (e : Export) : Bool :=
  e.stop != 0 && (match nextRecord st e.recNo e.nextSeq with | some r => decide (e.stop ≤ r.timestamp) | none => false)

/-- An export's next record is handed to HX (R415): a jump that expiry caused inserts a gap with cause 6 and posts
`EV_STORE_EXPIRED`; the end record closes the export. A record on the media is first read through NE. -/
def pullExport (k : Fin 2) (s0 : State) : State :=
  let s := accrue s0
  let e := s.store.exports[k]
  let put (y : Export) (s : State) : State := { s with store := { s.store with exports := s.store.exports.set k y } }
  let hx := queueOf s.dispatch (0x72 + k.val)
  let ne := queueOf s.dispatch (0x18 + k.val)
  if !e.running || e.ended || !hx.items.isEmpty || !ne.items.isEmpty || ne.sending
      || (s.store.arrays.any fun o => o.queue == 0x18 + k.val) then s
  else match e.ending with
    | some st => put { e with ended := true } (pushHx k 36 (endRecord e st) s)
    | none =>
      if exportDone s.store e then put { e with ending := some 0 } s
      else match nextRecord s.store e.recNo e.nextSeq with
        | none => s
        | some r =>
          if exportJumps s.store e then
            let g : StoredRec := { StoredRec.reset with
              recNo := e.recNo, kind := 0x0E, seq := e.nextSeq, timestamp := r.timestamp, length := 36, cause := 6
              payload := u8 6 ++ zeros 3 }
            expiredEvent (8 + k.val) e.recNo (jumpCause s.store e) e.start r.timestamp
              (put { e with nextSeq := (recOf s.store e.recNo).oldest, expired := 0 } (pushHx k 36 (recordBytes g) s))
          else if r.written then
            { put { e with buffer := [], spoiled := false } s with dispatch := modQueue s.dispatch (0x18 + k.val) fun q =>
              if q.active then { q with items := readPackets s.store r } else q }
          else put { e with nextSeq := r.seq + 1, start := r.timestamp } (pushHx k r.length (recordBytes r) s)

/-- The record that the reads of NE were made for goes to HX once its last codeword is there (R415). A record with an
uncorrectable codeword goes as a gap, whose cause the spec does not state (R385; log entry 98). -/
def exportRead (k : Fin 2) (s : State) : State :=
  let e := s.store.exports[k]
  if !(queueOf s.dispatch (0x18 + k.val)).items.isEmpty then s
  else match nextRecord s.store e.recNo e.nextSeq with
    | some r =>
      let e1 : Export := { e with nextSeq := r.seq + 1, start := r.timestamp, buffer := [], spoiled := false }
      let gap : StoredRec := { StoredRec.reset with
        recNo := r.recNo, kind := 0x0E, seq := r.seq, timestamp := r.timestamp, length := 36
        payload := freeBytes s 1 ++ zeros 3 }
      let bytes := if e.spoiled then recordBytes gap
        else (e.buffer.drop ((servedFrom s.store 64 r).offset % 1024)).take r.length
      pushHx k bytes.length bytes
        { s with
          store := { s.store with exports := s.store.exports.set k e1 }
          freeNext := if e.spoiled then s.freeNext + 1 else s.freeNext }
    | none => s

/-- Playback and housekeeping reads wait in their queues (R403, R404, R414, R444): one packet of each at a time. -/
def pullReads (s0 : State) : State :=
  let s := accrue s0
  if s.store.state ≠ .mounted ∨ s.store.quenching then s
  else
    let push (id : Nat) (ps : List Packet) (s : State) : State :=
      { s with dispatch := modQueue s.dispatch id fun q => if q.active && q.items.isEmpty then { q with items := ps } else q }
    let busy (s : State) (id : Nat) : Bool :=
      (s.store.arrays.any fun o => o.queue == id) || (match s.store.op with | some o => o.queue == id | none => false)
    let s1 := (List.finRange 8).foldl (fun s c =>
      let x := s.store.cursors[c]
      match nextBillet s.store x with
      | some b =>
        if x.set && x.run && !x.ready && b.written && !busy s (0x10 + c.val) then push (0x10 + c.val) (readPackets s.store b) s
        else s
      | none => s) s
    let s2 := { s1 with store := { s1.store with nh := if s1.store.nh.isSome then s1.store.nh else nextHousekeeping s1 } }
    beginReads (match s2.store.nh with
      | some w =>
        if w.left = 0 ∨ busy s2 0x1F then s2
        else if w.kind = 2 then push 0x1F [{ Packet.reset with tag := tagErase, total := w.block }] s2
        else
          let v := s2.store.vol
          push 0x1F [{ Packet.reset with
            length := v.geometry.pageBytes, tag := tagRead, total := w.block, page := nhPage v w }] s2
      | none => s2)

/-- NAND_TRANSFER_END (R428, R431): the data has crossed the bus, and the queue accrues again; the array operation of a program
begins; a data-out brings its codewords, and one for an export hands its record on (R415). -/
def execNandTransferEnd (s : State) : Out :=
  match (if s.store.state = .mounted then s.store.op else none) with
  | some o =>
    let s1 := accrue s
    let s2 := { s1 with
      xq := { s1.xq with nandqW := 0, nandqR := 0 }
      dispatch := modQueue s1.dispatch o.queue fun q => { q with sending := false }
      store := { s1.store with op := none } }
    if o.kind = .read then
      let s3 := endRead o s2
      .next (beginReads (match finOf 2 (o.queue - 0x18) with
        | some k => if 0x18 ≤ o.queue then exportRead k s3 else s3
        | none => s3))
    else .next { s2 with store := { s2.store with arrays := s2.store.arrays ++ [{ o with startedAt := s.now }] } }
  | none => .next s

/-! ### Maintenance (R402) -/

/-- Parses `STORE_MAINT_SET` (R402, 8 bytes). -/
def parseMaint (p : List Byte) : Option MaintCfg :=
  let c : MaintCfg := ⟨getU 2 0 p, getU 1 2 p, getU 1 3 p, some (getU 4 4 p)⟩
  if p.length = 8 ∧ 1 ≤ c.patrolHours ∧ c.patrolHours ≤ 168 ∧ 24 ≤ c.scrubBits ∧ c.scrubBits ≤ 70 ∧ 24 ≤ c.retireBits
      ∧ c.retireBits ≤ 72 ∧ 1000 ≤ getU 4 4 p ∧ getU 4 4 p ≤ 1000000 then some c else none

def applyMaint (c : MaintCfg) (s : State) : State := { s with store := { s.store with maint := c } }

/-! ### Mounting, unmounting and formatting (R417 to R421) -/

/-- The domain of the NAND is on, as commanded (R136, R420). -/
def pd6Ready (s : State) : Bool := domainUsable s 6

/-- The refusals of `STORE_UNMOUNT` on the produced state (R417, R421). -/
def judgeUnmount (before after : State) : Option Status :=
  let plays := (indexed after.outs).any fun o => o.2.cfg.run && o.2.cfg.cursor
  match before.store.state with
  | .mounted => if plays || after.store.recs.any (·.recording) then some .badState else none
  | .quenched | .fault => none
  | _ => some .badState

/-- `STORE_UNMOUNT` applies (R417, R421): from MOUNTED when its checkpoint commits, else at once. -/
def applyUnmount (s : State) : State :=
  match s.store.state with
  | .mounted => appendCheckpoint (curStroke s) { s with store := { s.store with unmounting := true } }
  | .quenched | .fault => setStoreState .unmounted storeByCommand s
  | _ => s

/-- The commands of identification and of the interface set-up are on the bus (R379, R381). -/
def identifies (s : State) : State :=
  { s with store := { s.store with op := some { NandOp.reset with kind := .reset, startedAt := s.now, commands := setupCommands } } }

/-- STORE_FORMAT (R418): accepted in UNMOUNTED with PD6 on. -/
def execStoreFormat (ch : Fin 4) (s : State) : Out :=
  .next (serve ch 0x0801 .long noPayload (fun _ _ s =>
    if s.store.state ≠ .unmounted ∨ !pd6Ready s ∨ s.store.bootWriting then refuse .badState s
    else .wait ⟨.storeFormat, false, s.now⟩ (if (identify s.media).isNone then (.mediaFault, []) else dryOk s 4)
      (identifies (setStoreState .formatting storeByCommand s))) s)

/-- The slag table of a format: the factory marks of every CE, then the blocks whose erase failed (R400, R418, R419). -/
def formatSlag (m : Media) (g : Geometry) (fails : List (Nat × Nat)) : List SlagEntry :=
  let marks (ce : Nat) (o : Option Geometry) : List SlagEntry :=
    match o with
    | some x => (x.factoryBad.filter fun b => 2 ≤ b && b < g.blocks).map fun b => ⟨b, ce, 1⟩
    | none => []
  let factory := marks 0 m.ce0 ++ marks 1 m.ce1
  factory ++ (fails.filter fun e => e.1 < ceCountOf m && 4 ≤ e.2 && e.2 < g.blocks
    && !(factory.any fun x => x.ce == e.1 && x.block == e.2)).map fun e => ⟨e.2, e.1, 2⟩

/-- The volume that a format writes (R418). -/
def newVolume (s : State) (g : Geometry) (r : FormatRx) : Volume :=
  let slag := formatSlag s.media g r.eraseFails
  { Volume.reset with
    volumeId := r.volumeId, serial := s.otp.serial, keyCheck := keyCheck s.otp r.volumeId, sysSeq := 1, sysPage := 1, ceCount := ceCountOf s.media, geometry := g
    ringBlocks := (g.blocks - 4) * ceCountOf s.media - (slag.filter fun x => 4 ≤ x.block).length, slag := slag }

/-- A block carries a factory mark (R400, R418). -/
def factoryMarked (m : Media) (ce block : Nat) : Bool :=
  match if ce = 0 then m.ce0 else m.ce1 with
  | some g => g.factoryBad.contains block
  | none => false

/-- The media once a format has erased it (R418): every block from 2 upwards without a factory mark. -/
def formatErase (m : Media) : Media :=
  { m with pages := m.pages.filter fun x => x.block < 2 || factoryMarked m x.ce x.block }

/-- Where the first system page of a CE stands after a number of programs that failed (R419): on the next pages of block 2, then
of block 3. -/
def firstPlace (g : Geometry) (ce fails : Nat) : PagePlace :=
  ⟨ce, 2 + fails / max 1 g.pagesPerBlock, fails % max 1 g.pagesPerBlock⟩

/-- The programs of the first system page that failed on a CE. -/
def systemFailsOf (r : FormatRx) (ce : Nat) : Nat := if ce = 0 then r.systemFails.1 else r.systemFails.2

/-- Neither system block of a fitted CE takes the first system page (R419). -/
def systemRefused (m : Media) (g : Geometry) (r : FormatRx) : Bool :=
  (List.range (ceCountOf m)).any fun ce => decide (2 * g.pagesPerBlock ≤ systemFailsOf r ce)

/-- The media with the first system page of a volume on every CE (R388, R418, R419). -/
def firstSystem (otp : Otp) (v : Volume) (r : FormatRx) (m : Media) : Media :=
  let keys := keyBytes (storeKeys otp v.volumeId)
  (List.range v.ceCount).foldl (fun m ce =>
    programPage (pageCells keys v.geometry (firstPlace v.geometry ce (systemFailsOf r ce)) (systemPage v)) m) m

/-- The store leaves FORMATTING or MOUNTING with an answer on its channel. -/
def answerStore (ch : Fin 4) (st : Status) (payload : List Byte) (new : StoreState) (cause : Nat) (s : State) : State :=
  respond ch st payload (setStoreState new cause { s with store := { s.store with op := none } })

/-- The channel waits for a format. -/
def formatsOn (s : State) (ch : Fin 4) : Bool :=
  match opOf s ch with | some o => o.op == .storeFormat | none => false

/-- STORE_FORMAT_DONE (R378, R418, R419): the media fails identification; an abort landed before the first erase; the slag
table or the system pages fail; or the new volume is written. -/
def execStoreFormatDone (ch : Fin 4) (r : FormatRx) (s : State) : Out :=
  if !formatsOn s ch || s.store.state != .formatting then .next s
  else if abortLanded s ch && !r.erased then .next (answerStore ch .aborted [] .unmounted storeByCommand s)
  else match identify s.media with
    | none => .next (answerStore ch .mediaFault [] .unmounted storeByMedia s)
    | some g =>
      let v := newVolume s g r
      let s1 := noteMark ch { s with media := formatErase s.media }
      if 1536 < v.slag.length ∨ systemRefused s.media g r then .next (answerStore ch .mediaFault [] .unmounted storeByMedia s1)
      else
        .next (answerStore ch (if abortLanded s ch then .alreadyDone else .ok) (u32 v.ringBlocks) .unmounted storeByCommand
          { s1 with media := firstSystem s.otp v r s1.media })

/-- Parses `STORE_MOUNT` (R420, 3 bytes). -/
def parseMount (p : List Byte) : Option (Nat × Nat × Nat) :=
  if p.length = 3 ∧ 4 ≤ getU 1 0 p ∧ getU 1 0 p ≤ 7 ∧ getU 1 1 p ≤ 4 then some (getU 1 0 p, getU 1 1 p, getU 1 2 p) else none

/-- STORE_MOUNT (R420): accepted in UNMOUNTED or QUENCHED with PD6 on. -/
def execStoreMount (ch : Fin 4) (s : State) : Out :=
  .next (serve ch 0x0802 .long parseMount (fun a _ s =>
    if (s.store.state ≠ .unmounted ∧ s.store.state ≠ .quenched) ∨ !pd6Ready s ∨ s.store.bootWriting then refuse .badState s
    else .wait ⟨.storeMount a.1 a.2.1 a.2.2, false, s.now⟩
      (match mountVolume s.otp s.media [] with | .inl st => (st, []) | .inr _ => dryOk s 12)
      (identifies (setStoreState .mounting storeByCommand s))) s)

/-- The channel waits for a mount. -/
def mountsOn (s : State) (ch : Fin 4) : Bool :=
  match opOf s ch with | some o => (match o.op with | .storeMount _ _ _ => true | _ => false) | none => false

/-- The recs of an index (R397, R420): every rec is stopped. -/
def mountRecs (l : List RecEntry) : List Rec :=
  l.map fun e =>
    { Rec.reset with
      recNo := e.recNo, oldest := e.oldest, nextSeq := e.next, quota := e.quota, sid := e.sid, ecc := e.ecc
      bearer := e.bearer, scids := e.scids }

/-- The store with a volume mounted (R398, R420): the index of the last committed checkpoint, every cursor unset, and writing to
resume in the next position. -/
def mountedStore (v : Volume) (st : Store) (now : Nat) : Store :=
  { st with
    vol := v, recs := mountRecs (match v.committed with | some c => c.recs | none => [])
    cursors := Vector.replicate 8 Cursor.reset, exports := Vector.replicate 2 Export.reset, stageNext := 1
    reloc := (match v.committed with | some c => c.reloc | none => [])
    relocLive := (match v.committed with | some c => c.reloc.map (·.1) | none => []), relocWait := [], checkQueue := [], readTable := []
    patrolPos := 0, patrolPass := 0, patrolDue := now, entered := [], tries := 0, ckptStroke := none, overBudget := false, op := none }

/-- What the mount of a volume leaves (R381, R420): its keys, the features written, and the ring as the cells hold it. -/
def mountStore (v : Volume) (op : LongOp) (wrong : List MediaError) (s : State) : Store :=
  let keys := keyBytes (storeKeys s.otp v.volumeId)
  let features := match op with
    | .storeMount mode odt drive => featureWords (nvMode s.media mode) odt drive
    | _ => []
  { mountedStore (mountRing keys s.media wrong v) s.store s.now with keys := keys, features := features }

/-- STORE_MOUNT_DONE (R390, R420, R425): the mount commits by entering MOUNTED, or fails back to UNMOUNTED. -/
def execStoreMountDone (ch : Fin 4) (wrong : List MediaError) (s : State) : Out :=
  if !mountsOn s ch || s.store.state != .mounting then .next s
  else if abortLanded s ch then .next (answerStore ch .aborted [] .unmounted storeByMount s)
  else match mountVolume s.otp s.media wrong with
    | .inl st => .next (answerStore ch st [] .unmounted storeByMount s)
    | .inr v =>
      let st := mountStore v (match opOf s ch with | some o => o.op | none => .storeFormat) wrong s
      let s1 := setStoreState .mounted storeByCommand { s with store := st }
      .next (respond ch .ok (u32 (ringBlocks st.vol) ++ u64 (lastCommit st.vol)) (noteMark ch (openNext s1)))

/-- PWRFAIL_N_FALL (R380, R417, R422): held low for 1 µs it starts Quench in MOUNTED and ends a mount in MOUNTING; it is
ignored in every other state. -/
def execPwrfailNFall (lowNs : Nat) (s : State) : Out :=
  if lowNs < 1000 then .next s
  else match s.store.state with
    | .mounted => if s.store.quenching then .next s else .next (startQuench s)
    | .mounting =>
      (match (List.finRange 4).find? (mountsOn s) with
      | some ch => .next (answerStore ch .mediaFault [] .unmounted storeByPwrfail s)
      | none => .next s)
    | _ => .next s

/-! ### The boot area (R416) -/

/-- Parses `STORE_BOOT_WRITE` (4 bytes): an image is a header and a body of R123. -/
def parseBootWrite (p : List Byte) : Option Nat :=
  let n := getU 4 0 p
  if p.length = 4 ∧ 272 ≤ n ∧ n ≤ 786688 ∧ n % 16 = 0 then some n else none

/-- STORE_BOOT_WRITE (R416, R563): maps the window in the host-to-device direction. -/
def execStoreBootWrite (ch : Fin 4) (s : State) : Out :=
  .next (serve ch 0x080C .long parseBootWrite (fun n _ s =>
    if s.bulk.mapped.isSome ∨ s.store.bootWriting then refuse .busy s
    else if !pd6Ready s ∨ s.store.state = .formatting ∨ s.store.state = .mounting then refuse .badState s
    else
      let s1 := mapStream .bootImage true s
      .wait ⟨.bootWrite n [], false, s.now⟩ (if s.media.ce0.isNone then .mediaFault else .ok, [])
        { s1 with store := { s1.store with bootWriting := true, wpHigh := true } }) s)

/-- The length and the image drained so far of the boot write on a channel. -/
def bootWriteOf (s : State) (ch : Fin 4) : Option (Nat × List Byte) :=
  match opOf s ch with | some o => (match o.op with | .bootWrite n img => some (n, img) | _ => none) | none => none

/-- `STORE_BOOT_WRITE` ends: WP_N as the store's state drives it, and the window no longer mapped. -/
def endBootWrite (ch : Fin 4) (st : Status) (s : State) : State :=
  let s1 := { s with
    bulk := if s.bulk.mapped = some .bootImage then BulkWin.reset else s.bulk
    store := { s.store with bootWriting := false, wpHigh := wpLevel s.store.state false } }
  respond ch st [] s1

/-- A copy of the image in its block of the boot area (R119, R416): erased, then written in clear from page 0 upwards; the
rest of the last page is zero (DESIGN CHOICE, log entry 98). -/
def writeBoot (block : Nat) (img : List Byte) (m : Media) : Media :=
  match m.ce0 with
  | none => m
  | some g =>
    (List.range (ceilDiv img.length (max 1 g.pageBytes))).foldl (fun m k =>
      programPage (pageCells [] g ⟨0, block, k⟩ (fillTo g.pageBytes ((img.drop (k * g.pageBytes)).take g.pageBytes))) m)
      (eraseBlock 0 block m)

/-- STORE_BOOT_WRITE_DONE (R124, R416): the image fails authentication; copy 1, then copy 0, is erased, written in clear
and read back. The commit point is the erase of block 0: an abort that landed before it leaves copy 0 as it was. -/
def execStoreBootWriteDone (ch : Fin 4) (r : BootWriteRx) (s : State) : Out :=
  match bootWriteOf s ch with
  | none => .next s
  | some (n, img) =>
    let written (l : List (Nat × List Byte)) : State := { s with media := l.foldl (fun m e => writeBoot e.1 e.2 m) s.media }
    let early := match r with | .stopped _ => true | .copy1Failed => true | _ => false
    if abortLanded s ch && early then
      match r with
      | .stopped true => .next (endBootWrite ch .aborted (written [(1, img)]))
      | .copy1Failed => .next (endBootWrite ch .aborted (written [(1, [])]))
      | _ => .next (endBootWrite ch .aborted s)
    else if img.length < n then .next s
    else if !imageOk s.otp s.rom img then .next (endBootWrite ch .authFail s)
    else if s.media.ce0.isNone then .next (endBootWrite ch .mediaFault s)
    else match r with
      | .stopped _ => .next s
      | .copy1Failed => .next (endBootWrite ch .mediaFault (written [(1, [])]))
      | .copy0Failed => .next (endBootWrite ch .mediaFault (noteMark ch (written [(1, img), (0, [])])))
      | .written => .next (endBootWrite ch (if abortLanded s ch then .alreadyDone else .ok)
          (noteMark ch (written [(1, img), (0, img)])))

/-! ### Strokes and rows (R395, R396, R409, R411, R414, R424) -/

/-- What the store does at a stroke boundary: cursors advance; tail expiry, gaps and rates of the recs; seeks and the moves
that expiry brings (R411, R413); the checkpoint of every 500th stroke, and the reads that wait. -/
def strokeStore (s : State) : State :=
  if s.store.state ≠ .mounted then s
  else
    let s0 := { s with store := { s.store with cursors := s.store.cursors.map (strokeCursor s.store s.now) } }
    let s1 := tailExpiryRule s0
    let s2 := if s1.store.quenching then s1 else s1.store.recs.foldl (fun s r => gapRule r s) s1
    let s3 := moveCursors (settleSeeks (refreshRates s2))
    let s4 := { s3 with store := { s3.store with
      relocLive := match s3.store.vol.committed with | some c => c.reloc.map (·.1) | none => []
      entered := s3.store.entered.filter fun e => s3.latch.stroke < e.1 + 10000 } }
    let s5 := checkpointRule s4
    pullReads ((List.finRange 2).foldl (fun s k => pullExport k s) s5)

/-- The store's latched record as it stands. -/
def relatchStore (s : State) : State := { s with latch := { s.latch with store := s.store, dispatch := s.dispatch } }

/-- CHECKPOINT. -/
def execCheckpoint (s : State) : Out := .next (if atBoundary s then relatchStore (checkpointRule s) else s)

/-- TAIL_EXPIRY. -/
def execTailExpiry (s : State) : Out :=
  .next (if atBoundary s && !s.store.expiring.isEmpty then relatchStore (moveCursors (tailExpiryRule s)) else s)

/-! ### Status (R389, R424, R564) -/

/-- `write_kbps`: the stream rate over the last 10 s (R424). -/
def writeKbps (st : Store) : Nat := (st.entered.map (·.2)).sum * 8 / 10000

/-- `STORE_STATUS_GET`, 76 bytes (R564). -/
def storeStatus (s : State) : List Byte :=
  let st := s.latch.store
  let on := st.state == .mounted || st.state == .quenched || st.state == .fault
  let v := st.vol
  u64 s.latch.stroke ++ u8 (storeCode st.state) ++ u8 (if on then v.ceCount else 0) ++ u8 (if on then st.reloc.length else 0)
    ++ zeros 1 ++ u16 (if on then v.slag.length else 0) ++ zeros 2 ++ u32 (if on then ringBlocks v else 0)
    ++ u64 (if on then headSeq v else 0) ++ u64 (if on then (match tailOf st with | some b => b.seq | none => headSeq v) else 0)
    ++ u64 (if on then lastCommit v else 0) ++ u32 (writeKbps st) ++ u32 st.correctedBits.toNat ++ u32 st.uncorrectable.toNat
    ++ u32 st.programFails.toNat ++ u32 st.eraseFails.toNat ++ u32 st.scrubDeferred.toNat ++ u32 st.late.toNat
    ++ u32 st.quenchCount.toNat

/-- `STORE_REC_GET`, 52 bytes (R564). -/
def recStatus (n : Nat) (s : State) : List Byte :=
  let st := s.latch.store
  let r := recOf st n
  let l := reachOf st n
  u64 s.latch.stroke ++ uBool r.recording ++ u8 r.slot ++ u8 r.bearer.toNat ++ u8 r.scids.toNat ++ u32 r.sid.toNat
    ++ u8 r.aac ++ zeros 3 ++ u32 r.quota ++ u64 (useOf st n) ++ opt64 (l.head?.map (·.timestamp))
    ++ opt64 (l.getLast?.map (·.timestamp)) ++ u32 r.gaps.toNat

/-- `CURSOR_STATUS_GET`, 28 bytes (R564). -/
def cursorStatus (c : Fin 8) (s : State) : List Byte :=
  let x := s.latch.store.cursors[c]
  u64 s.latch.stroke ++ u8 x.recNo ++ uBool x.run ++ uBool x.clamped ++ zeros 1 ++ u64 x.position ++ u64 x.arrival

/-- `STORE_SLAG_GET`, 12 to 492 bytes (R389, R556): up to 120 entries from a start index. -/
def slagStatus (start : Nat) (s : State) : List Byte :=
  let l := s.latch.store.vol.slag
  let part := (l.drop start).take 120
  u64 s.latch.stroke ++ u16 part.length ++ u16 l.length ++ part.flatMap fun e => u16 e.block ++ u8 e.ce ++ u8 e.cause

/-- A rec number as the payload. -/
def recPayload (p : List Byte) : Option Nat := if p.length = 1 then some (getU 1 0 p) else none
/-- A start index as the payload. -/
def startPayload (p : List Byte) : Option Nat := if p.length = 2 then some (getU 2 0 p) else none

/-- STORE_STATUS_GET. -/
def execStoreStatusGet (ch : Fin 4) (s : State) : Out :=
  .next (serve ch 0x0804 .read noPayload (fun _ _ s => .answer .ok (storeStatus s) s) s)
/-- STORE_REC_GET. -/
def execStoreRecGet (ch : Fin 4) (s : State) : Out :=
  .next (serve ch 0x0806 .read recPayload (fun n _ s => .answer .ok (recStatus n s) s) s)
/-- CURSOR_STATUS_GET. -/
def execCursorStatusGet (ch : Fin 4) (s : State) : Out :=
  .next (serve ch 0x0808 .read (indexPayload 8) (fun c _ s => .answer .ok (cursorStatus c s) s) s)
/-- STORE_SLAG_GET. -/
def execStoreSlagGet (ch : Fin 4) (s : State) : Out :=
  .next (serve ch 0x080B .read startPayload (fun n _ s => .answer .ok (slagStatus n s) s) s)
/-- POLICE_STATUS_GET. -/
def execPoliceStatusGet (ch : Fin 4) (s : State) : Out :=
  .next (serve ch 0x0904 .read recPayload (fun n _ s => .answer .ok (policeStatus n s) s) s)

end Sys2Proof.Machine
end

