-- ==== Sys2Proof/Machine/Bulk.lean ====
section
/-! DEFINITION. The bulk stream window (02_host_port_mailbox.md R106, R107; 12_dispatch.md R427, R434, R436;
17_command_reference.md R563): its halves, the records that Dispatch writes into them, the return of a half, and the end of
a mapping. -/

namespace Sys2Proof.Machine

/-- Half 1 for true. -/
def halfNo (h : Bool) : Nat := if h then 1 else 0
/-- The address of a half. -/
def halfBase (h : Bool) : Nat := if h then 0xC000 else 0x8000
/-- Bytes of a half. -/
def halfBytes : Nat := 16384
/-- The host owns a half (R106). -/
def hostOwns (s : State) (h : Bool) : Bool := s.bulk.hostOwned.getLsbD (halfNo h)
/-- `bulk_host` with one half given to the host, or taken back. -/
def giveHalf (b : BitVec 2) (h : Bool) : BitVec 2 := b ||| BitVec.ofNat 2 (2 ^ halfNo h)
def takeHalf (b : BitVec 2) (h : Bool) : BitVec 2 := b &&& ~~~(BitVec.ofNat 2 (2 ^ halfNo h))

/-- The mapping ends (R563): the window is free, and the streams that it carried are over. -/
def unmapWindow (s : State) : State :=
  let s1 := { s with
    bulk := BulkWin.reset
    side := { s.side with staging := [], dropped := 0 }
    db := { s.db with stream := none }
    store := { s.store with exports := s.store.exports.map fun e => { e with running := false } } }
  refreshQueues s1

/-- The device fills the half whose turn it is (R106, R434). -/
def deviceFills (s : State) : Bool :=
  s.bulk.mapped.isSome && !s.bulk.hostToDev && !hostOwns s s.bulk.fillHalf && s.bulk.finalHalf.isNone

/-- The host queue that R434 selects. -/
def hostPick (s : State) : Option Nat :=
  pickQueue s.dispatch.lastHost (queueIdsWith s.dispatch fun id q => isHostQueue id && eligible id q)

/-- The length of the record at the head of a queue. -/
def headBytes (s : State) (id : Nat) : Nat := match (queueOf s.dispatch id).items.head? with | some p => p.length | none => 0

/-- The first record of a snapshot at or after an index that is not free (R309). -/
def nextStreamed (s : State) (k : Fin 2) (from_ : Nat) : Option DbRec :=
  let l := ((s.db.recs.map fun r => snapRec s.db k r.index).filter fun r => from_ ≤ r.index && r.body != .free)
  (sortBy (fun a b : DbRec => a.index ≤ b.index) l).head?

/-- The terminator of a `DB_STREAM` (R310); the bytes that the rule does not state are free (log entry 61). -/
def dbTerminator (s : State) (count : Nat) (st : Status) : List Byte :=
  let f := freeBytes s 249
  f.take 2 ++ u8 0xFF ++ (f.drop 2).take 29 ++ u32 count ++ u16 (statusCode st) ++ f.drop 31

/-- The next 256 bytes of a `DB_STREAM`, and where it then stands (R309, R310): a stale snapshot cuts it short. -/
def nextDbBytes (s : State) (t : DbStreamPos) : List Byte × DbStreamPos :=
  let stale := (dbTerminator s t.sent .staleSnapshot, { t with ended := true })
  match finOf 2 t.snapshot with
  | none => stale
  | some k =>
    match snapStatus s.db k with
    | some _ => stale
    | none =>
      match nextStreamed s k t.nextIndex with
      | some r => (dbBytes r, { t with nextIndex := r.index + 1, sent := t.sent + 1 })
      | none => (dbTerminator s t.sent .ok, { t with ended := true })

/-- The bytes of the record at the head of a host queue, and the state once they are taken from their source. Bytes that
the model does not know (the decrypted payload of a Billet) are free values (log entry 12). -/
def takeRecord (s : State) (id : Nat) : List Byte × State :=
  if id = 0x70 then
    match s.side.staging with
    | r :: rest => (sideBytes r, { s with side := { s.side with staging := rest } })
    | [] => ([], s)
  else if id = 0x71 then
    match s.db.stream with
    | some t =>
      let (b, t1) := nextDbBytes s t
      (b, { s with db := { s.db with stream := some t1 }, freeNext := if t1.ended then s.freeNext + 249 else s.freeNext })
    | none => ([], s)
  else
    match (queueOf s.dispatch id).items.head? with
    | some p =>
      let n := p.length - p.bytes.length
      (p.bytes ++ freeBytes s n, { s with freeNext := s.freeNext + n })
    | none => ([], s)

/-- The stream ends in the half being filled: the terminator of a database stream, or the end record of the last export
cursor still running (R310, R415, R563). -/
def noteFinal (id : Nat) (s : State) : State :=
  let final : State := { s with bulk := { s.bulk with finalHalf := some s.bulk.fillHalf } }
  if id = 0x71 then (match s.db.stream with | some t => if t.ended then final else s | none => s)
  else if 0x72 ≤ id then
    match finOf 2 (id - 0x72) with
    | some k =>
      if s.store.exports[k].ended && (queueOf s.dispatch id).items.isEmpty then
        let s1 := { s with store := { s.store with exports := vmod s.store.exports k fun e => { e with running := false } } }
        if s1.store.exports.toList.any (·.running) then s1 else { s1 with bulk := { s1.bulk with finalHalf := some s1.bulk.fillHalf } }
      else s
    | none => s
  else s

/-- The next packet of a pulled host queue (R415, R426). -/
def pullHost (id : Nat) (s : State) : State :=
  if id = 0x71 then feedDb s
  else match finOf 2 (id - 0x72) with
    | some k => if 0x72 ≤ id then pullExport k s else s
    | none => s

/-- HOST_RECORD_GRANT (R428, R431, R434): a half of the device's with room takes the head record of the queue that R434
selects. -/
def execHostRecordGrant (s : State) : Out :=
  let s1 := accrue s
  if !deviceFills s1 then .next s1
  else match hostPick s1 with
    | none => .next s1
    | some id =>
      if halfBytes < s1.bulk.fillUsed + headBytes s1 id then .next s1
      else
        let (bytes, s2) := takeRecord s1 id
        let s3 := { s2 with
          mem := memWrite s2.mem (halfBase s2.bulk.fillHalf + s2.bulk.fillUsed) bytes
          bulk := { s2.bulk with fillUsed := s2.bulk.fillUsed + bytes.length }
          dispatch := { modQueue s2.dispatch id (grantHead false id) with
            lastHost := upsert (fun e => e.1 == queuePriority id) (queuePriority id, id) s2.dispatch.lastHost } }
        .next (refreshQueues (noteFinal id (pullHost id (noteHeadGrant id s1 s3))))

/-- The half that the device fills is full, cannot hold the next record, or holds the end of the stream (R292, R436,
R563). -/
def halfClosed (s : State) : Bool :=
  s.bulk.finalHalf == some s.bulk.fillHalf
    || (deviceFills s && 0 < s.bulk.fillUsed &&
      (s.bulk.fillUsed == halfBytes
        || (match hostPick s with | some id => halfBytes < s.bulk.fillUsed + headBytes s id | none => false)))

/-- A half goes to the host with its rest zero-filled, and the device turns to the other (R106). -/
def handOver (s : State) : State :=
  let h := s.bulk.fillHalf
  { s with
    mem := memWrite s.mem (halfBase h + s.bulk.fillUsed) (zeros (halfBytes - s.bulk.fillUsed))
    bulk := { s.bulk with hostOwned := giveHalf s.bulk.hostOwned h, fillHalf := !h, fillUsed := 0 } }

/-- BULK_HALF_READY (R106): device to host, a half that is full; host to device, a half that is free to fill. While the
image of a boot write flows, `fillUsed` is 1 while the half after the next one has come back too and waits its turn. -/
def execBulkHalfReady (s : State) : Out :=
  let s1 := accrue s
  if s1.bulk.mapped.isNone then .next s1
  else if s1.bulk.hostToDev then
    let h := s1.bulk.fillHalf
    if !hostOwns s1 h then .next { s1 with bulk := { s1.bulk with hostOwned := giveHalf s1.bulk.hostOwned h } }
    else if !hostOwns s1 (!h) && s1.bulk.fillUsed == 0 then
      .next { s1 with bulk := { s1.bulk with hostOwned := giveHalf s1.bulk.hostOwned (!h) } }
    else .next s1
  else .next (if halfClosed s1 && !hostOwns s1 s1.bulk.fillHalf then handOver s1 else s1)

/-! ### The return of a half (R106, R107, R563) -/

/-- The channel that waits for a boot write. -/
def bootWriter (s : State) : Option (Fin 4) := (List.finRange 4).find? fun ch => (bootWriteOf s ch).isSome

/-- The device drains the half whose turn it is into the boot image; the half that reaches `image_length` ends the
stream (R427, R563). -/
def drainHalf (s : State) : State :=
  match bootWriter s with
  | none => s
  | some ch =>
    match s.ops[ch], bootWriteOf s ch with
    | some o, some (n, img) =>
      let img1 := (img ++ memBytes s.mem (halfBase s.bulk.fillHalf) halfBytes).take n
      let s1 := { s with ops := s.ops.set ch (some { o with op := .bootWrite n img1 }) }
      if n ≤ img1.length then { s1 with bulk := BulkWin.reset }
      else { s1 with bulk := { s1.bulk with fillHalf := !s1.bulk.fillHalf } }
    | _, _ => s

/-- A half of the image comes back: it is drained in its turn (R106). -/
def returnImageHalf (h : Bool) (s : State) : State :=
  if h = s.bulk.fillHalf then
    let waiting := s.bulk.fillUsed == 1
    let s1 := drainHalf { s with bulk := { s.bulk with fillUsed := 0 } }
    if waiting && s1.bulk.mapped.isSome then drainHalf s1 else s1
  else { s with bulk := { s.bulk with fillUsed := 1 } }

/-- The host returned the half that ends the stream (R563). -/
def endsMapping (h : Bool) (s : State) : Bool :=
  s.bulk.finalHalf == some h && (s.bulk.mapped != some .exportStream || !(s.store.exports.toList.any (·.running)))

/-- `bulk_done` for one half (R106, R107). -/
def doBulkDone (h : Bool) (s : State) : State :=
  if !hostOwns s h then setWriteRejected s
  else
    let s1 := { s with bulk := { s.bulk with hostOwned := takeHalf s.bulk.hostOwned h } }
    if s1.bulk.hostToDev then returnImageHalf h s1
    else if endsMapping h s1 then unmapWindow s1
    else s1

/-! ### `BULK_UNMAP` (R563) -/

/-- The refusal of `BULK_UNMAP`. -/
def judgeUnmap (before : State) : Option Status := if before.bulk.mapped.isNone then some .badState else none

/-- `BULK_UNMAP` applies: any stream ends, and a half that the host owns is taken back. -/
def applyUnmap (s : State) : State := unmapWindow s

end Sys2Proof.Machine
end

