-- ==== Sys2Proof/Machine/Link.lean ====
section
/-! DEFINITION. The link layer in RUN: frames and windows, control frames with their acknowledgements, bit-swaps, and
the joining of received messages (14_split_operation.md R492 to R501). -/

namespace Sys2Proof.Machine

/-! ### Sending (R492 to R497) -/

/-- A window's place in the order control, stream, bulk (R492). -/
def windowIndex : Window → Fin 3
  | .control => 0 | .stream => 1 | .bulk => 2

/-- The head of a queue may be sent: at most 16 control frames are unacknowledged at a time (R497). -/
def headOpen (s : State) (q : DQueue) : Bool :=
  match q.items with
  | [] => false
  | p :: _ => p.ftype != 1 || p.retx || s.link.unacked.length < 16

/-- The queues that a window is offered to (R434, R495). -/
def windowCandidates (s : State) (w : Window) : List Nat :=
  queueIdsWith s.dispatch fun id q => windowQueue w id && eligible id q && headOpen s q

/-- The length of a queue's head frame. -/
def headLength (s : State) (id : Nat) : Nat :=
  match (queueOf s.dispatch id).items with
  | [] => 0
  | p :: _ => p.length

/-- The round-robin place of a priority after a queue (R434). -/
def noteGrant (id : Nat) (l : List (Nat × Nat)) : List (Nat × Nat) :=
  upsert (fun e => e.1 == queuePriority id) (queuePriority id, id) l

/-- The number of a frame on its stream (R496): control frames count together. -/
def frameSeq (s : State) (p : Packet) : Half :=
  if p.retx then p.seq
  else if p.ftype = 1 then s.link.ctlSeqTx + 1
  else match s.link.streamSeq.find? fun e => e.1 == p.tag with
    | some e => e.2 + 1
    | none => 1

/-- The bytes of a frame as it goes out (R496); payload that the model does not follow is free (log entry 12). -/
def frameBytes (s : State) (p : Packet) : List Byte :=
  let n := p.length - 24
  let flags := bitAt (p.offset == 0) 0 + bitAt (p.offset + n == p.total) 1 + bitAt p.retx 2
  let b := u8 0xA7 ++ u8 p.ftype ++ u16 p.length ++ u16 p.tag ++ u16 (frameSeq s p).toNat ++ u32 p.offset ++ u32 p.total
    ++ u8 flags ++ zeros 1 ++ u16 (if p.ftype = 1 then s.link.ctlSeqRx.toNat else 0) ++ p.bytes
    ++ freeBytes s (n - p.bytes.length)
  b ++ u32 (crc32 b).toNat

/-- A frame has been sent: its number, and for a new control frame the wait for its acknowledgement (R496, R497). -/
def noteSent (p : Packet) (s : State) : State :=
  let q := frameSeq s p
  let l := { s.link with lastTx := frameBytes s p }
  { s with freeNext := s.freeNext + (p.length - 24 - p.bytes.length), link :=
      if p.retx then l
      else if p.ftype = 1 then
        { l with ctlSeqTx := q, unacked := l.unacked ++ [⟨q, superframe s, { p with seq := q }⟩] }
      else { l with streamSeq := upsert (fun e => e.1 == p.tag) (p.tag, q) l.streamSeq } }

/-- A queue sends its head frame into a window (R431, R432, R495). -/
def sendHead (w : Window) (id : Nat) (s : State) : State :=
  match (queueOf s.dispatch id).items with
  | [] => s
  | p :: _ =>
    let s1 := noteSent p s
    noteHeadGrant id s1 { s1 with
      phy := { s1.phy with txFill := vmod s1.phy.txFill (windowIndex w) (· ++ s1.link.lastTx) }
      dispatch := modQueue s1.dispatch id (grantHead false id)
      link := { s1.link with winLeft := vmod s1.link.winLeft (windowIndex w) (· - p.length) } }

/-! ### The boot image of a remote (R122, R498) -/

/-- The local feeds the boot image to LC as LC has room (R122, R444). -/
def feedImage (s : State) : State :=
  match s.link.imageAt with
  | some n =>
    let max_ := frameMax s 0x20
    let chunk := max_ - 24
    let part := (s.boot.image.drop n).take chunk
    let p := { Packet.reset with
      length := 24 + part.length, tag := 0x0301, bytes := part, ftype := 1, offset := n, total := s.boot.image.length }
    if s.link.state = .run ∧ roomFor s 0x20 [p] then
      let s1 := enqueueAll s 0x20 [p]
      { s1 with link := { s1.link with
        imageAt := if n + part.length < s.boot.image.length ∧ 0 < part.length then some (n + part.length) else none } }
    else s
  | none => s

/-- Frames that wait for room in a queue enter it in order as far as they fit (R444); those that do not are left. -/
def feedFrames (id : Nat) : List Packet → State → State × List Packet
  | [], s => (s, [])
  | p :: rest, s => if roomFor s id [p] then feedFrames id rest (enqueueAll s id [p]) else (s, p :: rest)

/-- What waits for LC and for LB enters them as they have room. -/
def feedWaiting (s : State) : State :=
  let (s1, lc) := feedFrames 0x20 s.link.lcOut s
  let (s2, lb) := feedFrames 0x61 s1.link.lbOut s1
  { s2 with link := { s2.link with lcOut := lc, lbOut := lb } }

/-- LINK_FRAME_GRANT (R495): the queue that R434 selects sends its head frame if it fits. If not, it is deferred and
keeps its turn; the rest of the window is offered in the same order to the queues whose heads fit, and is idle when
none does. -/
def execLinkFrameGrant (w : Window) (s : State) : Out :=
  if s.link.state ≠ .run then .next s
  else
    let s1 := accrue (feedWaiting (if w = .control then feedImage s else s))
    let left := s1.link.winLeft[windowIndex w]
    let ids := windowCandidates s1 w
    let fitting := ids.filter fun i => headLength s1 i ≤ left
    match s1.link.fillLast with
    | some fl =>
      (match pickQueue fl fitting with
      | some id =>
        let s2 := sendHead w id s1
        .next { s2 with link := { s2.link with fillLast := some (noteGrant id fl) } }
      | none => .next { s1 with link := { s1.link with winLeft := s1.link.winLeft.set (windowIndex w) 0 } })
    | none =>
      match pickQueue s1.dispatch.lastLink ids with
      | none => .next s1
      | some id =>
        if headLength s1 id ≤ left then
          let s2 := sendHead w id s1
          .next { s2 with dispatch := { s2.dispatch with lastLink := noteGrant id s2.dispatch.lastLink } }
        else
          let fl := noteGrant id s1.dispatch.lastLink
          match pickQueue fl fitting with
          | some other =>
            let s2 := sendHead w other s1
            .next { s2 with link := { s2.link with fillLast := some (noteGrant other fl) } }
          | none => .next { s1 with link := { s1.link with winLeft := s1.link.winLeft.set (windowIndex w) 0 } }

/-- A control frame is due to be sent again (R497). -/
def resendDue (s : State) (f : CtrlFrame) : Bool := f.sentSf + 4 ≤ superframe s

/-- CTRL_RETRANSMIT (R497): the oldest control frame that has not been acknowledged within 4 superframes goes out again
ahead of LC. -/
def execCtrlRetransmit (s : State) : Out :=
  match s.link.unacked.find? (resendDue s) with
  | some f =>
    if s.link.state ≠ .run then .next s
    else
      let p := { f.packet with retx := true }
      .next { s with
        dispatch := modQueue s.dispatch 0x20 fun q => { q with items := p :: q.items }
        link := { s.link with
          unacked := s.link.unacked.map fun g =>
            if g.seq = f.seq then { g with sentSf := superframe s } else g
          retransmissions := bump s.link.retransmissions 1 } }
  | none => .next s

/-! ### Bit-swap (R456, R457, R501) -/

/-- A table at 4 bits a tone, tone 102 in the low half of the first byte. -/
def tableBytes (t : List Nat) : List Byte :=
  (List.range 51).flatMap fun k => u8 (t.getD (2 * k) 0 % 16 + 16 * (t.getD (2 * k + 1) 0 % 16))

/-- The table that 51 bytes spell. -/
def tableOf (bs : List Byte) : List Nat :=
  bs.flatMap fun b => [b.toNat % 16, b.toNat / 16]

/-- A bit-swap request: kind 0, S, the table (R501; the message's layout is the model's, log entry 40). -/
def swapRequest (sw : Swap) : List Byte := u8 0 ++ zeros 3 ++ u32 sw.atSf ++ tableBytes sw.table

/-- BITSWAP_PROPOSE (R456, R493, R501): after 100 superframes with a low margin the receiver proposes a table for the
superframe 16 later; a layout that would not fit is never proposed. -/
def execBitswapPropose (s : State) : Out :=
  if s.link.state ≠ .run ∨ !s.phy.lowRuns.any (100 ≤ ·) ∨ s.link.swapRx.isSome then .next s
  else
    let t := proposal s.phy
    let sw : Swap := ⟨t, superframe s + 16, false⟩
    let ps := framesOf (frameMax s 0x20) 7 0x0500 59 (swapRequest sw)
    if !layoutFits s s.phy.bTx t || !roomFor s 0x20 ps then .next s
    else
      let s1 := enqueueAll s 0x20 ps
      .next { s1 with link := { s1.link with swapRx := some sw }, phy := { s1.phy with lowRuns := List.replicate 102 0 } }

/-- The table of a direction changes, with the windows of the new payload (R457). -/
def takeTable (transmit : Bool) (t : List Nat) (s : State) : State :=
  let p := if transmit then { s.phy with bTx := t } else { s.phy with bRx := t }
  noteLink 3 (fitWindows { s with phy := p, link := { s.link with bitswaps := bump s.link.bitswaps 1 } })

/-- BITSWAP_APPLY (R501): at superframe S the transmitter takes the table, and the receiver takes it if it has received
an acknowledgement, else keeps the old one. -/
def execBitswapApply (transmitter : Bool) (s : State) : Out :=
  if s.link.state ≠ .run then .next s
  else if transmitter then
    match s.link.swapTx with
    | some sw =>
      if sw.atSf ≤ superframe s then .next (takeTable true sw.table { s with link := { s.link with swapTx := none } })
      else .next s
    | none => .next s
  else
    match s.link.swapRx with
    | some sw =>
      if superframe s < sw.atSf then .next s
      else
        let s1 := { s with link := { s.link with swapRx := none } }
        .next (if sw.acked then takeTable false sw.table s1 else s1)
    | none => .next s

/-- A bit-swap message arrives (R501): a request while one is pending is refused. -/
def takeSwapMessage (m : List Byte) (s : State) : State :=
  let at_ := getU 4 4 m
  if getU 1 0 m = 0 then
    if m.length = 59 ∧ s.link.swapTx.isNone then
      { s with link := { s.link with swapTx := some ⟨maskTable s.phy.cfg (tableOf (m.drop 8)), at_, true⟩ } }
    else s
  else match s.link.swapRx with
    | some sw => if sw.atSf = at_ then { s with link := { s.link with swapRx := some { sw with acked := true } } } else s
    | none => s

/-! ### Receiving (R496, R497) -/

/-- The ends of the windows in the payload that this device receives (R492). -/
def rxWindows (s : State) : List Nat :=
  if isLocal s then
    [s.link.downCtl, s.link.downCtl + s.link.downStream, s.link.downCtl + s.link.downStream + s.link.downBulk]
  else [s.link.upCtl, s.link.upCtl + s.link.upBulk]

/-- The received payload, zero where a codeword failed. -/
def rxPayload (p : Phy) : List Byte := p.rxWords.flatMap fun w => w.getD (zeros 239)

/-- A run of the received payload touches a codeword that failed (R459, R496). -/
def rxFailed (p : Phy) (at_ n : Nat) : Bool :=
  (List.range p.rxWords.length).any fun c =>
    (p.rxWords.getD c none).isNone && 239 * c < at_ + n && at_ < 239 * (c + 1)

/-- The next frame of the received payload, with the position behind it (R495, R496): a zero byte marks the rest of a window
idle; a frame whose sync byte or length cannot be made out takes the rest of its window with it. -/
def nextFrame (s : State) : Nat → Nat → Option (LinkFrameRx × Nat)
  | 0, _ => none
  | fuel + 1, at_ =>
    match (rxWindows s).find? (at_ < ·) with
    | none => none
    | some e =>
      let rest := (rxPayload s.phy).drop at_
      if at_ < (rxPayload s.phy).length then
        if getU 1 0 rest = 0 ∧ !rxFailed s.phy at_ 1 then nextFrame s fuel e
        else
          let n := getU 2 2 rest
          if getU 1 0 rest = 0xA7 ∧ 24 ≤ n ∧ n ≤ 2048 ∧ at_ + n ≤ e then some (⟨rest.take n, rxFailed s.phy at_ n⟩, at_ + n)
          else some (⟨rest.take (e - at_), true⟩, e)
      else none

/-- A received frame that stands: its sync byte, its length and its CRC (R496). -/
def frameStands (f : LinkFrameRx) : Bool :=
  let n := f.bytes.length
  !f.codewordFailed && 24 ≤ n && n ≤ 2048 && getU 1 0 f.bytes == 0xA7 && getU 2 2 f.bytes == n
    && (crc32 (f.bytes.take (n - 4))).toNat == getU 4 (n - 4) f.bytes

/-- A discarded frame (R496). -/
def loseFrame (s : State) : State :=
  noteLink 2 { s with
    link := { s.link with framesLost := bump s.link.framesLost 1 }
    counters := { s.counters with linkFramesLost := bump s.counters.linkFramesLost 1 } }

/-- An acknowledgement clears every control frame up to its number (R496, R497). -/
def takeAck (ack : Half) (s : State) : State :=
  { s with link := { s.link with unacked := s.link.unacked.filter fun f => 32768 ≤ (ack - f.seq).toNat } }

/-- A segment of a message joins what has arrived of it (R496, R497): the first starts the message, one that does not
continue it discards it whole, and the last completes it. -/
def joinSegment (f : LinkFrameRx) (s : State) : State × Option (List Byte) :=
  let b := f.bytes
  let stream := getU 2 4 b
  let off := getU 4 8 b
  let total := getU 4 12 b
  let flags := getU 1 16 b
  let data := (b.drop 20).take (b.length - 24)
  let rest := s.link.rx.filter fun r => r.stream != stream
  let cur := s.link.rx.find? fun r => r.stream == stream
  let start := flags % 2 == 1 && off == 0
  let held := match cur with | some r => if !start && r.joined == off && r.total == total then some r.bytes else none | none => none
  match if start then some [] else held with
  | none => ({ s with link := { s.link with rx := rest } }, none)
  | some before =>
    let all := before ++ data
    if all.length = total ∧ flags / 2 % 2 = 1 then ({ s with link := { s.link with rx := rest } }, some all)
    else if total ≤ all.length ∨ flags / 2 % 2 = 1 then ({ s with link := { s.link with rx := rest } }, none)
    else
      ({ s with link := { s.link with rx := rest ++ [⟨stream, all.length, total, all⟩] } }, none)

/-- A frame that stands: a control frame is taken only in order and acknowledges the far end's; any other joins its
message (R497). The message it completes, with its stream, is for the caller. -/
def takeFrame (f : LinkFrameRx) (s : State) : State × Option (Nat × List Byte) :=
  let b := f.bytes
  let stream := getU 2 4 b
  let seq := BitVec.ofNat 16 (getU 2 6 b)
  if getU 1 1 b = 1 then
    let s1 := takeAck (BitVec.ofNat 16 (getU 2 18 b)) s
    if seq = s1.link.ctlSeqRx + 1 then
      let (s2, m) := joinSegment f { s1 with link := { s1.link with ctlSeqRx := seq } }
      (s2, m.map fun x => (stream, x))
    else (s1, none)
  else
    let (s2, m) := joinSegment f s
    (s2, m.map fun x => (stream, x))

end Sys2Proof.Machine
end

