-- ==== Sys2Proof/Machine/Observe.lean ====
section
/-! DEFINITION. Observation: the trace port and its queue TRCQ, and the counter region (16_observation.md R537 to
R547). -/

namespace Sys2Proof.Machine

/-! ### The trace queue (R22, R25, R539 to R542) -/

/-- Parses `TRACE_SET` (R543, 14 bytes). -/
def parseTraceSet (p : List Byte) : Option (Bool × TraceCfg) :=
  let mask := getU 2 3 p
  if p.length = 14 ∧ getU 1 0 p ≤ 1 ∧ getU 1 1 p ≤ 1 ∧ getU 1 2 p ≤ 3 ∧ mask % 4 = 0 ∧ mask < 4096 ∧ getU 1 5 p ≤ 7
      ∧ zeroAt 2 12 p then
    some (getU 1 0 p == 1, ⟨getU 1 1 p == 1, getU 1 2 p, BitVec.ofNat 16 mask, getU 1 5 p, BitVec.ofNat 48 (getU 8 6 p)⟩)
  else none

/-- Words in TRCQ. -/
def traceHeld (t : Trace) : Nat := (t.queue.map (·.length)).sum - t.headSent
/-- Words of room in TRCQ, which holds 512 (R22). -/
def traceRoom (t : Trace) : Nat := 512 - traceHeld t

/-- A SYNC packet (R540). -/
def syncPacket (now : Nat) : List Word :=
  [traceHeader 0 3 now, 0x5AA5C33C, BitVec.ofNat 32 (now / 2 ^ 32), BitVec.ofNat 32 now]
/-- An OVERFLOW packet (R540). -/
def overflowPacket (now dropped : Nat) : List Word := [traceHeader 1 1 now, BitVec.ofNat 32 (min 0xFFFFFFFF dropped)]

/-- A packet enters TRCQ whole, or is dropped whole and its words are counted (R25, R542). -/
def putPacket (ws : List Word) (s : State) : State :=
  if ws.length ≤ traceRoom s.trace then { s with trace := { s.trace with queue := s.trace.queue ++ [ws] } }
  else
    { s with
      trace := { s.trace with dropped := s.trace.dropped + ws.length }
      counters := { s.counters with traceWordsDropped := bump s.counters.traceWordsDropped ws.length } }

/-- A SYNC packet is sent (R541). -/
def putSync (s : State) : State := putPacket (syncPacket s.now) s

/-- Words leave the front of TRCQ: `k` of them, after the `sent` words of the first packet that have gone already. -/
def sendWords : Nat → Nat → List (List Word) → Nat × List (List Word)
  | _, _, [] => (0, [])
  | k, sent, p :: ps => if sent + k < p.length then (sent + k, p :: ps) else sendWords (sent + k - p.length) 0 ps

/-- Words a second of the port (R538). -/
def traceRate (c : TraceCfg) : Nat := 9600000 / 2 ^ c.clkDiv

/-- Words that the port has begun at a device time since its clock started (R538). -/
def portWords (t : Nat) (s : State) : Nat := (t - s.trace.clockFrom) * traceRate s.trace.cfg / 24576000 + 1

/-- The port begins `n` more words: those that wait, then idle words (R538); idle words are not counted as sent (R546). -/
def beginWords (n : Nat) (s : State) : State :=
  let t := s.trace
  let waiting := t.own ++ t.queue.flatten.drop t.headSent
  let k := min n waiting.length
  let left := sendWords (k - t.own.length) t.headSent t.queue
  { s with
    trace := { t with
      own := t.own.drop k, queue := left.2, headSent := left.1
      word := if n = 0 then t.word else waiting.getD (n - 1) 0xFFFFFFFF }
    counters := { s.counters with traceWordsSent := bump s.counters.traceWordsSent k } }

/-- A remote's packets go to the local on stream 0x0403 through LB, while LB takes them (R545). -/
def drainToLink : List (List Word) → State → State
  | [], s => s
  | p :: ps, s =>
    let msg := p.flatMap wordBytes
    let fr := framesOf (frameMax s 0x61) 6 0x0403 msg.length msg
    if (queueOf s.dispatch 0x61).active && roomFor s 0x61 fr then
      drainToLink ps { enqueueAll s 0x61 fr with
        trace := { s.trace with queue := ps }
        counters := { s.counters with traceWordsSent := bump s.counters.traceWordsSent p.length } }
    else s

/-- What the port has sent up to a device time (R538, R546): idle words are not counted. -/
def drainTo (t : Nat) (s : State) : State :=
  if !s.trace.cfg.enable || s.trace.restartAt.isSome then s
  else if remoteEnd s then drainToLink s.trace.queue s
  else
    let n := max s.trace.wordsDone (portWords t s)
    let s1 := beginWords (n - s.trace.wordsDone) s
    { s1 with trace := { s1.trace with wordsDone := n } }

/-- When room for two words appears after a drop, an OVERFLOW packet enters ahead of any other, and a SYNC packet
follows it (R541, R542). -/
def overflowAt (t : Nat) (s : State) : State :=
  if s.trace.dropped = 0 ∨ traceRoom s.trace < 2 then s
  else
    putPacket (syncPacket t) { s with trace := { s.trace with
      queue := s.trace.queue ++ [overflowPacket t s.trace.dropped], dropped := 0 } }

/-- A packet enters TRCQ at a device time, behind what has left by then (R542). -/
def enterPacket (t : Nat) (ws : List Word) (s : State) : State := putPacket ws (overflowAt t (drainTo t s))

/-- The packets of the happenings up to now enter TRCQ, each at its time (R539, R542). -/
def enterHappened (s : State) : State :=
  s.trace.happened.foldl (fun s h => enterPacket h.1 h.2 s) { s with trace := { s.trace with happened := [] } }

/-- The trace port comes up to now: the happenings so far have entered TRCQ, and the port has sent what it has had time for. -/
def drainTrace (s : State) : State := drainTo s.now (enterHappened s)

/-- An OVERFLOW packet that is due enters now. -/
def overflowRule (s : State) : State := overflowAt s.now s

/-- The payload of an FW packet: word 0 and up to 13 arguments (R540). -/
def fwStands (payload : List Word) : Bool := 1 ≤ payload.length && payload.length ≤ 14

/-- TRACE_PACKET (R539, R540, R542, R543): the packets of the happenings up to now enter TRCQ; the firmware may add one of its own, an
FW packet, whose message is the firmware's (log entry 133). -/
def execTracePacket (payload : List Word) (s : State) : Out :=
  .next (drainTrace (if fwStands payload then noteTrace s.now 4 payload s else s))

/-- TRACE_OVERFLOW_PACKET (R542). -/
def execTraceOverflowPacket (s : State) : Out :=
  .next (if s.trace.cfg.enable then overflowRule (drainTrace s) else s)

/-- A packet of the remote is sent on the local's own port (R545): the bytes of stream 0x0403 hold one whole packet of
1 to 15 words, which a REMOTE header precedes. -/
def putRemotePacket (msg : List Byte) (s : State) : State :=
  let n := msg.length / 4
  let ws := (List.range n).map fun k => bytesWord ((msg.drop (4 * k)).take 4)
  if s.trace.cfg.enable ∧ 1 ≤ n ∧ n ≤ 15 then
    let h := ((ws.headD 0).toNat) % 2 ^ 24
    putPacket (traceHeader 12 n h :: ws) (overflowRule (drainTrace s))
  else s

/-- The packet in progress is completed (R544). -/
def completePacket (s : State) : State :=
  beginWords (s.trace.own.length
    + (if s.trace.headSent = 0 then 0 else (s.trace.queue.headD []).length - s.trace.headSent)) s

/-- TRC_CLK starts (R538, R541). -/
def startTrace (s : State) : State :=
  putSync { s with trace := { s.trace with clockFrom := s.now, wordsDone := 0, own := [], restartAt := none } }

/-- The device time at which the packet in progress has left the port (R544). -/
def packetEnd (s : State) : Nat :=
  let left := s.trace.own.length + (if s.trace.headSent = 0 then 0 else (s.trace.queue.headD []).length - s.trace.headSent)
  s.trace.clockFrom + ceilDiv ((s.trace.wordsDone + left) * 24576000) (traceRate s.trace.cfg)

/-- `TRACE_SET` applies on this device (R541, R544). -/
def applyTraceSet (c : TraceCfg) (s : State) : State :=
  let old := s.trace.cfg
  let s1 := drainTrace s
  if !old.enable then
    if c.enable then startTrace { s1 with trace := { s1.trace with cfg := c, queue := [], dropped := 0 } }
    else { s1 with trace := { s1.trace with cfg := c } }
  else
    let s2 := completePacket s1
    if !c.enable then { s2 with trace := { s2.trace with cfg := c, queue := [], dropped := 0, own := [], restartAt := none } }
    else if c.clkDiv = old.clkDiv then { s1 with trace := { s1.trace with cfg := c } }
    else { s2 with trace := { s2.trace with cfg := c, restartAt := some (packetEnd s1 + ticksOfUs 1) } }

/-- TRACE_CLK_RESTART (R544): after 1 µs low the port restarts at the new rate with a SYNC packet ahead of the rest. The
packet takes no room of TRCQ, whose packets all stay (DESIGN CHOICE, notes/assumptions/104.md). -/
def execTraceClkRestart (s : State) : Out :=
  match s.trace.restartAt with
  | some t =>
    if t ≤ s.now then
      .next { s with trace := { s.trace with
        own := syncPacket s.now, clockFrom := s.now, wordsDone := 0, word := 0xFFFFFFFF, restartAt := none } }
    else .next s
  | none => .next s

/-- What the trace port does at a stroke boundary: a SYNC packet at every multiple of 128 (R541). -/
def strokeTrace (s : State) : State :=
  let s1 := drainTrace s
  if s1.trace.cfg.enable && s1.latch.stroke % 128 == 0 && s1.trace.restartAt.isNone then putSync (overflowRule s1) else s1

/-! ### The pins of the trace port (R537, R538) -/

/-- The 8 nibbles of a word, most significant first (R537). -/
def traceNibbles (w : Word) : List (BitVec 4) := (List.range 8).map fun k => w.extractLsb' (28 - 4 * k) 4

/-- The nibbles that the port passes for words sent one after the other. -/
def traceStream (ws : List Word) : List (BitVec 4) := ws.flatMap traceNibbles

/-- TRC_CLK and TRC_D[3:0] at the present device time (R537, R538): a nibble is launched on the falling edge of TRC_CLK and
stands over its rising edge; both are low while the port is disabled or restarts, and in a remote (R130, R544, R545). -/
def tracePins (s : State) : Bool × BitVec 4 :=
  if !s.trace.cfg.enable || s.trace.restartAt.isSome || remoteEnd s then (false, 0)
  else
    let t := (drainTrace s).trace
    let halves := (s.now - t.clockFrom) * traceRate t.cfg * 16 / 24576000
    (halves % 2 == 1, (traceNibbles t.word).getD (halves / 2 % 8) 0)

/-! ### Counters (R105, R546, R547) -/

/-- The counter region 0x4000 to 0x417F (R546). -/
def counterBytes (c : CounterLatch) : List Byte :=
  let v {n : Nat} (x : Vector (BitVec 32) n) : List Byte := x.toList.flatMap fun b => u32 b.toNat
  u64 c.latchStroke ++ u64 c.traceWordsSent.toNat ++ u32 c.traceWordsDropped.toNat ++ u32 c.eventsPosted.toNat
    ++ u32 c.eventsLost.toNat ++ u32 c.hostFrames.toNat ++ v c.mailboxRequests ++ v c.outUnderruns ++ v c.portBadFrames
    ++ v c.clipFrames ++ v c.gainSteps ++ v c.temperSwaps ++ zeros 4 ++ u64 c.nandPagesProgrammed.toNat
    ++ u64 c.nandPagesRead.toNat ++ u64 c.nandCorrectedBits.toNat ++ u32 c.nandErases.toNat
    ++ u32 c.nandUncorrectable.toNat ++ u64 c.linkSuperframesTx.toNat ++ u64 c.linkSuperframesRx.toNat
    ++ u32 c.linkRsCorrected.toNat ++ u32 c.linkRsFailed.toNat ++ u32 c.linkFramesLost.toNat
    ++ u32 c.linkSyncFailed.toNat ++ v c.slotTransitions

/-- The counters are latched at a stroke boundary (R105). -/
def latchCounters (s : State) : State := { s with counterLatch := { s.counters with latchStroke := s.latch.stroke } }

/-- OBS_COUNTERS_GET (R547). -/
def execObsCountersGet (ch : Fin 4) (s : State) : Out :=
  .next (serve ch 0x0D02 .read parseDevice (serveDevice fun s => counterBytes s.counterLatch) s)

end Sys2Proof.Machine
end

