-- ==== Sys2Proof/Machine/HostPort.lean ====
section
/-! DEFINITION. The host control port (02_host_port_mailbox.md R60 to R107, R590; 00_scope.md R13 to R16): what a read of
each word of the host window returns, what a write of each word does when it lands, the doorbell, and the I2C and SPI
frames that carry them. -/

namespace Sys2Proof.Machine

/-- The host port is out of reset (R112). -/
def hostActive (s : State) : Bool := s.boot.phase != .inReset

/-! ### Reads (R67, R68, R83, R105, R107) -/

/-- The counter latch that a frame reads from (R105). -/
def frameCounters (s : State) : CounterLatch := s.host.frameLatch.getD s.counterLatch

/-- The word at an offset of the host window as a read captures it. Registers that are write only and reserved offsets read
zero (R14, R68). -/
def readWord (s : State) (off : Nat) : Word :=
  if off = 0x0000 then hwId s
  else if off = 0x0004 then hwStatus s
  else if off = 0x0008 then s.host.irqStatus.zeroExtend 32
  else if off = 0x000C then s.host.irqEnable.zeroExtend 32
  else if off = 0x0014 then chanStateWord s
  else if off = 0x0018 then hostCfgWord s
  else if off = 0x0020 then s.host.evtHead.zeroExtend 32
  else if off = 0x0024 then s.host.evtTail.zeroExtend 32
  else if off = 0x0040 then i2cTimingWord s
  else if off = 0x0044 then i2cTimeoutWord s
  else if off = 0x0048 then i2cStatusWord s
  else if (0x1000 ≤ off ∧ off < 0x2000) ∨ (0x2000 ≤ off ∧ off < 0x2800) then bytesWord (memBytes s.mem off 4)
  else if 0x4000 ≤ off ∧ off < 0x5000 then bytesWord (((counterBytes (frameCounters s)).drop (off - 0x4000)).take 4)
  else if 0x8000 ≤ off ∧ off < 0x10000 ∧ s.bulk.mapped.isSome ∧ hostOwns s (0xC000 ≤ off) then bytesWord (memBytes s.mem off 4)
  else 0

/-- The bytes of the words that a read captures from a pointer in one instant, and zero past 0xFFFC (R65, R67, R68). -/
def readWords (s : State) (ptr words : Nat) : List Byte :=
  (List.range words).flatMap fun k => if ptr + 4 * k < 0x10000 then wordBytes (readWord s (ptr + 4 * k)) else zeros 4

/-- The first bytes of those words. -/
def readBytes (s : State) (ptr count : Nat) : List Byte := (readWords s ptr (ceilDiv count 4)).take count

/-- The register pointer after a number of bytes: it advances by whole words (R65, R68). After the word at 0xFFFC it stands
past the end, for a later frame without an address phase too (DESIGN CHOICE, log entry 112). -/
def advancePtr (ptr count : Nat) : Nat := min 0x10000 (ptr + 4 * (count / 4))

/-! ### The doorbell (R85 to R94, R106) -/

/-- `ring` of a channel (R86, R87). -/
def doRing (ch : Fin 4) (s : State) : State :=
  if s.chan[ch] = .idle then { s with chan := s.chan.set ch .posted, ringOrder := s.ringOrder ++ [ch] } else setWriteRejected s

/-- `release` of a channel (R86, R87). -/
def doRelease (ch : Fin 4) (s : State) : State :=
  if s.chan[ch] = .done then { s with chan := s.chan.set ch .idle } else setWriteRejected s

/-- What a response that ends with `ST_ABORTED` carries: nothing, but for `TXN_COMMIT` its 16 bytes (R94, R550). -/
def abortPayload (s : State) (ch : Fin 4) : List Byte :=
  if (reqOf s ch).opcode = 0x0111 then
    u64 0 ++ u16 (match s.txns[ch] with | some t => t.cmds.length | none => 0) ++ u16 0xFFFF ++ u16 0 ++ u16 0
  else []

/-- The request on a channel is a forwarded `AUX_XFER`, whose commit point lies at the remote (R502, R529). -/
def forwardedXfer (s : State) (ch : Fin 4) : Bool :=
  match s.ops[ch] with
  | some o => (match o.op with | .forwarded opcode _ => opcode == 0x0B02 | _ => false)
  | none => false

/-- The message that carries the abort of a forwarded request to the remote, under opcode 0 with the tag of the request
(log entry 50). -/
def abortMessage (r : Req) : List Byte := requestBytes ⟨0, r.tag, 2, 0, 0, 0, u16 r.opcode⟩

/-- `abort` of a channel (R94). -/
def doAbort (ch : Fin 4) (s : State) : State :=
  match s.chan[ch] with
  | .posted => respond ch .aborted (abortPayload s ch) s
  | .active =>
    let s1 := { s with abortPending := s.abortPending ||| BitVec.ofNat 4 (2 ^ ch.val) }
    if forwardedXfer s ch && linkUp s then enqueueAll s1 0x20 (controlFrames s (abortMessage (reqOf s ch))) else s1
  | .done => s
  | .idle | .disabled => setWriteRejected s

/-- The channels whose bit is set in a field of four bits, from the lowest up (R85). -/
def fieldChannels (w : Word) (at_ : Nat) : List (Fin 4) := (List.finRange 4).filter fun ch => w.getLsbD (at_ + ch.val)

/-- A `DOORBELL` write (R85). -/
def doorbell (w : Word) (s : State) : State :=
  let s1 := (fieldChannels w 8).foldl (fun s ch => doRelease ch s) s
  let s2 := (fieldChannels w 0).foldl (fun s ch => doRing ch s) s1
  let s3 := (fieldChannels w 4).foldl (fun s ch => doAbort ch s) s2
  let s4 := if w.getLsbD 16 then doBulkDone false s3 else s3
  if w.getLsbD 17 then doBulkDone true s4 else s4

/-! ### Writes (R14 to R16, R68, R73, R83, R84, R104, R107, R590) -/

/-- A write to `HW_STATUS`: bits 7 to 4 are W1C. -/
def writeHwStatus (w : Word) (s : State) : State :=
  { s with host := { s.host with
    wrDropped := s.host.wrDropped && !w.getLsbD 7, writeRejected := s.host.writeRejected && !w.getLsbD 6
    partialWord := s.host.partialWord && !w.getLsbD 5, addrError := s.host.addrError && !w.getLsbD 4 } }

/-- A write to `IRQ_STATUS`: W1C. -/
def writeIrqStatus (w : Word) (s : State) : State :=
  { s with host := { s.host with irqStatus := s.host.irqStatus &&& ~~~(w.truncate 10) } }

/-- A write to `HOST_CFG`: a dummy count outside 0x04 to 0x40 is rejected (R16). -/
def writeHostCfg (w : Word) (s : State) : State :=
  let d := (w.toNat / 256) % 256
  let s1 := { s with host := { s.host with spiWrWait := w.truncate 4 } }
  if 0x04 ≤ d ∧ d ≤ 0x40 then { s1 with host := { s1.host with spiRdDummy := BitVec.ofNat 8 d } } else setWriteRejected s1

/-- A write to `EVT_TAIL` (R104). -/
def writeEvtTail (w : Word) (s : State) : State :=
  let t : Half := w.truncate 16
  if (t - s.host.evtTail).toNat ≤ (s.host.evtHead - s.host.evtTail).toNat then { s with host := { s.host with evtTail := t } }
  else setWriteRejected s

/-- A write to `I2C_TIMING`, held until the next STOP (R73); an `sda_setup` below 0x02 leaves that field as it was (R16). -/
def writeI2cTiming (w : Word) (s : State) : State :=
  let old := i2cTimingWord s
  let setup := (w.toNat / 65536) % 256
  let kept := (old.toNat / 65536) % 256
  let v (n : Nat) : Word := BitVec.ofNat 32 (n * 65536 + (w.toNat / 256 % 256) * 256 + w.toNat % 16)
  if 2 ≤ setup then { s with host := { s.host with i2cTimingNext := some (v setup) } }
  else setWriteRejected { s with host := { s.host with i2cTimingNext := some (v kept) } }

/-- A write to `I2C_TIMEOUT`, held until the next STOP (R73). -/
def writeI2cTimeout (w : Word) (s : State) : State := { s with host := { s.host with i2cTimeoutNext := some w } }

/-- A write to `I2C_STATUS`: bits 7, 5 and 4 are W1C. -/
def writeI2cStatus (w : Word) (s : State) : State :=
  { s with host := { s.host with
    rstartInAck := s.host.rstartInAck && !w.getLsbD 7, sclTimeout := s.host.sclTimeout && !w.getLsbD 5
    sdaTimeout := s.host.sdaTimeout && !w.getLsbD 4 } }

/-- A write into a mailbox channel: a request buffer takes it in IDLE and DONE, a response buffer never (R86, R590). -/
def writeMailbox (off : Nat) (w : Word) (s : State) : State :=
  match finOf 4 ((off - 0x1000) / 0x400) with
  | some ch =>
    if (off - 0x1000) % 0x400 < 0x200 ∧ (s.chan[ch] = .idle ∨ s.chan[ch] = .done) then
      { s with mem := memWrite s.mem off (wordBytes w) }
    else setWriteRejected s
  | none => setWriteRejected s

/-- A whole word takes effect (R66, R82): the registers of PD0, the mailboxes, and the bulk window in a half that the host
owns. The mailboxes act by their channel's state even before PD1 leaves reset (R86, R590 "in every state"). -/
def landWrite (off : Nat) (w : Word) (s : State) : State :=
  if off = 0x0000 ∨ off = 0x0014 ∨ off = 0x0020 then s
  else if off = 0x0004 then writeHwStatus w s
  else if off = 0x0008 then writeIrqStatus w s
  else if off = 0x000C then { s with host := { s.host with irqEnable := w.truncate 10 } }
  else if off = 0x0010 then doorbell w s
  else if off = 0x0018 then writeHostCfg w s
  else if off = 0x0024 then writeEvtTail w s
  else if off = 0x0040 then writeI2cTiming w s
  else if off = 0x0044 then writeI2cTimeout w s
  else if off = 0x0048 then writeI2cStatus w s
  else if 0x1000 ≤ off ∧ off < 0x2000 then writeMailbox off w s
  else if 0x8000 ≤ off ∧ off < 0x10000 then
    if s.bulk.mapped.isSome ∧ hostOwns s (0xC000 ≤ off) then { s with mem := memWrite s.mem off (wordBytes w) }
    else setWriteRejected s
  else setWriteRejected s

/-- A run of words lands in order (R82). -/
def landWords (l : List (Half × Word)) (s : State) : State := l.foldl (fun s e => landWrite e.1.toNat e.2 s) s

/-- Every word that waits in HOSTQ_W lands (R82). -/
def landAll (s : State) : State := landWords s.host.hostqW { s with host := { s.host with hostqW := [] } }

/-! ### Frames (R64 to R69, R76, R79) -/

/-- The words that the data bytes of a write frame carry from a pointer; bytes past 0xFFFC are not acknowledged (R66,
R68). -/
def wordsFrom : Nat → List Byte → List (Half × Word)
  | ptr, a :: b :: c :: d :: rest =>
    if ptr < 0x10000 then (BitVec.ofNat 16 ptr, bytesWord [a, b, c, d]) :: wordsFrom (ptr + 4) rest else []
  | _, _ => []

/-- The bytes of the word that a write frame has begun and not completed; past 0xFFFC there is none (R66, R68). -/
def begunWord (ptr : Nat) (data : List Byte) : List Byte :=
  if ptr + 4 * (data.length / 4) < 0x10000 then data.drop (4 * (data.length / 4)) else []

/-- The register address of a frame, high byte first (R64). -/
def frameAddress : List Byte → Option Nat
  | h :: l :: _ => some (h.toNat * 256 + l.toNat)
  | _ => none

/-- What a STOP does (R73, R83): the values written to `I2C_TIMING` and `I2C_TIMEOUT` take effect. -/
def seeStop (s : State) : State :=
  let h := s.host
  { s with host := { h with
    i2cTiming := h.i2cTimingNext.getD h.i2cTiming, i2cTimeout := h.i2cTimeoutNext.getD h.i2cTimeout
    i2cTimingNext := none, i2cTimeoutNext := none, busBusy := false } }

/-- The frame in progress stops inside a write word (R66). -/
def inWriteWord (s : State) : Bool :=
  match s.host.frame with
  | some f => f.write && !f.ignored && !f.word.isEmpty
  | none => false

/-- The frame in progress is over, whatever ends it: the bytes of a word begun are discarded and set `partial_word` (R66),
and the frame counts (R546). With no frame in progress nothing happens. -/
def dropFrame (s : State) : State :=
  if s.host.frame.isSome then
    let s1 := if inWriteWord s then setPartialWord s else s
    { s1 with
      host := { s1.host with frame := none }
      counters := { s1.counters with hostFrames := bump s1.counters.hostFrames 1 } }
  else s

/-- A frame ends (R66, R73, R546), with a STOP or without. -/
def endFrame (stop : Bool) (s : State) : State := if stop then seeStop (dropFrame s) else dropFrame s

/-- A frame begins: it ends a frame still in progress, and the counter latch of an earlier frame is forgotten (R105). -/
def beginFrame (f : OpenFrame) (s : State) : State :=
  let s1 := dropFrame s
  { s1 with host := { s1.host with frame := some f, frameLatch := none, readOut := [], busBusy := !s1.host.hifSpi } }

/-- The frame in progress, changed. -/
def setFrame (f : OpenFrame → OpenFrame) (s : State) : State :=
  { s with host := { s.host with frame := s.host.frame.map f } }

/-- The I2C address of the device (R61). -/
def ownAddress (s : State) : Nat := 0x58 + s.host.i2cAddrSel.toNat

/-- The I2C target follows the bus: it is out of reset and selected, and no hold of its own stops the clock. -/
def onI2c (s : State) : Bool := hostActive s && !s.host.hifSpi && !s.host.holdingScl

/-- A frame for another target passes: its START ends a frame of this one, and its STOP is seen (R63, R73). -/
def passingFrame (part : FramePart) (s : State) : State :=
  if !onI2c s || (!part.starts && s.host.frame.isSome) then s
  else
    let s1 := if part.starts then { dropFrame s with host := { (dropFrame s).host with busBusy := true } } else s
    if part.ends then seeStop s1 else s1

/-- A row of a frame is for this target: it begins with the target's address, or goes on with a frame of its kind (R63). -/
def addressed (s : State) (address : BitVec 7) (write : Bool) (part : FramePart) : Bool :=
  onI2c s && (if part.starts then address.toNat == ownAddress s
    else match s.host.frame with | some f => f.write == write | none => false)

/-- The part of a frame closes (R76): it stays open, or ends at a STOP or at a bad acknowledge. -/
def closePart (c : FrameClose) (s : State) : State :=
  match c with
  | .more => s
  | .stop => endFrame true s
  | .badAckStop => endFrame true (setRstartInAck s)
  | .badAckStart => endFrame false (setRstartInAck s)

/-- How a row's part of a frame closes. -/
def closeOf (bad : Option AckFault) (part : FramePart) : FrameClose :=
  match bad with
  | some f => if f.stop then .badAckStop else .badAckStart
  | none => if part.ends then .stop else .more

/-- The bytes of the register address that are still to come are taken first: with the second one the pointer is set, or an
unaligned address is an error and the frame is ignored (R64). Answers the data bytes behind them. -/
def takeAddress (bytes : List Byte) (s : State) : List Byte × State :=
  match s.host.frame with
  | none => ([], s)
  | some f =>
    if 2 ≤ f.head.length then (bytes, s)
    else
      let s1 := setFrame (fun f => { f with head := (f.head ++ bytes).take 2 }) s
      match frameAddress (f.head ++ bytes) with
      | none => ([], s1)
      | some a =>
        if a % 4 = 0 then ((f.head ++ bytes).drop 2, { s1 with host := { s1.host with regPtr := a } })
        else ([], setFrame (fun f => { f with ignored := true }) (setAddrError s1))

/-- The words that data bytes complete in the frame in progress, from the pointer on; the pointer passes them, and the
bytes behind them begin a word (R65, R66). -/
def takeWords (data : List Byte) (s : State) : List (Half × Word) × State :=
  match s.host.frame with
  | none => ([], s)
  | some f =>
    if f.ignored then ([], s)
    else
      let all := f.word ++ data
      (wordsFrom s.host.regPtr all,
        { s with host := { s.host with
          frame := some { f with word := begunWord s.host.regPtr all }, regPtr := advancePtr s.host.regPtr all.length } })

/-- The words of a write frame land, or from a word that met a full HOSTQ_W on they wait with SCL held low, the four before it
in the queue (R69). -/
def landFrame (ws : List (Half × Word)) (fullAt : Option Nat) (s : State) : State :=
  match fullAt with
  | some k =>
    let queue := s.host.hostqW ++ ws.take k
    if k < ws.length ∧ 4 ≤ queue.length then
      let s1 := landWords (queue.take (queue.length - 4)) { s with host := { s.host with hostqW := [] } }
      { s1 with host := { s1.host with
        hostqW := queue.drop (queue.length - 4), heldWrites := ws.drop k, holdingScl := true } }
    else landWords ws (landAll s)
  | none => landWords ws (landAll s)

/-- The bytes of a frame that the target takes before a bad acknowledge; byte 0 is the address. -/
def takenBytes (bytes : List Byte) : Option AckFault → List Byte
  | some f => bytes.take (f.byte - 1)
  | none => bytes

/-- A bad acknowledge that lies within the bytes of a row. -/
def faultWithin (count : Nat) : Option AckFault → Option AckFault
  | some f => if f.byte ≤ count then some f else none
  | none => none

/-- The part of a frame closes now, or when the hold that it ran into is over (R69). -/
def closeOrHold (c : FrameClose) (s : State) : State :=
  if s.host.holdingScl then { s with host := { s.host with heldClose := c } } else closePart c s

/-- I2C_WRITE_FRAME (R63 to R69, R73, R76): `bytes` follow the address byte, or what earlier parts of the frame brought. A
frame cut at an acknowledge discards the word that holds the byte, and sets `partial_word` for the bytes of that word taken
before (DEDUCED from the flag's meaning in R83; notes/assumptions/78.md). -/
def execI2cWriteFrame (address : BitVec 7) (bytes : List Byte) (badAck : Option AckFault) (fullAt : Option Nat)
    (part : FramePart) (s : State) : Out :=
  if !addressed s address true part then .next (passingFrame part s)
  else
    let bad := faultWithin bytes.length badAck
    let s1 := if part.starts then beginFrame OpenFrame.reset s else s
    let (data, s2) := takeAddress (takenBytes bytes bad) s1
    let (ws, s3) := takeWords data s2
    .next (closeOrHold (closeOf bad part) (landFrame ws fullAt s3))

/-- The first word of a frame to be captured fixes the counter latch that the frame reads (R105). -/
def latchFrame (s : State) : State :=
  if s.host.frameLatch.isSome then s else { s with host := { s.host with frameLatch := some s.counterLatch } }

/-- The words of a read as they are captured: undefined ones are free values (R80). -/
def capture (undef : Bool) (count : Nat) (s : State) : List Byte × State :=
  if undef then
    let n := ceilDiv count 4
    (((List.range n).flatMap fun i => wordBytes (Config.freeWord (s.freeNext + i))), { s with freeNext := s.freeNext + n })
  else (readWords s s.host.regPtr (ceilDiv count 4), s)

/-- A read of bytes goes out on the bus: what is left of the word captured, then whole words from the pointer on, each
captured now (R65, R67). The pointer passes each word with its last byte. -/
def readData (count : Nat) (s : State) : State :=
  match s.host.frame with
  | none => s
  | some f =>
    if count = 0 then s
    else if count < f.out.length then
      { s with host := { s.host with
        readOut := s.host.readOut ++ f.out.take count, frame := some { f with out := f.out.drop count } } }
    else
      let s1 := { s with host := { s.host with
        regPtr := if f.out.isEmpty then s.host.regPtr else min 0x10000 (s.host.regPtr + 4) } }
      let n := count - f.out.length
      if n = 0 then
        { s1 with host := { s1.host with readOut := s1.host.readOut ++ f.out, frame := some { f with out := [] } } }
      else
        let (bytes, s2) := capture f.undef n (latchFrame s1)
        { s2 with host := { s2.host with
          readOut := s2.host.readOut ++ f.out ++ bytes.take n
          frame := some { f with out := bytes.drop n }
          regPtr := advancePtr s2.host.regPtr n } }

/-- A read frame of the target, with the pointer it has set. -/
def OpenFrame.read : OpenFrame := { OpenFrame.reset with write := false }

/-- The address phase of a read frame (R64, R65): it sets the pointer, or an unaligned one is an `addr_error` and the read
that its own repeated START begins goes on from the pointer there was. -/
def setPointer (pointer : List Byte) (s : State) : State :=
  match frameAddress pointer with
  | some a => if a % 4 = 0 then { s with host := { s.host with regPtr := a } } else setAddrError s
  | none => s

/-- I2C_READ_FRAME (R64, R65, R67, R69, R76): `pointer` is the address phase, empty when the frame has none; byte 0 of a bad
acknowledge is the address with R. A fetch that holds SCL stops the read at that word until it is released. -/
def execI2cReadFrame (address : BitVec 7) (pointer : List Byte) (count : Nat) (badAck : Option AckFault) (holdAt : Option Nat)
    (part : FramePart) (s : State) : Out :=
  if !addressed s address false part then .next (passingFrame part s)
  else
    let s1 := if part.starts then setPointer pointer (beginFrame OpenFrame.read s) else s
    let bad := faultWithin count badAck
    let n := match bad with | some f => f.byte - 1 | none => count
    let left := match s1.host.frame with | some f => f.out.length | none => 0
    match holdAt with
    | some k =>
      if left + 4 * k < n then
        let s2 := readData (left + 4 * k) s1
        .next { s2 with host := { s2.host with
          heldRead := some (n - (left + 4 * k)), heldClose := closeOf bad part, holdingScl := true } }
      else .next (closePart (closeOf bad part) (readData n s1))
    | none => .next (closePart (closeOf bad part) (readData n s1))

/-- The hold is over (R69): the word is fetched and the read goes on, or HOSTQ_W has room and the words land; then the
part of the frame closes as it did on the bus. -/
def finishHold (s : State) : State :=
  if !s.host.holdingScl then s
  else
    let s1 := { s with host := { s.host with holdingScl := false, heldRead := none, heldWrites := [] } }
    match s.host.heldRead with
    | some n => closePart s.host.heldClose (readData n s1)
    | none => closePart s.host.heldClose (landWords s.host.heldWrites (landAll s1))

/-- SCL_HOLD_RELEASE (R69). -/
def execSclHoldRelease (s : State) : Out := .next (finishHold s)

/-- SCL_TIMEOUT (R74): the timer does not run while the target holds SCL, and a limit of 0 disables it. The frame in progress
is over and its partial word discarded; `bus_busy` stays, and the target waits for the next START. -/
def execSclTimeout (s : State) : Out :=
  .next (if onI2c s && s.host.i2cTimeout.toNat % 65536 != 0 then setSclTimeout (dropFrame s) else s)

/-- SDA_TIMEOUT (R75): as `execSclTimeout`; a read in progress stops driving SDA. -/
def execSdaTimeout (s : State) : Out :=
  .next (if onI2c s && s.host.i2cTimeout.toNat / 65536 != 0 then setSdaTimeout (dropFrame s) else s)

/-! ### Write commands of the table -/

/-- A write command of the table: it lands after every word issued before it, those of a frame that is held included
(R82). -/
def landRow (f : State → State) (s : State) : Out := .next (if hostActive s then f (landAll (finishHold s)) else s)

/-- RING. -/
def execRing (ch : Fin 4) (s : State) : Out := landRow (doRing ch) s
/-- RELEASE. -/
def execRelease (ch : Fin 4) (s : State) : Out := landRow (doRelease ch) s
/-- ABORT. -/
def execAbort (ch : Fin 4) (s : State) : Out := landRow (doAbort ch) s
/-- BULK_DONE. -/
def execBulkDone (h : Fin 2) (s : State) : Out := landRow (doBulkDone (h == 1)) s
/-- IRQ_STATUS_CLEAR. -/
def execIrqStatusClear (w : Word) (s : State) : Out := landRow (writeIrqStatus w) s
/-- EVT_TAIL_WRITE. -/
def execEvtTailWrite (w : Word) (s : State) : Out := landRow (writeEvtTail w) s
/-- I2C_TIMING_WRITE. -/
def execI2cTimingWrite (timeout : Bool) (w : Word) (s : State) : Out :=
  landRow (if timeout then writeI2cTimeout w else writeI2cTiming w) s
/-- HOST_REGISTER_WRITE (R14): an unaligned offset is an address error (R64). -/
def execHostRegisterWrite (offset : Half) (w : Word) (s : State) : Out :=
  landRow (fun s => if offset.toNat % 4 = 0 then landWrite offset.toNat w s else setAddrError s) s

/-! ### Fitting `I2C_TIMING` to a bus (R70, R71) -/

/-- N of R70: the SDA output hold time lies between N and N + 1 REF cycles. -/
def holdCycles (timing : Word) : Nat := timing.toNat % 16 + timing.toNat / 256 % 256 + 2

/-- What a bus mode asks of `I2C_TIMING`: the least hold beside tf(SCL), the most for data valid, the set-up after a hold
and the spike filter, in ns (R71). -/
structure HostBusMode where
  hold : Nat
  valid : Nat
  setUp : Nat
  spike : Nat
deriving DecidableEq, Repr

def hostStandardMode : HostBusMode := ⟨300, 3450, 250, 0⟩
def hostFastMode : HostBusMode := ⟨300, 900, 100, 50⟩
def hostFastModePlus : HostBusMode := ⟨0, 450, 50, 50⟩

/-- `I2C_TIMING` meets rules A to D on a bus with tr(SDA) and tf(SCL) in 0.1 ns (R71); a REF cycle is 10,000/384 ns, so both
sides are taken 3,840 times. -/
def i2cFits (m : HostBusMode) (timing : Word) (tr tf : Nat) : Bool :=
  let t (n : Nat) : Nat := n * 100000
  let ns10 (x : Nat) : Nat := x * 384
  ns10 (max tf (10 * m.hold)) ≤ t (holdCycles timing) && t (holdCycles timing + 1) + ns10 tr ≤ ns10 (10 * m.valid)
    && ns10 (tr + 10 * m.setUp) ≤ t (timing.toNat / 65536 % 256) && ns10 (10 * m.spike) ≤ t (timing.toNat % 16)

/-! ### SPI (R77 to R81) -/

/-- Quad frames carry a word in 8 cycles, single frames in 32 (R81). -/
def wordCycles (quad : Bool) : Nat := if quad then 8 else 32

/-- The SCK cycles of the opcode and the register address before the first word (R78). -/
def headCycles (quad : Bool) : Nat := if quad then 8 + 4 else 8 + 16

/-- A time of SCK cycles in 1/2000 REF cycles of 26.04 ns. -/
def sckTime (cycles sckKhz : Nat) : Nat := cycles * 76800000 / sckKhz

/-- A queue entry for a slow target takes 208.3 ns, 8 REF cycles (R81). -/
def hostqCost : Nat := 16000

/-- The targets that HOSTQ_W takes at one word in 208.3 ns (R81). -/
def slowTarget (off : Nat) : Bool := (0x1000 ≤ off && off < 0x2000) || 0x8000 ≤ off

/-- The words of an SPI write that meet room in HOSTQ_W, whether one met none, and the time until the queue has emptied
(R81): `gap` is the time of a word and `busy` the time until the queue has emptied before the first. Any word that meets four
words in the queue is lost. A word for another target is taken to pass in no time (DESIGN CHOICE, notes/assumptions/77.md). -/
def spiAccept (gap : Nat) : Nat → List (Half × Word) → List (Half × Word) × Bool × Nat
  | busy, [] => ([], false, busy)
  | busy, e :: rest =>
    let b := busy - gap
    if 3 * hostqCost < b then
      let (l, _, t) := spiAccept gap b rest
      (l, true, t)
    else
      let (l, d, t) := spiAccept gap (if slowTarget e.1.toNat then b + hostqCost else b) rest
      (e :: l, d, t)

/-- What is left of the queue's time when a row begins: it has run since it was taken (3125/2000 REF cycles a tick), and the
head of a frame takes its own cycles. The pause between two frames is taken as none (notes/assumptions/77.md). -/
def hostqLeft (starts quad : Bool) (sckKhz : Nat) (s : State) : Nat :=
  s.host.hostqBusy - 3125 * (s.now - s.host.hostqAt) - (if starts then sckTime (headCycles quad) sckKhz else 0)

/-- A row of an SPI frame is one that the target follows: it begins with HCS_N low, or goes on with a frame of its kind. -/
def spiFollows (s : State) (write : Bool) (part : FramePart) : Bool :=
  hostActive s && s.host.hifSpi && (part.starts ||
    match s.host.frame with | some f => f.write == write | none => false)

/-- HCS_N high ends the frame (R77, R79). -/
def spiEnd (part : FramePart) (s : State) : State := if part.ends then endFrame false s else s

/-- SPI_WRITE_FRAME (R78, R79, R81): `bytes` follow the opcode, or what earlier parts brought; any opcode that is none of the
four is an `addr_error` and the frame is ignored. -/
def execSpiWriteFrame (opcode : Byte) (bytes : List Byte) (sckKhz : Nat) (part : FramePart) (s : State) : Out :=
  if !spiFollows s true part || (part.starts && (opcode == 0x0B || opcode == 0xEB)) then .next s
  else
    let quad := if part.starts then opcode == 0x38 else match s.host.frame with | some f => f.cycles < 32 | none => false
    let s1 := if part.starts then beginFrame { OpenFrame.reset with cycles := wordCycles quad } s else s
    let s2 := if part.starts && opcode != 0x02 && opcode != 0x38 then
        setFrame (fun f => { f with ignored := true, head := [0, 0] }) (setAddrError s1) else s1
    let (data, s3) := takeAddress bytes s2
    let (ws, s4) := takeWords data s3
    let gap := sckTime (wordCycles quad + s4.host.spiWrWait.toNat) sckKhz
    let (kept, dropped, busy) := spiAccept gap (hostqLeft part.starts quad sckKhz s4) ws
    let s5 := { s4 with host := { s4.host with hostqBusy := busy, hostqAt := s4.now } }
    let s6 := landWords kept (landAll s5)
    .next (spiEnd part (if dropped then setWrDropped s6 else s6))

/-- The dummy cycles that a first word needs: 300 ns, rounded up (R80). -/
def dummyNeeded (sckKhz : Nat) : Nat := ceilDiv (3 * sckKhz) 10000

/-- SPI_READ_FRAME (R78 to R80): with too few dummy cycles every word that the frame returns is undefined, a free value. -/
def execSpiReadFrame (opcode : Byte) (pointer : List Byte) (count sckKhz : Nat) (part : FramePart) (s : State) : Out :=
  if !spiFollows s false part || (part.starts && (opcode == 0x02 || opcode == 0x38)) then .next s
  else
    let s1 := if part.starts then
        beginFrame { OpenFrame.read with undef := s.host.spiRdDummy.toNat < dummyNeeded sckKhz } s else s
    let s2 := if !part.starts then s1
      else if opcode ≠ 0x0B ∧ opcode ≠ 0xEB then setFrame (fun f => { f with ignored := true }) (setAddrError s1)
      else match frameAddress pointer with
        | none => setFrame (fun f => { f with ignored := true }) s1
        | some a =>
          if a % 4 = 0 then { s1 with host := { s1.host with regPtr := a } }
          else setFrame (fun f => { f with ignored := true }) (setAddrError s1)
    let heard := match s2.host.frame with | some f => !f.ignored | none => false
    .next (spiEnd part (if heard then readData count s2 else s2))

end Sys2Proof.Machine
end

