-- ==== Sys2Proof/Machine/Census.lean ====
section
/-! DEFINITION. The census (08_side_data_database.md, R302 to R306): the plan, visits and the census status. -/

namespace Sys2Proof.Machine

/-- Parses `CENSUS_SET` (R302). -/
def parseCensus (p : List Byte) : Option CensusCfg :=
  let g := getU 1
  if p.length = 27 ∧ g 0 p ≤ 1 ∧ within 1 8 (g 1 p) ∧ g 2 p ≤ 1 ∧ within 64000000 108000000 (getU 4 3 p)
      ∧ within 64000000 108000000 (getU 4 7 p) ∧ getU 4 3 p ≤ getU 4 7 p ∧ within 50000 200000 (getU 4 11 p)
      ∧ getU 8 15 p < 2 ^ 41 ∧ within 200 10000 (getU 2 23 p) ∧ within 500 20000 (getU 2 25 p) then
    some ⟨g 0 p == 1, g 1 p, g 2 p == 1, getU 4 3 p, getU 4 7 p, getU 4 11 p, BitVec.ofNat 41 (getU 8 15 p), getU 2 23 p,
      getU 2 25 p⟩
  else none

/-- The FM frequencies of the plan. -/
def planFm (c : CensusCfg) : Nat := (c.fmStop - c.fmStart) / c.fmRaster + 1
/-- The DAB channels of the plan (R302: bit i is channel i of R244). -/
def planDab (c : CensusCfg) : List Nat :=
  ((List.range 41).filter fun i => c.dabMask.getLsbD i).map fun i => dabCentres.getD i 0
/-- The length of the plan. -/
def planLength (c : CensusCfg) : Nat := planFm c + (planDab c).length
/-- An entry of the plan: DAB or FM, and its frequency (R305). -/
def planEntry (c : CensusCfg) (k : Nat) : Bool × Nat :=
  if k < planFm c then (false, c.fmStart + k * c.fmRaster) else (true, (planDab c).getD (k - planFm c) 0)

/-- A frequency is skipped while a host slot of the same type is assigned to it on a VHF input (R305). -/
def skipEntry (s : State) (e : Bool × Nat) : Bool :=
  (hostSlots s).any fun x => x.2.tune.input != 2 && x.2.tune.freq == e.2 &&
    (if e.1 then x.2.tune.type == .dab else isFm x.2.tune.type)

/-- The pass of a number replaced. -/
def modPass (no : Nat) (f : PlanPass → PlanPass) (c : Census) : Census :=
  { c with passes := c.passes.map fun p => if p.no = no then f p else p }

/-- A pass whose entries have all been visited or skipped is complete once none of its visits runs (R306, log entry 94). -/
def closePasses (now : Nat) (c : Census) : Census :=
  let done := fun (p : PlanPass) => p.walked && !(c.visits.any fun v => v.pass == p.no)
  match (c.passes.filter done).getLast? with
  | some p => { c with passes := c.passes.filter fun q => !done q, lastCycleMs := (now - p.start) / 24576, found := p.found }
  | none => c

/-- The plan moves past an entry; past its last one the plan is repeated as a new pass (R305). -/
def advancePlan (now : Nat) (c : Census) : Census :=
  let c1 := if c.passes.any fun p => p.no == c.passNo then c else { c with passes := c.passes ++ [⟨c.passNo, now, 0, false⟩] }
  if c1.planPos + 1 < planLength c1.cfg then { c1 with planPos := c1.planPos + 1 }
  else closePasses now { modPass c1.passNo (fun p => { p with walked := true }) c1 with planPos := 0, passNo := c1.passNo + 1 }

/-- The plan moves past entries that are skipped, at most once round. -/
def skipPlan (s : State) : Nat → Census → Census
  | 0, c => c
  | k + 1, c => if skipEntry s (planEntry c.cfg c.planPos) then skipPlan s k (advancePlan s.now c) else c

/-- The tuning of a visit: a plain FM slot with the linear-phase chain, or an ensemble slot (R303). -/
def visitTune (c : CensusCfg) (e : Bool × Nat) : SlotTune :=
  ⟨if e.1 then .dab else .fm, if c.inputB then 1 else 0, e.2, false, 0⟩

/-- The free slot number that a visit takes: the highest. -/
def visitNumber (s : State) : Option (Fin 48) := ((List.finRange 48).reverse).find? fun i => s.slots[i].state == .free

/-- A visit begins on a slot number. -/
def beginVisit (i : Fin 48) (e : Bool × Nat) (s : State) : State :=
  let s1 := modSlot s i fun x =>
    resetChain s.now { Slot.reset with tune := visitTune s.census.cfg e, area := areaFor s (visitTune s.census.cfg e) none, fm := x.fm, am := x.am, visit := true }
  let s2 := setSlotStateAt s.now i .acquiring reasonAssigned s1
  { s2 with census := { s2.census with visits := s2.census.visits ++ [⟨i.val, e.1, e.2, s.now, s.census.passNo⟩] } }

/-- The census is to start a visit: it is on where the slots are, fewer than `max_visits` run, and the input is usable. -/
def visitWanted (s : State) : Bool :=
  s.census.cfg.on && !isLocal s && s.census.visits.length < s.census.cfg.maxVisits
    && domainOn s 2 && domainOn s 4 && domainOn s 5 && s.inputs[(if s.census.cfg.inputB then 1 else 0 : Fin 3)].enabled

/-- A visit starts on a free slot number when it fits within what host slots leave (R303, R305). -/
def visitStartRule (s : State) : State :=
  if !visitWanted s then s
  else
    let c := skipPlan s (planLength s.census.cfg) s.census
    let e := planEntry c.cfg c.planPos
    if skipEntry s e then { s with census := c }
    else match visitNumber s with
      | none => s
      | some i =>
        let s1 := beginVisit i e { s with census := c }
        if visitsFit s1 then { s1 with census := advancePlan s.now s1.census } else s

/-- Every DAB service of the visit's FIG 0/2 has a label (R305). -/
def allLabelled (s : State) (x : Slot) : Bool :=
  !x.dab.comps.isEmpty && x.dab.comps.all fun c =>
    s.db.recs.any fun r => match r.body with | .service v => v.dab && v.sid == c.sid && !v.label.isEmpty | _ => false

/-- A visit has come to its end (R305). -/
def visitEndDue (s : State) (i : Fin 48) : Bool :=
  let x := s.slots[i]
  x.visit && x.state != .free &&
    (x.state == .noSignal || (x.tune.type == .dab && allLabelled s x)
      || s.census.visits.any fun v => v.slot == i.val &&
          v.start + ticksOfMs (if v.dab then s.census.cfg.dabDwellMs else s.census.cfg.fmDwellMs) ≤ s.now)

/-- A visit ends: its slot number is free again, and a frequency that reached LIVE is counted in its pass (R306). -/
def endVisit (i : Fin 48) (s : State) : State :=
  let x := s.slots[i]
  let s1 := modSlot s i fun x => { Slot.reset with fm := x.fm, am := x.am }
  let own := s1.census.visits.find? fun v => v.slot == i.val
  let c := { s1.census with visits := s1.census.visits.filter fun v => v.slot != i.val }
  match own with
  | some v =>
    let more := if x.liveSpells.isEmpty then 0 else 1
    { s1 with census := closePasses s.now (modPass v.pass (fun p => { p with found := p.found + more }) c) }
  | none => { s1 with census := c }

/-- The end of a visit on a boundary (R305). -/
def visitEndRule (i : Fin 48) (s : State) : State := if visitEndDue s i then endVisit i s else s

/-- The visits that a host transaction ends before its changes take effect (R303): those on slot numbers it assigns, and
then, newest first, those that no longer fit in the state it produces. -/
def evictVisits (assigned : List (Fin 48)) (produce : State → State) (s : State) : State :=
  let s1 := assigned.foldl (fun s i => if s.slots[i].visit then endVisit i s else s) s
  (s1.census.visits.reverse).foldl (fun s v =>
    if visitsFit (produce s) then s
    else match finOf 48 v.slot with
      | some i => endVisit i s
      | none => s) s1

/-- `CENSUS_SET` applies; a census set off ends its visits, and a changed plan starts anew (R302). -/
def applyCensus (c : CensusCfg) (s : State) : State :=
  let o := s.census.cfg
  let same := o.fmStart == c.fmStart && o.fmStop == c.fmStop && o.fmRaster == c.fmRaster && o.dabMask == c.dabMask && o.on == c.on
  let s1 := if c.on then s else s.census.visits.foldl (fun s v => match finOf 48 v.slot with | some i => endVisit i s | none => s) s
  { s1 with census := if same then { s1.census with cfg := c }
      else { s1.census with cfg := c, planPos := 0, passNo := s1.census.passNo + 1, passes := [] } }

/-- What the census does at a stroke boundary: visits end, then new ones start. -/
def strokeCensus (s : State) : State :=
  let s1 := (List.finRange 48).foldl (fun s i => visitEndRule i s) s
  (List.range 8).foldl (fun s _ => visitStartRule s) s1

/-- A census rule as a command of its own, on a boundary, with its records latched. -/
def censusRow (rule : State → State) (s : State) : State :=
  if atBoundary s then
    let s1 := rule s
    { s1 with latch := { s1.latch with slots := s1.slots, census := s1.census } }
  else s

/-- CENSUS_VISIT_START (R303). -/
def execCensusVisitStart (s : State) : Out := .next (censusRow visitStartRule s)
/-- CENSUS_VISIT_END (R305). -/
def execCensusVisitEnd (i : Fin 48) (s : State) : Out := .next (censusRow (visitEndRule i) s)

/-- The payload of `CENSUS_STATUS_GET` (R306). -/
def censusStatus (s : State) : List Byte :=
  let c := s.latch.census
  let d := s.latch.db
  u64 s.latch.stroke ++ u8 c.visits.length ++ u32 c.lastCycleMs ++ u16 c.found
    ++ u16 (d.recs.filter fun r => r.body != .free).length ++ u16 (d.recs.filter fun r => r.body != .free && r.pinned).length
    ++ u32 d.overflow.toNat ++ u32 d.expired.toNat ++ u32 s.latch.side.padDgFailed.toNat ++ u32 s.latch.side.motAbandoned.toNat

end Sys2Proof.Machine
end

