-- ==== Sys2Proof/Machine/Gpio.lean ====
section
/-! DEFINITION. The eight GPIOs: their functions, levels and event inputs (15_aux_bus_gpio.md R531 to R536). -/

namespace Sys2Proof.Machine

/-- Parses `GPIO_SET` (R532, 13 bytes): `device`, the GPIO, its function and its parameters. -/
def parseGpioSet (p : List Byte) : Option (Bool × Fin 8 × Nat × GpioCfg) :=
  match finOf 8 (getU 1 1 p), finOf 3 (getU 1 8 p) with
  | some g, some input =>
    let fn := getU 1 2 p
    let c : GpioCfg := ⟨getU 1 3 p, getU 1 4 p == 1, getU 1 5 p == 1, getU 1 6 p == 1, getU 1 7 p == 1, input,
      getU 1 9 p == 1, getU 1 10 p, getU 2 11 p⟩
    if p.length = 13 ∧ getU 1 0 p ≤ 1 ∧ (fn = 0 ∨ fn = 1 ∨ fn = 4 ∨ fn = 5) ∧ c.pull ≤ 2 ∧ getU 1 4 p ≤ 1 ∧ getU 1 5 p ≤ 1
        ∧ getU 1 6 p ≤ 1 ∧ getU 1 7 p ≤ 1 ∧ getU 1 9 p ≤ 1 ∧ c.edge ≤ 2 ∧ c.debounceUs ≤ 10000 then
      some (getU 1 0 p == 1, g, fn, c)
    else none
  | _, _ => none

/-- The function of a GPIO (R531): the switch functions hold the GPIO that their command names. -/
def gpioFunction (s : State) (i : Fin 8) : Nat :=
  if s.link.feed.gpio = some i then 2 else if s.phy.cfg.trGpio = some i then 3 else s.gpio[i].function

/-- A GPIO that a switch function names is held by another function, on the state a transaction produces (R485, R509,
R531). -/
def switchClash (s : State) (i : Fin 8) : Bool :=
  s.gpio[i].function != 0 || (s.link.feed.gpio == some i && s.phy.cfg.trGpio == some i)

/-- The check of `LINK_FEED_SET` on the produced state (R509). -/
def judgeFeed (c : FeedCfg) (s : State) : Option Status :=
  match c.gpio with
  | some i => if switchClash s i then some .badState else none
  | none => if c.on then some .badState else none

/-- The checks of `LINK_PHY_SET` on the produced state (R485); `linkOff` is the link before the transaction. -/
def judgePhySet (remote : Bool) (c : PhyCfg) (recal linkOff : Bool) (s : State) : Option Status :=
  if c.duplex = 2 ∧ c.trGpio.isNone then some .badState
  else if recal && !linkOff then some .badState
  else match c.trGpio with
    | some i => if !remote && switchClash s i then some .badState else none
    | none => none

/-- The check of `GPIO_SET` on the produced state (R532, R535). -/
def judgeGpioSet (remote : Bool) (i : Fin 8) (fn : Nat) (s : State) : Option Status :=
  if remote then none
  else if gpioFunction s i = 2 ∨ gpioFunction s i = 3 then some .badState
  else if fn = 4 ∧ isLocal s then some .badState
  else none

/-- The half-duplex turn in which this end's switch is in transmit (R482, R483): from `tr_lead_us` before its first
ramp-up symbol to `tr_lag_us` after its last ramp-down symbol. -/
def trTransmit (s : State) : Bool :=
  let running := s.phy.half && (s.link.state == .halfDuplex || s.link.state == .measure || s.link.state == .load || s.link.state == .run)
  let first := if remoteEnd s then 200 else 0
  let last := if remoteEnd s then 1000 else 200
  -- the position in the superframe, in thousandths of a microsecond, and the same one superframe earlier
  let pos : Int := (s.now % 24576 * 1000000 / 24576 : Nat)
  let lead : Int := s.phy.cfg.trLeadUs * 1000
  let lag : Int := s.phy.cfg.trLagUs * 1000
  let inTurn (x : Int) : Bool := (first : Int) * 1000 - lead ≤ x && x < (last : Int) * 1000 + lag
  running && (inTurn pos || inTurn (pos - 1000000) || inTurn (pos + 1000000))

/-- A Bellows indicator is asserted (R535). -/
def bellowsShown (s : State) (c : GpioCfg) : Bool :=
  let x := s.inputs[c.input]
  x.enabled && (x.state == .overload || (c.orRecover && x.state == .recover))

/-- The level that a GPIO drives, none while it is an input (R531, R534, R535). -/
def drivenLevel (s : State) (i : Fin 8) : Option Bool :=
  let g := s.gpio[i]
  match gpioFunction s i with
  | 1 => some g.cfg.level
  | 2 => some (s.link.feed.on != s.link.feed.lowIsOn)
  | 3 => some (trTransmit s != s.phy.cfg.trLow)
  | 4 => some (bellowsShown s g.cfg != g.cfg.lowAsserts)
  | _ => none

/-- The level on the pin: what the device drives, unless an open drain is released (R531, R532). -/
def pinLevel (s : State) (i : Fin 8) : Bool :=
  match drivenLevel s i with
  | some d =>
    let openDrain := s.gpio[i].cfg.openDrain && (gpioFunction s i == 1 || gpioFunction s i == 4)
    if openDrain && d then s.gpio[i].pin else d
  | none => s.gpio[i].pin

/-- Every GPIO's driven level as it stands now. -/
def refreshGpio (s : State) : State :=
  { s with gpio := Vector.ofFn fun i => { s.gpio[i] with driven := drivenLevel s i } }

/-- `GPIO_SET` applies: an event input starts from the level on its pin (R532, R536). -/
def applyGpioSet (i : Fin 8) (fn : Nat) (c : GpioCfg) (s : State) : State :=
  refreshGpio { s with gpio := vmod s.gpio i fun g =>
    { g with cfg := c, function := fn, taken := g.pin, candidate := none, edges := 0 } }

/-- The release of a GPIO by a switch command: function 0 with no pull (R532). -/
def releaseGpio (old new : Option (Fin 8)) (s : State) : State :=
  match old with
  | some i => if new = some i then s else { s with gpio := vmod s.gpio i fun g => { g with cfg := GpioCfg.reset, function := 0 } }
  | none => s

/-- An event input takes a new level once it has held for `debounce_us` (R536). -/
def takeLevel (s : State) (g : Gpio) : Gpio :=
  match g.candidate with
  | some (lv, t) =>
    if usPassed s t g.cfg.debounceUs then
      let counts := (g.cfg.edge == 2) || (g.cfg.edge == 0 && lv) || (g.cfg.edge == 1 && !lv)
      if counts then
        { g with taken := lv, candidate := none, firstEdge := if g.edges = 0 then t else g.firstEdge, edges := g.edges + 1 }
      else { g with taken := lv, candidate := none }
    else g
  | none => g

/-- GPIO_DEBOUNCE_DONE (R536). -/
def execGpioDebounceDone (i : Fin 8) (s : State) : Out :=
  .next (if gpioFunction s i = 5 then { s with gpio := vmod s.gpio i (takeLevel s) } else s)

/-- GPIO_EDGE (R536): a transition on the pin; on an event input it starts the debounce, and a level that had already
held long enough is taken first. -/
def execGpioEdge (i : Fin 8) (level : Bool) (s : State) : Out :=
  let g := s.gpio[i]
  if g.pin = level then .next s
  else if gpioFunction s i = 5 then
    let g1 := takeLevel s g
    let g2 := { g1 with pin := level, candidate := if level = g1.taken then none else some (level, s.now) }
    .next { s with gpio := s.gpio.set i (takeLevel s g2) }
  else .next { s with gpio := s.gpio.set i { g with pin := level } }

/-- `EV_GPIO` of one GPIO for the stroke just ended (R536). -/
def gpioEvent (s : State) (i : Fin 8) : State :=
  let g := s.gpio[i]
  if g.edges = 0 then s
  else queueEventAt { s with gpio := s.gpio.set i { g with edges := 0 } } (s.latch.stroke * 24576) evGpio i.val
    (uBool (remoteEnd s) ++ uBool g.taken ++ u16 (min 65535 g.edges) ++ u64 g.firstEdge ++ zeros 4)

/-- What the GPIOs do at a stroke boundary: due debounces, then the events of the stroke just ended. -/
def strokeGpio (s : State) : State :=
  let s1 := { s with gpio := Vector.ofFn fun i => if gpioFunction s i = 5 then takeLevel s s.gpio[i] else s.gpio[i] }
  refreshGpio ((List.finRange 8).foldl gpioEvent s1)

/-- One entry of `GPIO_GET` (R564) from a latched GPIO; an input drives no level, whose byte is a free value. -/
def gpioEntry (s : State) (i : Fin 8) (fn : Nat) (pin : Bool) (g : Gpio) : List Byte :=
  u8 fn ++ uBool pin ++ (match g.driven with | some d => uBool d | none => [Config.freeByte (s.freeNext + i.val)])
    ++ u8 (if fn = 2 ∨ fn = 3 then 0 else g.cfg.pull)

/-- The state whose GPIO-related fields are the latched ones. -/
def latchedGpio (s : State) : State := { s with gpio := s.latch.gpio, link := s.latch.link, phy := s.latch.phy }

/-- `GPIO_GET` of this device, 40 bytes (R564). -/
def gpioStatus (s : State) : List Byte :=
  let t := latchedGpio s
  u64 s.latch.stroke ++ (List.finRange 8).flatMap fun i =>
    let pin := match t.gpio[i].driven with
      | some d => if t.gpio[i].cfg.openDrain && (gpioFunction t i == 1 || gpioFunction t i == 4) && d then t.gpio[i].pin else d
      | none => t.gpio[i].pin
    gpioEntry s i (gpioFunction t i) pin t.gpio[i]

/-- GPIO_GET. -/
def execGpioGet (ch : Fin 4) (s : State) : Out :=
  .next (serve ch 0x0B11 .read parseDevice (serveDevice gpioStatus) s)

end Sys2Proof.Machine
end

