-- ==== Sys2Proof/Machine/Split.lean ====
section
/-! DEFINITION. Split operation as seen by transactions and outages (14_split_operation.md): what the local forwards,
its own copies of what it forwards, outages and the link-layer configuration commands. -/

namespace Sys2Proof.Machine

/-! ### Boundary rows -/

/-- A rule that takes effect on the next stroke boundary acts at it, ahead of the latch of that boundary (R30, R49). -/
def toBoundary (s : State) : State := { s with now := max s.now ((s.latch.stroke + 1) * 24576) }

/-! ### The local's copies of remote slots (R502, R503) -/

/-- A slot of the local's mirror takes a state with no event and no count of its own: both are the remote's. A slot in
LINK_LOST leaves it only by a release, or with all the others when resynchronisation completes (R58, R508). -/
def mirrorSlotState (i : Fin 48) (new : SlotState) (s : State) : State :=
  if s.slots[i].state = .linkLost ∧ new ≠ .free then s
  else { setSlotStateAt (stampOf s) i new 0 s with evq := s.evq, counters := s.counters, trace := s.trace }

/-- A command that the local forwards to the remote (R502, R592): slot, front-end, Temper and census configuration,
what names `device` 1, and the RDS part of `SIDE_SET` while the link is in RUN. -/
def forwards (s : State) (c : Cfg) : Bool :=
  isLocal s && match c with
    | .feInputSet .. | .feBellowsSet .. | .temperSet .. | .temperRun .. | .temperRestore .. | .slotAssign .. | .slotRelease ..
    | .slotRetune .. | .slotStep .. | .slotFmSet .. | .slotAmSet .. | .censusSet .. => true
    | .pdSet remote .. | .dispatchSet remote .. | .auxCfgSet remote .. | .gpioSet remote .. | .traceSet remote .. => remote
    | .sideSet _ => linkUp s
    | _ => false

/-- A forwarded command that the local may not take while the link is not in RUN (R502); the RDS part of `SIDE_SET` is
excepted. -/
def needsLink (s : State) (c : Cfg) : Bool :=
  forwards s c && match c with
    | .sideSet _ => false
    | _ => true

/-- What the local's own part of a forwarded command does on the apply stroke: its copy of the slot (R502, R505). With the link
down the remote has discarded its part, and the copy stands as the outage left it (R505, R508); what the local itself does
with the command, the end of its recs and its RDS values, still takes effect. -/
def applyForwarded (c : Cfg) (s : State) : State :=
  if !linkUp s then
    match c with
    | .slotRelease i => stopSlotRecs i s
    | .sideSet v => applySideSet v s
    | _ => s
  else match c with
  | .slotAssign i t =>
    mirrorSlotState i .acquiring (modSlot s i fun x => { Slot.reset with tune := t, fm := x.fm, am := x.am, state := x.state })
  | .slotRelease i =>
    let s1 := mirrorSlotState i .free (stopSlotRecs i s)
    modSlot s1 i fun x => { Slot.reset with fm := x.fm, am := x.am }
  | .slotRetune i t =>
    let e := retuneEffect s.slots[i].tune t
    let s1 := modSlot s i fun x => { x with tune := t }
    if e.acquire then mirrorSlotState i .acquiring s1 else s1
  | .slotStep i k =>
    match stepFreq s.slots[i].tune k with
    | some f =>
      let s1 := modSlot s i fun x => { x with tune := { x.tune with freq := f } }
      if f = s.slots[i].tune.freq then s1 else mirrorSlotState i .acquiring s1
    | none => s
  | .slotFmSet i v => modSlot s i fun x => { x with fm := v }
  | .slotAmSet i v => modSlot s i fun x => { x with am := v }
  | .sideSet v => applySideSet v s
  | _ => s

/-! ### Outages (R57, R506, R507) -/

/-- Every remote slot enters LINK_LOST on one stroke (R57). -/
def loseSlots (s : State) : State :=
  (List.finRange 48).foldl (fun s i =>
    if s.slots[i].state = .free ∨ s.slots[i].state = .linkLost then s
    else setSlotStateAt (stampOf s) i .linkLost reasonLink s) s

/-- The transactions whose remote part is discarded because the link leaves RUN before their apply stroke (R505). -/
def discardParts (s : State) : State :=
  let ids := (s.accepted.filter fun a => a.cmds.any (forwards s)).map (·.id)
  { s with history := s.history.map fun h => if ids.contains h.id && !h.applied then { h with remoteDiscarded := true } else h }

/-- An outage begins (R57, R507): at the local the slots are lost and the outage is counted; the remote keeps its slots. -/
def beginOutage (s : State) : State :=
  if isLocal s ∧ linkUp s then
    let s1 := loseSlots (discardParts s)
    { s1 with link := { s1.link with outages := bump s1.link.outages 1, resync := false, returning := [] } }
  else s

/-- An outage for a reason (R507): the link moves to BEACON, or to OFF (R488). -/
def outage (reason : Nat) (s : State) : State := linkDown reason (beginOutage s)

/-- LINK_OUTAGE (R507): the first stroke boundary after the sync loss. -/
def outageRule (s : State) : State :=
  match s.link.outageDue with
  | some reason => outage reason { s with link := { s.link with outageDue := none } }
  | none => s

/-- LINK_OUTAGE. -/
def execLinkOutage (s : State) : Out :=
  if s.link.outageDue.isSome then .next (outageRule (toBoundary s)) else .next s

/-! ### Link-layer configuration (R487, R488, R509, R510) -/

/-- `LINK_STOP` applies (R487, R507). -/
def applyLinkStop (s : State) : State :=
  if s.link.state = .off then s else setLinkState .off reasonStop (beginOutage s)

/-- `LINK_SET` applies (R488): the windows act from the next entry to LOAD. -/
def applyLinkSet (c : LinkCfg) (s : State) : State := { s with link := { s.link with cfg := c } }

/-- `LINK_FEED_SET` applies (R509, R510): a feed that goes off while the link is not OFF begins an outage. -/
def applyFeed (c : FeedCfg) (s : State) : State :=
  let old := s.link.feed
  let s1 := releaseGpio old.gpio c.gpio { s with link := { s.link with feed := c } }
  if old.on ∧ !c.on ∧ s.link.state ≠ .off then outage reasonFeed s1 else s1

/-- `LINK_PHY_SET` applies (R484): at the local, `device` 1 sets the values that it holds for the remote and carries to it,
in RUN at once and otherwise with the next HANDSHAKE. -/
def applyLinkPhy (remote : Bool) (c : PhyCfg) (recal : Bool) (s : State) : State :=
  if remote then
    let s1 := applyRemotePhySet c s
    if linkUp s1 then
      enqueueAll s1 0x20 (controlFrames s1 (requestBytes ⟨0x0A10, 0, 28, 0, 0, 0, phySetBytes c⟩))
    else s1
  else
    let old := s.phy.cfg.trGpio
    let s1 := applyPhySet c recal s
    releaseGpio old s1.phy.cfg.trGpio s1

end Sys2Proof.Machine
end

