-- ==== Sys2Proof/Machine/Power.lean ====
section
/-! DEFINITION. Power domains and sleep (03_startup_power_identity.md R133 to R139): `PD_SET`, the switching of the
domains one by one, and `PWR_SLEEP`. -/

namespace Sys2Proof.Machine

/-! ### Switching (R134) -/

/-- The synthesiser follows PD7 as its switch begins (R135, R477). -/
def beginSwitch (s : State) : State :=
  match s.power.switching with
  | (7, true) :: _ => if s.phy.synth = .off then synthPower true s else s
  | (7, false) :: _ => synthPower false s
  | _ => s

/-- Domains are to be switched, each after those that wait: the first begins at once (R134). -/
def switchDomains (offs ons : List (Fin 8)) (s : State) : State :=
  let l := offs.map (fun d => (d, false)) ++ ons.map (fun d => (d, true))
  let idle := s.power.switching.isEmpty
  let mask (ds : List (Fin 8)) : Byte := ds.foldl (fun m d => m ||| pdBit d.val) 0
  let s1 := { s with power := { s.power with
    switching := s.power.switching ++ l
    commanded := (s.power.commanded &&& ~~~ mask offs) ||| mask ons
    onSince := ons.foldl (fun v (d : Fin 8) => v.set d (curStroke s)) s.power.onSince } }
  if idle then beginSwitch s1 else s1

/-- The order in which domains go off (R134). -/
def offOrder : List (Fin 8) := [7, 6, 3, 2, 5]

/-- One domain's switch completes (R134): its bit of `pd_on` changes, and the next switch begins. -/
def completeSwitch (s : State) : State :=
  match s.power.switching with
  | [] => s
  | (d, on) :: rest =>
    beginSwitch { s with
      host := { s.host with pdOn := if on then s.host.pdOn ||| pdBit d.val else s.host.pdOn &&& ~~~ pdBit d.val }
      power := { s.power with switching := rest } }

/-- PD_SWITCH_COMPLETE (R134, R135). -/
def execPdSwitchComplete (s : State) : Out := .next (completeSwitch s)

/-! ### PD_SET (R133 to R136) -/

/-- Parses `PD_SET`: `device`, `pd_mask`, `pd_state`; `device` 1 only in the local role, and neither PD0 nor PD1 (R133). -/
def parsePdSet (localRole : Bool) (p : List Byte) : Option (Bool × BitVec 8 × BitVec 8) :=
  let mask := BitVec.ofNat 8 (getU 1 1 p)
  if p.length = 3 ∧ getU 1 0 p ≤ 1 ∧ (getU 1 0 p = 0 ∨ localRole) ∧ mask &&& 0x03 = 0 then
    some (getU 1 0 p == 1, mask, BitVec.ofNat 8 (getU 1 2 p))
  else none

/-- A domain that the role turns off (R19, R32). -/
def domainOffInRole (s : State) (d : Fin 8) : Bool :=
  if isIntegrated s then d == 7 else if isRemote s then d == 6 else if isLocal s then d == 2 || d == 3 else false

/-- A domain that may not be powered off in a state (R135). -/
def domainHeld (s : State) (d : Fin 8) : Bool :=
  match d.val with
  | 2 => s.inputs[0].enabled || s.inputs[1].enabled
  | 3 => s.inputs[2].enabled
  | 4 => true
  | 5 => !(hostSlots s).isEmpty || s.outs.toList.any (·.cfg.run)
  | 6 => s.store.state == .mounted
  | 7 => s.link.state != .off
  | _ => false

/-- The domains that a command names with a state of one value. -/
def domainsOf (mask state : BitVec 8) (on : Bool) : List (Fin 8) :=
  (List.finRange 8).filter fun d => mask.getLsbD d.val && state.getLsbD d.val == on

/-- The refusals of `PD_SET` on the state the transaction produces (R135, R136). -/
def judgePdSet (mask state : BitVec 8) (after : State) : Option Status :=
  if (domainsOf mask state true).any (domainOffInRole after) || (domainsOf mask state false).any (domainHeld after) then
    some .badState
  else none

/-- The domains to switch, in an order of R134. -/
def inOrder (order : List (Fin 8)) (ds : List (Fin 8)) : List (Fin 8) := order.filter fun d => ds.contains d

/-- `PD_SET` applies: off in the order PD7, PD6, PD3, PD2, PD5, then on in the order PD5, PD2, PD3, PD6, PD7 (R134). -/
def applyPdSet (mask state : BitVec 8) (s : State) : State :=
  let offs := (domainsOf mask state false).filter fun d => domainOn s d
  let ons := (domainsOf mask state true).filter fun d => !domainOn s d
  switchDomains (inOrder offOrder offs) (inOrder [5, 2, 3, 6, 7] ons) s

/-- What the `PD_SET`s of one transaction come to together: a domain that several of them name takes the state of the last
(R134, R135). -/
def mergePd (l : List (BitVec 8 × BitVec 8)) : BitVec 8 × BitVec 8 :=
  l.foldl (fun acc e => (acc.1 ||| e.1, (acc.2 &&& ~~~e.1) ||| (e.2 &&& e.1))) (0, 0)

/-! ### PWR_SLEEP (R137 to R139) -/

/-- The refusals of `PWR_SLEEP` on the state the transaction produces (R137); `ch` is the channel that carries it. -/
def judgeSleep (ch : Fin 4) (after : State) : Option Status :=
  let open_ := (List.finRange 4).any fun c => c != ch && after.txns[c].isSome
  if !(hostSlots after).isEmpty || after.outs.toList.any (·.cfg.run)
      || after.store.state == .mounted || after.link.state != .off || after.db.snaps.toList.any (·.isSome) || open_
      || isRemote after then
    some .badState
  else none

/-- What the ROM starts by its boot source (R115, R119, R122): the phase it enters and the domains it powers. -/
def startSource (s : State) : State :=
  match s.host.bootsel.toNat with
  | 0 => { s with boot := { s.boot with phase := .hostLoad } }
  | 1 => switchDomains [] [4, 6] { s with boot := { s.boot with phase := .nandBoot } }
  | 2 => setLinkState .beacon reasonStart (switchDomains [] [4, 7] { s with boot := { s.boot with phase := .linkBoot } })
  | _ => { s with boot := { s.boot with phase := .reservedSource } }

/-- Every request that waits gets its one response (R89) as sleep takes the firmware away: `ST_ABORTED` (DEDUCED, log entry
37), but for one POSTED on channel 0, which the ROM takes. Channels 1 to 3 are then disabled (R137). -/
def sleepChannels (s : State) : State :=
  let s1 := (List.finRange 4).foldl (fun t ch =>
    if t.chan[ch] = .active ∨ (t.chan[ch] = .posted ∧ ch ≠ 0) then respond ch .aborted (abortPayload t ch) t else t) s
  { s1 with
    chan := #v[s1.chan[0], .disabled, .disabled, .disabled]
    ringOrder := s1.ringOrder.filter (· == 0)
    abortPending := s1.abortPending &&& 0x1
    ops := Vector.replicate 4 none }

/-- `PWR_SLEEP` applies (R137 to R139): every domain but PD0 and PD1 goes off and the ROM runs the boot source. What PD0
and PD1 keep stays: the registers of PD0, the role, device time, the event ring and what waits for it, the counters and
the generation number; every setting of the firmware is at its reset value. -/
def applySleep (s0 : State) : State :=
  let s := sleepChannels s0
  let g (i : Fin 8) : Gpio := { Gpio.reset with pin := s.gpio[i].pin, taken := s.gpio[i].pin }
  let k : State := { State.reset with
    now := s.now, pd1 := s.pd1, pins := s.pins, otp := s.otp, rom := s.rom, mem := s.mem
    host := { s.host with fwReady := false, pdOn := 0x03 }
    chan := s.chan, abortPending := s.abortPending, ringOrder := s.ringOrder
    nextTxn := s.nextTxn, evq := s.evq, evSeq := s.evSeq, resetAt := s.resetAt
    boot := { Boot.reset with slept := true }
    counters := s.counters, counterLatch := s.counterLatch
    db := { Db.reset with generation := s.db.generation }
    dispatch := { DispatchUnit.reset with accruedTo := s.now }
    gpio := Vector.ofFn g
    media := s.media, latch := { Latch.reset with stroke := s.latch.stroke }
    freeNext := s.freeNext, pending := s.pending }
  startSource (setFwStage k 0x10)

end Sys2Proof.Machine
end

