-- ==== Sys2Proof/Machine/Boot.lean ====
section
/-! DEFINITION. Reset, start-up, the boot sources, role confirmation, identity and faults (03_startup_power_identity.md,
R108 to R129, R140 to R142; R561, R562, R564). -/

namespace Sys2Proof.Machine

/-! ### Reset (R108 to R112, R573, R574) -/

/-- What the NAND holds after a reset: a format cut short leaves no system page (R419). -/
def mediaNow (s : State) : Media :=
  if s.store.state = .formatting then { s.media with pages := s.media.pages.filter fun x => !(x.block == 2 || x.block == 3) }
  else s.media

/-- Every block in every domain is reset (R108): what OTP, the pins and the NAND hold stays, and so do the model's own
fields. -/
def resetDevice (s : State) : State :=
  { State.reset with otp := s.otp, rom := s.rom, pins := s.pins, media := mediaNow s, freeNext := s.freeNext, pending := s.pending }

/-- The release of reset (R60, R112): the straps are sampled, the host port is active, and the PLLs start. -/
def releaseReset (s : State) : State :=
  { s with
    boot := { s.boot with phase := .pllStart }
    host := { s.host with bootsel := s.pins.bootsel, hifSpi := s.pins.hifsel, i2cAddrSel := s.pins.haddr } }

/-- RESET_N_ASSERT (R108, R574): a low pulse of at least 10 µs resets the device, one of at most 1 µs is ignored, and what
lies between is the device's choice. -/
def execResetNAssert (lowNs : Nat) (s : State) : Out :=
  if lowNs ≤ 1000 then .next s
  else if 10000 ≤ lowNs ∨ Config.resetPulse lowNs then
    .next { resetDevice s with pins := { s.pins with resetN := false } }
  else .next s

/-- POWER_ON_MONITOR_RESET (R108, R573). -/
def execPowerOnMonitorReset (s : State) : Out := .next (resetDevice s)

/-- RESET_RELEASE (R112): RESET_N rises. -/
def execResetRelease (s : State) : Out :=
  if s.boot.phase = .inReset then .next (releaseReset { s with pins := { s.pins with resetN := true } }) else .next s

/-- PLL_LOCK_ROM_START (R27, R112): PD1 leaves reset and device time starts at zero. -/
def execPllLockRomStart (s : State) : Out :=
  if s.boot.phase = .pllStart then .next { s with pd1 := true, now := 0, boot := { s.boot with phase := .otpCheck } }
  else .next s

/-- OTP_CHECK_DONE (R112 to R115): `fw_stage` 0x1E when the check fails, else the boot source starts at 0x10. -/
def execOtpCheckDone (s : State) : Out :=
  if s.boot.phase ≠ .otpCheck then .next s
  else if !s.otp.ok then .next (setFwStage { s with boot := { s.boot with phase := .otpFailed } } 0x1E)
  else .next (startSource (setFwStage s 0x10))

/-- The reset that `SYS_RESET` scheduled (R109): the straps are sampled again. -/
def takeReset (s : State) : State := releaseReset (resetDevice s)

/-- The scheduled reset comes no later than the next boundary. -/
def resetDue (s : State) : Bool := s.resetAt.any (· ≤ s.latch.stroke + 1)

/-- SYS_RESET_TAKES_EFFECT (R109). -/
def execSysResetTakesEffect (s : State) : Out := if resetDue s then .next (takeReset s) else .next s

/-- SYS_RESET (R109): `ST_OK`, and reset at the first stroke boundary at least 1 ms after the response. -/
def execSysReset (ch : Fin 4) (s : State) : Out :=
  .next (serve ch 0x0102 .immediate noPayload
    (fun _ _ s => .answer .ok [] { s with resetAt := some (strokeFrom (s.now + 24576)) }) s)

/-! ### Host load (R116 to R118, R124, R125) -/

/-- An image starts: `fw_stage` 0x20, on the way to 0x30 (R126). -/
def startImage (image : List Byte) (s : State) : State :=
  setFwStage { s with boot := { s.boot with phase := .starting, image := image, fw := imageVersion image } } 0x20

/-- `fw_stage` passes 0x1E as an image is discarded (R120, R125). -/
def rejectImage (s : State) : State :=
  setFwStage { s with boot := { s.boot with phase := .rejected, image := [] } } 0x1E

/-- BOOT_BEGIN (R116, R125): any image received is discarded, PD4 is on, and `fw_stage` is 0x10. -/
def beginBoot (s : State) : State :=
  let s1 := setFwStage { s with boot := { s.boot with phase := .hostLoad, image := [] } } 0x10
  { s1 with
    host := { s1.host with pdOn := s1.host.pdOn ||| pdBit 4 }
    power := { s1.power with commanded := s1.power.commanded ||| pdBit 4 } }

/-- BOOT_BEGIN. -/
def execBootBegin (ch : Fin 4) (s : State) : Out :=
  .next (serve ch 0x0201 .immediate noPayload (fun _ _ s => .answer .ok [] (beginBoot s)) s)

/-- Parses `BOOT_DATA`: `offset`, 4 reserved bytes, 16 to 480 image bytes in multiples of 16. -/
def parseBootData (p : List Byte) : Option (Nat × List Byte) :=
  if 24 ≤ p.length ∧ p.length ≤ 488 ∧ p.length % 16 = 8 ∧ zeroAt 4 4 p then some (getU 4 0 p, p.drop 8) else none

/-- A chunk (R117): in order, and not past 256 + `body_length` once the header is in. -/
def takeChunk (offset : Nat) (data : List Byte) (s : State) : Served :=
  let have_ := s.boot.image
  let all := have_ ++ data
  if offset ≠ have_.length then refuse .badParam s
  else if 256 ≤ all.length ∧ 256 + getU 4 0x10 all < all.length then refuse .badParam s
  else .answer .ok [] { s with boot := { s.boot with image := all } }

/-- BOOT_DATA. -/
def execBootData (ch : Fin 4) (s : State) : Out :=
  .next (serve ch 0x0202 .immediate parseBootData (fun a _ s => takeChunk a.1 a.2 s) s)

/-- The version fields of a `BOOT_END` response. -/
def versionBytes (v : FwVersion) : List Byte :=
  u8 v.major.toNat ++ u8 v.minor.toNat ++ u16 v.patch.toNat ++ u32 v.security.toNat

/-- BOOT_END (R118, R124): authentication begins at `fw_stage` 0x11. -/
def execBootEnd (ch : Fin 4) (s : State) : Out :=
  .next (serve ch 0x0203 .long noPayload (fun _ _ s =>
    .wait ⟨.bootEnd, false, s.now⟩
      (if imageOk s.otp s.rom s.boot.image then (.ok, versionBytes (imageVersion s.boot.image)) else (.authFail, []))
      (setFwStage { s with boot := { s.boot with phase := .authenticating } } 0x11)) s)

/-- The channel whose `BOOT_END` is in progress. -/
def bootEnding (s : State) : Option (Fin 4) :=
  (List.finRange 4).find? fun ch => match opOf s ch with | some o => o.op == .bootEnd | none => false

/-- BOOT_AUTH_DONE (R118, R124, R125): authentication ends. An abort that landed before it keeps the loaded image; a
failure discards it; a pass is the commit point and starts the firmware. The response to a pass follows (`answerBoot`), so
that an abort may still land between the mark and the response. -/
def execBootAuthDone (s : State) : Out :=
  match bootEnding s with
  | none => .next s
  | some ch =>
    if committed s ch then .next s
    else if abortLanded s ch then
      .next (respond ch .aborted [] (setFwStage { s with boot := { s.boot with phase := .hostLoad } } 0x10))
    else if imageOk s.otp s.rom s.boot.image then
      .next (startImage s.boot.image (markCommitted s ch))
    else .next (respond ch .authFail [] (rejectImage s))

/-- S0 answers the `BOOT_END` whose image has been accepted: `ST_OK`, or `ST_ALREADY_DONE` when an abort has landed since the
mark (R94, R118). It does so as time passes, before the firmware serves channel 0 (R126). -/
def answerBoot (s : State) : State :=
  match bootEnding s with
  | some ch => if committed s ch then completeOp ch (versionBytes s.boot.fw) s else s
  | none => s

/-! ### NAND boot and link boot (R119 to R122) -/

/-- The longest image of R123. -/
def longestImage : Nat := 786688

/-- Copy `k` of the boot image as the ROM reads it (R119, R121): from page 0 of block `k` of CE0 upwards, through the BCH
code, with the bits that are read wrong in each codeword; the header says how far it reaches. The parameter page gives the
geometry. None when a codeword is uncorrectable. -/
def readBootCopy (m : Media) (k : Nat) (wrong : List (List Nat)) : Option (List Byte) :=
  m.ce0.bind fun g =>
    let word (n : Nat) : Option (List Byte) :=
      (fetchCodeword [] g (cellsAt m g ⟨0, k, n / max 1 (codewordsOf g)⟩) (n % max 1 (codewordsOf g)) (wrong.getD n [])).map (·.1)
    (word 0).bind fun header =>
      let total := 256 + getU 4 0x10 header
      if longestImage < total then none
      else ((List.range (ceilDiv total codewordBytes)).mapM word).map fun l => l.flatten.take total

/-- The first boot copy that reads and authenticates (R119). -/
def bootImage (wrong : List (List (List Nat))) (s : State) : Option (List Byte) :=
  [0, 1].findSome? fun k =>
    (readBootCopy s.media k (wrong.getD k [])).bind fun img => if imageOk s.otp s.rom img then some img else none

/-- PD6 goes off again at the end of a NAND boot, before `fw_stage` moves on (R119, R120, R131). -/
def powerOffNand (s : State) : State :=
  { s with
    host := { s.host with pdOn := s.host.pdOn &&& ~~~ pdBit 6 }
    power := { s.power with commanded := s.power.commanded &&& ~~~ pdBit 6 } }

/-- NAND_BOOT_DONE (R119, R120): an accepted copy starts; when both fail, the ROM passes 0x1E and serves host load. -/
def execNandBootDone (wrong : List (List (List Nat))) (s : State) : Out :=
  if s.boot.phase ≠ .nandBoot ∨ !pdIsOn s 4 ∨ !pdIsOn s 6 then .next s
  else match bootImage wrong s with
    | some img => .next (startImage img (powerOffNand s))
    | none =>
      let s1 := powerOffNand (rejectImage s)
      .next (setFwStage { s1 with boot := { s1.boot with phase := .hostLoad } } 0x10)

/-- LINK_BOOT_IMAGE_RECEIVED (R122): the remote authenticates the image that has arrived from the local and runs it, or returns
to BEACON. -/
def execLinkBootImageReceived (s : State) : Out :=
  if s.boot.phase ≠ .linkBoot ∨ !linkUp s then .next s
  else match s.link.imageIn with
    | none => .next s
    | some image =>
      let s1 := { s with link := { s.link with imageIn := none } }
      if imageOk s.otp s.rom image then .next (startImage image s1) else .next (setLinkState .beacon reasonAuth s1)

/-! ### Firmware and role (R126 to R129, R138, R139) -/

/-- `fw_stage` 0x31: the device is confirmed in a role, and the domains that the role turns off go off (R19). -/
def confirmRole (role : BitVec 2) (s : State) : State :=
  let s1 := setFwStage { s with host := { s.host with role := role } } 0x31
  switchDomains (offOrder.filter fun d => domainOn s1 d && domainOffInRole s1 d) [] s1

/-- FIRMWARE_READY (R126, R138, R139): stage 0x30, channels 1 to 3 IDLE and `fw_ready`; after a sleep the role stands, and
one step of the generation is reported at 0x31. -/
def execFirmwareReady (s : State) : Out :=
  if s.boot.phase ≠ .starting then .next s
  else
    let s := answerBoot s
    let s1 := setFwStage { s with
      host := { s.host with fwReady := true }
      chan := #v[s.chan[0], .idle, .idle, .idle]
      boot := { s.boot with phase := .running } } 0x30
    if s.boot.slept ∧ s.host.role ≠ roleNone then
      let g := s1.db.generation + 1
      let s2 := confirmRole s1.host.role { s1 with db := { s1.db with generation := g } }
      .next (queueEvent s2 evDbGeneration 0xFFFF (u32 g.toNat ++ u32 1 ++ u32 0))
    else .next s1

/-- Parses `ROLE_CONFIRM`: 1 integrated, 3 local. -/
def parseRole (p : List Byte) : Option (BitVec 2) :=
  if p.length = 1 ∧ (getU 1 0 p = 1 ∨ getU 1 0 p = 3) then some (BitVec.ofNat 2 (getU 1 0 p)) else none

/-- ROLE_CONFIRM (R115, R128): a boot source that allows only the remote role refuses; a role once confirmed stands. -/
def execRoleConfirm (ch : Fin 4) (s : State) : Out :=
  .next (serve ch 0x0210 .immediate parseRole (fun role _ s =>
    if s.host.bootsel = 2 then refuse .badParam s
    else if s.host.role ≠ roleNone then refuse .badState s
    else .answer .ok [] (refreshQueues (confirmRole role s))) s)

/-- The message that confirms a remote: a `ROLE_CONFIRM` request naming the remote role (R129; log entry 23). -/
def roleMessage : List Byte := requestBytes ⟨0x0210, 0, 1, 0, 0, 0, [0x02]⟩

/-- REMOTE_ROLE_CONFIRM (R129): a confirmed local sends the confirmation once the remote has reported that its firmware
reached 0x30, and again while it has not reported 0x31; the remote that takes it is confirmed. -/
def execRemoteRoleConfirm (s : State) : Out :=
  if isLocal s then
    let ps := controlFrames s roleMessage
    if linkUp s ∧ s.link.remoteStage = 0x30 ∧ roomFor s 0x20 ps then .next (enqueueAll s 0x20 ps) else .next s
  else if s.host.bootsel = 2 ∧ s.host.role = roleNone ∧ s.host.fwStage = 0x30 ∧ linkUp s then
    .next (refreshQueues (confirmRole roleRemote s))
  else .next s

/-! ### System information and identity (R140 to R142, R564) -/

/-- `SYS_INFO`, 32 bytes (R564): the version of the image reads 0 while the ROM runs. -/
def sysInfo (s : State) : List Byte :=
  (if s.host.fwStage.toNat < 0x20 then zeros 8 else versionBytes s.boot.fw)
    ++ u64 s.otp.serial.toNat ++ u32 s.otp.minSecurity.toNat ++ uBool s.otp.key0Revoked ++ u8 s.host.role.toNat
    ++ u8 0xB0 ++ u8 s.host.fwStage.toNat ++ u64 s.now

/-- SYS_INFO. -/
def execSysInfo (ch : Fin 4) (s : State) : Out :=
  .next (serve ch 0x0101 .read noPayload (fun _ _ s => .answer .ok (sysInfo s) s) s)

/-- Parses `ID_GET_CERT`: `offset`. -/
def parseOffset (p : List Byte) : Option Nat := if p.length = 2 then some (getU 2 0 p) else none

/-- ID_GET_CERT (R140): up to 480 bytes of the certificate from an offset. -/
def execIdGetCert (ch : Fin 4) (s : State) : Out :=
  .next (serve ch 0x0C01 .read parseOffset (fun off _ s =>
    let part := (s.otp.cert.drop off).take 480
    if s.otp.cert.length ≤ off then refuse .badParam s
    else .answer .ok (u16 s.otp.cert.length ++ u16 part.length ++ part) s) s)

/-- A nonce of 32 bytes. -/
def parseNonce (p : List Byte) : Option (List Byte) := if p.length = 32 then some p else none

/-- The nonce that a channel's `ID_CHALLENGE` in progress signs. -/
def nonceOf (s : State) (ch : Fin 4) : Option (List Byte) :=
  match opOf s ch with
  | some o => (match o.op with | .idChallenge n => some n | _ => none)
  | none => none

/-- ID_CHALLENGE (R142): one at a time, device-wide. -/
def execIdChallenge (ch : Fin 4) (s : State) : Out :=
  .next (serve ch 0x0C02 .immediate parseNonce (fun nonce _ s =>
    if (List.finRange 4).any fun c => (nonceOf s c).isSome then refuse .busy s
    else .wait ⟨.idChallenge nonce, true, s.now⟩ (dryOk s 72) s) s)

/-- The 72-byte message that the device signs (R142). -/
def challengeMessage (nonce : List Byte) (s : State) : List Byte :=
  [0x46, 0x53, 0x4D, 0x34, 0x38, 0x34, 0x38, 0x20, 0x69, 0x64, 0x65, 0x6E, 0x74, 0x69, 0x74, 0x79]
    ++ nonce ++ u64 s.otp.serial.toNat ++ u64 s.now ++ u8 s.host.role.toNat ++ u8 s.boot.fw.major.toNat
    ++ u8 s.boot.fw.minor.toNat ++ u8 0 ++ u16 s.boot.fw.patch.toNat ++ u16 0

/-- ID_CHALLENGE_SIGNED (R142): the response carries the device time that was signed and the signature. -/
def execIdChallengeSigned (s : State) : Out :=
  match (List.finRange 4).findSome? fun c => (nonceOf s c).map fun n => (c, n) with
  | some (c, n) => .next (completeOp c (u64 s.now ++ deviceSign s (challengeMessage n s)) { s with freeNext := s.freeNext + 1 })
  | none => .next s

/-! ### Faults (R562, R564) -/

/-- One held fault, 16 bytes. -/
def faultBytes (f : FaultRec) : List Byte := u16 f.code.toNat ++ u16 f.object.toNat ++ u32 f.detail.toNat ++ u64 f.timestamp

/-- `FAULT_GET`, 140 bytes, from the latched record (R564). -/
def faultStatus (s : State) : List Byte :=
  let l := s.latch.faults.take 8
  u64 s.latch.stroke ++ u8 l.length ++ u8 s.latch.faultsLost ++ zeros 2 ++ l.flatMap faultBytes ++ zeros (128 - 16 * l.length)

/-- FAULT_GET. -/
def execFaultGet (ch : Fin 4) (s : State) : Out :=
  .next (serve ch 0x0120 .read noPayload (fun _ _ s => .answer .ok (faultStatus s) s) s)

/-- FAULT_ACK (R562). -/
def execFaultAck (ch : Fin 4) (s : State) : Out :=
  .next (serve ch 0x0121 .immediate noPayload (fun _ _ s => .answer .ok [] { s with faults := [], faultsLost := 0 }) s)

end Sys2Proof.Machine
end

