-- ==== Sys2Proof/Machine/Forward.lean ====
section
/-! DEFINITION. Forwarded configuration commands as their request payloads (14_split_operation.md R502, R505): the bytes that
the local sends of each command that it forwards (R556), and the command that the remote reads from them. -/

namespace Sys2Proof.Machine

/-- A quality-control function as `SLOT_FM_SET` carries it (R231). -/
def putFn (f : FnCfg) : List Byte :=
  s16 f.levelStart ++ s16 f.levelStop ++ u16 f.usnStart ++ u16 f.usnStop ++ u16 f.mpStart ++ u16 f.mpStop
    ++ u16 f.attackMs ++ u16 f.releaseMs ++ u16 f.limit

/-- A quality-control function as `SLOT_AM_SET` carries it (R238). -/
def putAmFn (f : FnCfg) : List Byte :=
  s16 f.levelStart ++ s16 f.levelStop ++ u16 f.attackMs ++ u16 f.releaseMs ++ u16 f.limit

/-- The fields of `SLOT_ASSIGN` and `SLOT_RETUNE` (R206). -/
def putTune (i : Fin 48) (t : SlotTune) : List Byte :=
  u8 i.val ++ u8 (typeCode t.type) ++ u8 t.input.val ++ u32 t.freq ++ uBool t.minChain ++ u32 t.raster

/-- The fields of `SLOT_FM_SET` (R231, R232). -/
def putFm (i : Fin 48) (c : FmCfg) : List Byte :=
  u8 i.val ++ zeros 1 ++ putFn c.mute ++ putFn c.highcut ++ putFn c.blend ++ uBool c.bwFixedMode ++ u8 c.bwFixed
    ++ u8 c.bwWidest ++ u8 c.bwNarrowest ++ s16 c.adjNarrow ++ s16 c.adjWiden ++ u16 c.widenMs ++ uBool c.forcedMono
    ++ uBool c.deemph75 ++ s16 c.detectDbuv ++ u16 c.lossMs

/-- The fields of `SLOT_AM_SET` (R238). -/
def putAm (i : Fin 48) (c : AmCfg) : List Byte :=
  u8 i.val ++ zeros 1 ++ uBool c.bwFixedMode ++ u8 c.bwFixed ++ u8 c.bwWidest ++ u8 c.bwNarrowest ++ s16 c.adjNarrow
    ++ s16 c.adjWiden ++ u16 c.widenMs ++ u8 c.detector ++ uBool c.nbEnable ++ u16 c.nbThreshold ++ u16 c.nbWidthUs
    ++ u16 c.nbMaxDuty ++ putAmFn c.mute ++ putAmFn c.highcut ++ s16 c.detectDbuv ++ u16 c.lossMs

/-- The fields of `FE_BELLOWS_SET` (R156). -/
def putBellows (i : Fin 3) (c : BellowsCfg) : List Byte :=
  u8 i.val ++ uBool c.manual ++ u8 c.manualGi ++ u8 c.giHigh ++ u8 c.giLow ++ s16 c.target ++ s16 c.upper ++ s16 c.lower
    ++ u16 c.upHoldMs ++ u16 c.recoverMs ++ u8 c.clipLimit

/-- The fields of `CENSUS_SET` (R302). -/
def putCensus (c : CensusCfg) : List Byte :=
  uBool c.on ++ u8 c.maxVisits ++ uBool c.inputB ++ u32 c.fmStart ++ u32 c.fmStop ++ u32 c.fmRaster ++ u64 c.dabMask.toNat
    ++ u16 c.fmDwellMs ++ u16 c.dabDwellMs

/-- The fields of `GPIO_SET` (R532). -/
def putGpio (remote : Bool) (g : Fin 8) (fn : Nat) (c : GpioCfg) : List Byte :=
  uBool remote ++ u8 g.val ++ u8 fn ++ u8 c.pull ++ uBool c.openDrain ++ uBool c.strong ++ uBool c.level ++ uBool c.lowAsserts
    ++ u8 c.input.val ++ uBool c.orRecover ++ u8 c.edge ++ u16 c.debounceUs

/-- The request payload of a command that can be forwarded (R502, R556); empty for any other. -/
def cfgPayload : Cfg → List Byte
  | .pdSet remote mask state => uBool remote ++ u8 mask.toNat ++ u8 state.toNat
  | .feInputSet i enable highZ => u8 i.val ++ uBool enable ++ uBool highZ ++ zeros 1
  | .feBellowsSet i c => putBellows i c
  | .temperSet i c => u8 i.val ++ uBool c.background ++ u16 c.tempDelta ++ u16 c.maxIntervalS
  | .temperRun i foreground => u8 i.val ++ uBool foreground
  | .temperRestore i blob => u8 i.val ++ zeros 3 ++ blob.bytes
  | .slotAssign i t => putTune i t
  | .slotRelease i => u8 i.val
  | .slotRetune i t => putTune i t
  | .slotStep i k => u8 i.val ++ s16 k
  | .slotFmSet i c => putFm i c
  | .slotAmSet i c => putAm i c
  | .sideSet c => uBool c.rbds ++ u8 c.correct ++ u8 c.padOutputs.toNat ++ u16 c.dbEventMs ++ u32 c.expiryS
  | .censusSet c => putCensus c
  | .dispatchSet remote c => uBool remote ++ u8 c.first ++ u8 c.last ++ u32 c.rate ++ u32 c.burst ++ u16 c.overhead
  | .auxCfgSet remote r => uBool remote ++ zeros 3 ++ u32 r.ctrl.toNat ++ u32 r.timing0.toNat ++ u32 r.timing1.toNat ++ u32 r.timeout.toNat
  | .gpioSet remote g fn c => putGpio remote g fn c
  | .traceSet remote c => uBool remote ++ uBool c.enable ++ u8 c.clkDiv ++ u16 c.typeMask.toNat ++ u8 c.fwLevel ++ u64 c.slotMask.toNat
  | _ => []

/-- The command that a remote reads from an opcode and a payload (R502, R556); the serial number is its own (R198). -/
def cfgOf (serial opcode : Nat) (p : List Byte) : Option Cfg :=
  match opcode with
  | 0x0220 => (parsePdSet true p).map fun a => .pdSet a.1 a.2.1 a.2.2
  | 0x0301 => (parseFeInput p).map fun a => .feInputSet a.1 a.2.1 a.2.2
  | 0x0302 => (parseBellows p).map fun a => .feBellowsSet a.1 a.2
  | 0x0310 => (parseTemperSet p).map fun a => .temperSet a.1 a.2
  | 0x0311 => (parseTemperRun p).map fun a => .temperRun a.1 a.2
  | 0x0313 => (parseTemperRestore serial p).map fun a => .temperRestore a.1 a.2
  | 0x0401 => (parseTune p).map fun a => .slotAssign a.1 a.2
  | 0x0402 => (indexPayload 48 p).map fun i => .slotRelease i
  | 0x0403 => (parseTune p).map fun a => .slotRetune a.1 a.2
  | 0x0405 => (parseStep p).map fun a => .slotStep a.1 a.2
  | 0x0410 => (parseFmSet p).map fun a => .slotFmSet a.1 a.2
  | 0x0420 => (parseAmSet p).map fun a => .slotAmSet a.1 a.2
  | 0x0510 => (parseSideSet p).map fun v => .sideSet v
  | 0x0520 => (parseCensus p).map fun v => .censusSet v
  | 0x0901 => (parseDispatchSet p).map fun a => .dispatchSet a.1 a.2
  | 0x0B01 => (parseAuxCfg p).map fun a => .auxCfgSet a.1 a.2
  | 0x0B10 => (parseGpioSet p).map fun a => .gpioSet a.1 a.2.1 a.2.2.1 a.2.2.2
  | 0x0D01 => (parseTraceSet p).map fun a => .traceSet a.1 a.2
  | _ => none

end Sys2Proof.Machine
end

