-- ==== Sys2Proof/Machine/Txn.lean ====
section
/-! DEFINITION. Transactions (01_architecture.md R37, R43 to R48; 02_host_port_mailbox.md R95 to R99; R505, R552, R553,
R561): what each configuration command is judged by and does, the order inside a transaction, acceptance and
application, and the transaction commands. -/

namespace Sys2Proof.Machine

/-! ### The commands of a transaction -/

/-- The opcode of a configuration command (R556). -/
def cfgOpcode : Cfg → Nat
  | .bulkUnmap => 0x0130 | .pdSet .. => 0x0220 | .pwrSleep => 0x0230
  | .feInputSet .. => 0x0301 | .feBellowsSet .. => 0x0302
  | .temperSet .. => 0x0310 | .temperRun .. => 0x0311 | .temperRestore .. => 0x0313
  | .slotAssign .. => 0x0401 | .slotRelease .. => 0x0402 | .slotRetune .. => 0x0403 | .slotStep .. => 0x0405
  | .slotFmSet .. => 0x0410 | .slotAmSet .. => 0x0420
  | .sideSet .. => 0x0510 | .sideStreamSet .. => 0x0511 | .censusSet .. => 0x0520
  | .followSet .. => 0x0601
  | .portSet .. => 0x0701 | .outSet .. => 0x0703 | .outMapSet .. => 0x0704 | .outFilterSet .. => 0x0705
  | .outFilterSwap .. => 0x0706 | .outDetectSet .. => 0x0707
  | .storeUnmount => 0x0803 | .storeRecordSet .. => 0x0805 | .cursorSet .. => 0x0807 | .exportSet .. => 0x0809
  | .storeMaintSet .. => 0x080A
  | .dispatchSet .. => 0x0901 | .policeSet .. => 0x0903
  | .linkStart => 0x0A01 | .linkStop => 0x0A02 | .linkSet .. => 0x0A03 | .linkFeedSet .. => 0x0A04 | .linkPhySet .. => 0x0A10
  | .auxCfgSet .. => 0x0B01 | .gpioSet .. => 0x0B10 | .traceSet .. => 0x0D01

/-- What a configuration command does on this device on its apply stroke (R30, R43). -/
def applyCfg (c : Cfg) (s : State) : State :=
  match c with
  | .bulkUnmap => applyUnmap s
  | .pdSet _ mask state => applyPdSet mask state s
  | .pwrSleep => applySleep s
  | .feInputSet i enable highZ => applyFeInput i enable highZ s
  | .feBellowsSet i v => applyBellows i v s
  | .temperSet i v => applyTemperSet i v s
  | .temperRun i foreground => applyTemperRun i foreground s
  | .temperRestore i blob => applyTemperRestore i blob s
  | .slotAssign i t => applyAssign i t s
  | .slotRelease i => if s.slots[i].visit then s else applyRelease i (stopSlotRecs i s)
  | .slotRetune i t => applyTune i t s
  | .slotStep i k => applyStep i k s
  | .slotFmSet i v => applyFmSet i v s
  | .slotAmSet i v => applyAmSet i v s
  | .sideSet v => applySideSet (if isRemote s then { s.side.cfg with rbds := v.rbds, correct := v.correct } else v) s
  | .sideStreamSet v => applySideStream v s
  | .censusSet v => applyCensus v s
  | .followSet o v => applyFollowSet o v s
  | .portSet p v => applyPortSet p v s
  | .outSet o v => applyOutSet o v s
  | .outMapSet p pos v => applyOutMap p pos v s
  | .outFilterSet o stage legB r => applyFilterSet o stage legB r s
  | .outFilterSwap o stages legs => applyFilterSwap o stages legs s
  | .outDetectSet o v clear => applyDetect o v clear s
  | .storeUnmount => applyUnmount s
  | .storeRecordSet n v => applyRecord n v s
  | .cursorSet k v => applyCursor k v s
  | .exportSet k v => applyExport k v s
  | .storeMaintSet v => applyMaint v s
  | .dispatchSet _ v => applyDispatchSet v s
  | .policeSet n kbps burst => applyPolice n kbps burst s
  | .linkStart => applyLinkStart s
  | .linkStop => applyLinkStop s
  | .linkSet v => applyLinkSet v s
  | .linkFeedSet v => applyFeed v s
  | .linkPhySet remote v recal => applyLinkPhy remote v recal s
  | .auxCfgSet _ v => applyAuxCfg v s
  | .gpioSet _ i fn v => applyGpioSet i fn v s
  | .traceSet _ v => applyTraceSet v s

/-- A command that came with `device` 1 from the local, as the remote's own (R502, R513). -/
def ownCfg : Cfg → Cfg
  | .pdSet _ mask state => .pdSet false mask state
  | .dispatchSet _ v => .dispatchSet false v
  | .auxCfgSet _ v => .auxCfgSet false v
  | .gpioSet _ i fn v => .gpioSet false i fn v
  | .traceSet _ v => .traceSet false v
  | c => c

/-- This device's part of a command (R505). -/
def applyPart (c : Cfg) (s : State) : State := if forwards s c then applyForwarded c s else applyCfg c s

/-- The phase of a command inside its transaction: all changes take effect together, so what others build on comes
first. Following ends before its output changes and starts after it; blobs are restored before their input is enabled;
banks are written after their rates and swapped last. -/
def phaseOf : Cfg → Nat
  | .followSet _ v => if v.mode = 0 then 0 else 5
  | .temperRestore .. => 0
  | .storeRecordSet .. | .cursorSet .. | .gpioSet .. | .outFilterSet .. => 2
  | .outSet .. | .outMapSet .. | .outDetectSet .. => 3
  | .outFilterSwap .. => 4
  | .storeUnmount => 6
  | .pwrSleep => 9
  | _ => 1

/-- The `PD_SET`s of a transaction that act on this device. -/
def ownPdSets (cmds : List Cfg) (s : State) : List (BitVec 8 × BitVec 8) :=
  cmds.filterMap fun c => match c with | .pdSet _ mask state => (if forwards s c then none else some (mask, state)) | _ => none

/-- A command is one of the transaction's own `PD_SET`s, which act together (R134). -/
def isOwnPdSet (s : State) : Cfg → Bool
  | .pdSet remote mask state => !forwards s (.pdSet remote mask state)
  | _ => false

/-- The changes of a transaction, phase by phase (R45); its switches of this device's domains are one sequence (R134). -/
def applyCmds (cmds : List Cfg) (s : State) : State :=
  let pds := ownPdSets cmds s
  let s1 := if pds.isEmpty then s else applyPdSet (mergePd pds).1 (mergePd pds).2 s
  (List.range 10).foldl (fun t k => cmds.foldl (fun t c =>
    if phaseOf c = k ∧ !isOwnPdSet s c then applyPart c t else t) t) s1

/-- The slot numbers that a transaction assigns. -/
def assignedBy (cmds : List Cfg) : List (Fin 48) :=
  cmds.filterMap fun c => match c with | .slotAssign i _ => some i | _ => none

/-- A transaction applies (R45, R303): the visits that must make room end first; then every change takes effect, and what
the device drives and queues follows. -/
def applyTxn (cmds : List Cfg) (s : State) : State :=
  let s1 := if isLocal s then s else evictVisits (assignedBy cmds) (applyCmds cmds) s
  refreshGpio (refreshQueues (applyCmds cmds s1))

/-- A transaction applied on its stroke, for judging one that comes after it (R48): sleep is left out, since what follows
it is judged on nothing of its own. -/
def produce (stroke : Nat) (cmds : List Cfg) (s : State) : State :=
  applyTxn (cmds.filter fun c => c != .pwrSleep) { s with now := max s.now (stroke * 24576) }

/-! ### Judging (R37, R45, R48, R553 checks 6 to 9) -/

/-- A programme output draws on a slot as its live source or as a leg of its follower (R211). A follower that ends with its fade
leaves the output the source that an `OUT_SET` has set meanwhile (R331). -/
def drawnOn (s : State) (i : Fin 48) : Bool :=
  (List.finRange 8).any fun o =>
    let x := s.outs[o].cfg
    let f := s.follow[o]
    let own := !x.cursor && x.srcSlot == i
    x.run && (if f.state = .off then own
      else f.legA.slot == some i || f.legB.slot == some i || (own && f.fade.any fun w => w.stopAfter && !w.keepSource))

/-- A rec that recorded from a slot before a transaction still does after it (R408). -/
def recordedOn (start after : State) (i : Fin 48) : Bool :=
  start.store.recs.any fun r => r.recording && r.slot == i.val
    && after.store.recs.any fun q => q.recNo == r.recNo && q.recording && q.slot == i.val

/-- A slot that the host may name as assigned. -/
def assigned (x : Slot) : Bool := x.state != .free && !x.visit

/-- The inputs of a tuning are enabled, and the domains that it uses are usable: PD4 and PD5, and PD2, which holds the slot
tuners of every slot (R32, R33, R136, R173, R207; for PD2 notes/assumptions/80.md). -/
def tuneAllowed (after : State) (t : SlotTune) : Bool :=
  (inputsOf t).all (fun k => after.inputs[k].enabled) && domainUsable after 2 && domainUsable after 4 && domainUsable after 5

/-- The refusals of `SLOT_ASSIGN` (R207). -/
def judgeAssign (i : Fin 48) (t : SlotTune) (before after : State) : Option Status :=
  if assigned before.slots[i] || !tuneAllowed after t then some .badState else none

/-- The refusals of `SLOT_RETUNE` (R207, R408). -/
def judgeRetune (i : Fin 48) (t : SlotTune) (start before after : State) : Option Status :=
  let o := before.slots[i].tune
  if !assigned before.slots[i] || !tuneAllowed after t then some .badState
  else if (o.freq != t.freq || classOf o.type != classOf t.type) && recordedOn start after i then some .badState
  else none

/-- The refusals of `SLOT_STEP` (R210, R408). -/
def judgeStep (i : Fin 48) (steps : Int) (start before after : State) : Option Status :=
  let x := before.slots[i]
  if assigned x && x.tune.type != .dab && (stepFreq x.tune steps).isNone then some .badParam
  else if !assigned x || x.tune.type == .dab || (steps != 0 && recordedOn start after i) then some .badState
  else none

/-- The refusal of `SLOT_FM_SET` and `SLOT_AM_SET` for a slot of another type. -/
def judgeSlotType (i : Fin 48) (want : SlotType → Bool) (after : State) : Option Status :=
  if assigned after.slots[i] && want after.slots[i].tune.type then none else some .badState

/-- A block in a domain that the same stroke powers on is not usable yet (R136). -/
def domainTooNew (s : State) (d : Fin 8) : Bool := domainOn s d && !domainUsable s d

/-- What the local checks of a command that it forwards (R505): that its own outputs and recs allow it. -/
def judgeForwarded (start before after : State) (c : Cfg) : Option Status :=
  match c with
  | .slotRelease i => if drawnOn after i then some .badState else none
  | .slotRetune i t =>
    let o := before.slots[i].tune
    if (o.freq != t.freq || classOf o.type != classOf t.type) && recordedOn start after i then some .badState else none
  | .slotStep i k => if k != 0 && recordedOn start after i then some .badState else none
  | _ => none

/-- The checks 6 to 8 of one command (R553): `start` is the state before its transaction, `before` the state that the
commands ahead of it leave, and `after` the state that the whole transaction produces. -/
def judgeCfg (ch : Fin 4) (start before after : State) (c : Cfg) : Option Status :=
  if needsLink start c && !linkUp start then some .badState
  else if forwards start c then judgeForwarded start before after c
  else match c with
  | .bulkUnmap => judgeUnmap before
  | .pdSet _ mask state => judgePdSet mask state after
  | .pwrSleep => judgeSleep ch after
  | .feInputSet i enable highZ => judgeFeInput i enable highZ start after
  | .temperRun i foreground => judgeTemperRun i foreground after
  | .temperRestore i blob =>
    if blobOk i start.otp.serial.toNat blob.bytes then judgeTemperRestore i start else some .badParam
  | .slotAssign i t => judgeAssign i t before after
  | .slotRelease i => if drawnOn after i then some .badState else none
  | .slotRetune i t => judgeRetune i t start before after
  | .slotStep i k => judgeStep i k start before after
  | .slotFmSet i _ => judgeSlotType i isFm after
  | .slotAmSet i _ => judgeSlotType i (· == .am) after
  | .sideStreamSet _ => if before.bulk.mapped.isSome then some .busy else none
  | .followSet o v => judgeFollow o v after
  | .portSet p _ => judgePort p start after
  | .outSet o _ => judgeOut o after
  | .outMapSet p pos v => judgeMap p pos v after
  | .outFilterSet o stage legB r => judgeFilterSet o stage legB r after
  | .outFilterSwap o stages legs => judgeFilterSwap o stages legs before
  | .storeUnmount => judgeUnmount start after
  | .storeRecordSet n v => judgeRecord n v before after
  | .cursorSet _ v => judgeCursor v after
  | .exportSet k v => judgeExport k v before
  | .policeSet .. => judgePolice after
  | .linkStart => if before.link.state != .off || domainTooNew after 7 then some .badState else none
  | .linkFeedSet v => judgeFeed v after
  | .linkPhySet remote v recal => judgePhySet remote v recal (start.link.state == .off) after
  | .gpioSet remote i fn _ => judgeGpioSet remote i fn after
  | .feBellowsSet .. | .temperSet .. | .sideSet .. | .censusSet .. | .outDetectSet .. | .storeMaintSet .. | .dispatchSet ..
  | .linkStop | .linkSet .. | .auxCfgSet .. | .traceSet .. => none

/-- A command that can add delay units (R41). -/
def addsUnits : Cfg → Bool
  | .followSet .. | .portSet .. | .outSet .. => true
  | _ => false
/-- A command that can add load (R34). -/
def addsLoad : Cfg → Bool
  | .slotAssign .. | .slotRetune .. | .outSet .. | .followSet .. | .storeRecordSet .. => true
  | _ => false

/-- The place of the last command that satisfies a condition, else of the last command (the position that R564 reports for
a limit that the whole transaction exceeds; log entry 51). -/
def lastWith (f : Cfg → Bool) (cmds : List Cfg) : Nat :=
  match (cmds.zipIdx.filter fun e => f e.1).getLast? with
  | some e => e.2
  | none => cmds.length - 1

/-- The transactions accepted so far, with the parts that a remote holds, in the order of their strokes (R47, R505). -/
def waiting (s : State) : List AcceptedTxn :=
  sortBy (fun a b => a.applyStroke ≤ b.applyStroke) (s.accepted ++ s.link.parts.map fun p => ⟨p.id, p.cmds, p.stroke⟩)

/-- The state that the transactions accepted earlier leave on a stroke (R48). -/
def leftBy (s : State) (stroke : Nat) : State :=
  (waiting s).foldl (fun t a => if a.applyStroke ≤ stroke then produce a.applyStroke a.cmds t else t) s

/-- The verdict on a transaction that would apply on a stroke (R37, R45, R48): nothing, or the status of the first change
refused with its position. -/
def judge (ch : Fin 4) (stroke : Nat) (cmds : List Cfg) (s : State) : Option (Status × Nat) :=
  let start := leftBy s stroke
  let after := produce stroke cmds start
  let one := cmds.zipIdx.findSome? fun e =>
    (judgeCfg ch start (produce stroke (cmds.take e.2) start) after e.1).map fun st => (st, e.2)
  match one with
  | some v => some v
  | none =>
    if 8 < delayUnits after then some (.noResource, lastWith addsUnits cmds)
    else if !admits after then some (.loadExceeded, lastWith addsLoad cmds)
    else none

/-! ### Acceptance and application (R46, R47, R99, R561) -/

/-- S0 accepts a transaction for a stroke (R46, R561): its outcome is held among the last 16. -/
def acceptTxn (id : Word) (cmds : List Cfg) (stroke : Nat) (s : State) : State :=
  { s with
    accepted := s.accepted ++ [⟨id, cmds, stroke⟩]
    history := keepLast 16 (s.history ++ [⟨id, cmds.length, stroke, false, false⟩]) }

/-- The next transaction to apply, when its stroke is the next boundary or has passed. -/
def nextDue (s : State) : Option AcceptedTxn :=
  match waiting s with
  | a :: _ => if a.applyStroke ≤ s.latch.stroke + 1 then some a else none
  | [] => none

/-- A transaction applies on its stroke (R46, R47, R561). -/
def applyAccepted (a : AcceptedTxn) (s : State) : State :=
  let s1 := { s with
    now := max s.now (a.applyStroke * 24576)
    accepted := s.accepted.erase a
    link := { s.link with parts := s.link.parts.erase ⟨a.id, a.applyStroke, a.cmds⟩ }
    history := s.history.map fun h =>
      if h.id = a.id ∧ h.applyStroke = a.applyStroke then { h with applied := true } else h }
  applyTxn a.cmds (noteTrace s1.now 6
    [BitVec.ofNat 32 a.id.toNat, BitVec.ofNat 32 (a.cmds.length % 65536 * 65536 + a.applyStroke % 65536)] s1)

/-- TXN_APPLY (R46, R47). -/
def execTxnApply (s : State) : Out :=
  match nextDue s with
  | some a => .next (applyAccepted a s)
  | none => .next s

/-- Every transaction that is due applies, in order (R47). -/
def applyDue : Nat → State → State
  | 0, s => s
  | k + 1, s =>
    match nextDue s with
    | some a => applyDue k (applyAccepted a s)
    | none => s

/-! ### Commit (R91, R99, R505, R564) -/

/-- The 16 bytes of a `TXN_COMMIT` response (R564). -/
def commitPayload (stroke commands : Nat) (failed : Option (Nat × Nat)) : List Byte :=
  u64 stroke ++ u16 commands
    ++ (match failed with | some f => u16 f.1 ++ u16 f.2 | none => u16 0xFFFF ++ u16 0) ++ u16 0

/-- The opcode of the command at a position. -/
def opcodeAt (cmds : List Cfg) (k : Nat) : Nat := match cmds[k]? with | some c => cfgOpcode c | none => 0

/-- The transaction open on a channel closes. -/
def closeTxn (ch : Fin 4) (s : State) : State := { s with txns := s.txns.set ch none }

/-- A command of a remote part as a request (R43, R505). -/
def cfgRequest (c : Cfg) : List Byte :=
  let p := cfgPayload c
  requestBytes ⟨cfgOpcode c, 0, p.length, 0, 0, 0, p⟩

/-- The message that carries the remote part of a transaction (R505; log entry 50): a header and the requests. -/
def partMessage (s : State) (id : Word) (stroke : Nat) (dry : Bool) (cmds : List Cfg) : List Packet :=
  let requests := cmds.flatMap cfgRequest
  controlFrames s (u16 0x0111 ++ u16 0 ++ u16 (8 + requests.length) ++ u16 (if dry then 1 else 0) ++ u32 id.toNat ++ u32 0
    ++ u64 stroke ++ requests)

/-- The number under which a channel's part of one command goes to the remote, apart from every `txn_id` (log entry
50). -/
def singleId (ch : Fin 4) : Word := BitVec.ofNat 32 (0x80000000 + ch.val)

/-- Whether a transaction holds a command that goes to the remote. -/
def isSplit (s : State) (cmds : List Cfg) : Bool := cmds.any (forwards s)

/-- S0 judges a transaction and accepts it, or refuses it, or sends the remote its part and waits (R45, R46, R505).
`commit` is set when the request is a `TXN_COMMIT`, whose response carries 16 bytes in every case. -/
def takeTxn (ch : Fin 4) (commit : Bool) (id : Word) (cmds : List Cfg) (r : Req) (s : State) : Served :=
  let split := isSplit s cmds
  let p := if split then strokeFrom (s.now + 196608) else applyStrokeFrom s.now
  let close (t : State) : State := if commit then closeTxn ch t else t
  let answer (st : Status) (stroke : Nat) (failed : Option (Nat × Nat)) (t : State) : Served :=
    .answer st (if commit then commitPayload stroke cmds.length failed else []) t
  match judge ch p cmds s with
  | some (st, k) => answer st 0 (some (k, opcodeAt cmds k)) (close s)
  | none =>
    if !split || (!linkUp s) then answer .ok p none (close (if commit then noteMark ch (acceptTxn id cmds p s) else acceptTxn id cmds p s))
    else
      let mid := if commit then id else singleId ch
      let ps := partMessage s mid p r.dry (cmds.filter (forwards s))
      if roomFor s 0x20 ps then .hold ⟨.splitCommit mid p cmds, false, s.now⟩ (enqueueAll s 0x20 ps)
      else answer .busy 0 none (close s)

/-- A step whose result lies outside the band that holds fc is out of range (R210) as it arrives: fc is the one that the
transactions accepted before and the commands ahead of it leave (R96; DEDUCED, log entry 110). -/
def stepOutOfRange (c : Cfg) (ahead : List Cfg) (s : State) : Bool :=
  match c with
  | .slotStep i k =>
    let p := applyStrokeFrom s.now
    let x := (produce p ahead (leftBy s p)).slots[i]
    assigned x && x.tune.type != .dab && (stepFreq x.tune k).isNone
  | _ => false

/-- A configuration command that has passed checks 1 to 5: it joins the open transaction that it names (R96), or is a
transaction of its own (R43). -/
def takeCfg (ch : Fin 4) (c : Cfg) (r : Req) (s : State) : Served :=
  match s.txns[ch] with
  | some t =>
    if r.txnId = 0 then takeTxn ch false 0 [c] r s
    else if stepOutOfRange c t.cmds s then refuse .badParam s
    else if 64 ≤ t.cmds.length then refuse .noResource s
    else .answer .ok [] { s with txns := s.txns.set ch (some { t with cmds := t.cmds ++ [c] }) }
  | none => takeTxn ch false 0 [c] r s

/-- Serves a configuration command of an opcode. -/
def serveCfg {α : Type} (ch : Fin 4) (opcode : Nat) (parse : List Byte → Option α) (mk : α → Cfg) (s : State) : State :=
  serve ch opcode .config parse (fun a r s => takeCfg ch (mk a) r s) s

/-! ### The transaction commands -/

/-- TXN_BEGIN (R44, R95). -/
def execTxnBegin (ch : Fin 4) (s : State) : Out :=
  .next (serve ch 0x0110 .immediate noPayload (fun _ _ s =>
    if s.txns[ch].isSome then refuse .badState s
    else
      let next := if s.nextTxn + 1 = 0 then 1 else s.nextTxn + 1
      .answer .ok (u32 s.nextTxn.toNat) { s with txns := s.txns.set ch (some ⟨s.nextTxn, []⟩), nextTxn := next }) s)

/-- The commands of the transaction open on a channel. -/
def openCmds (s : State) (ch : Fin 4) : List Cfg := match s.txns[ch] with | some t => t.cmds | none => []

/-- What S0 answers when an abort lands on the request with or after its commit mark (R94): `ST_ALREADY_DONE` with the full
result. A part that the remote still judges is not marked yet, and the abort waits for it. -/
def lateAbort (ch : Fin 4) : Served → Served
  | .answer .ok payload s => .answer .alreadyDone payload s
  | .hold op s => .hold op { s with abortPending := s.abortPending ||| BitVec.ofNat 4 (2 ^ ch.val) }
  | r => r

/-- TXN_COMMIT (R45, R46, R91, R93, R94, R99, R505, R550). The step holds all from the taking of the request to its response;
`abort` says whether an abort landed on the ACTIVE channel in between, and on which side of the mark (log entry 109). -/
def execTxnCommit (ch : Fin 4) (abort : AbortAt) (s : State) : Out :=
  let none_ := commitPayload 0 (openCmds s ch).length none
  .next (serveWith ch 0x0111 .long true none_ noPayload (fun _ r s =>
    if abort = .beforeMark then .answer .aborted none_ s
    else
      let v := takeTxn ch true (BitVec.ofNat 32 (openId s ch)) (openCmds s ch) r s
      if abort = .afterMark then lateAbort ch v else v) s)

/-- TXN_CANCEL (R98). -/
def execTxnCancel (ch : Fin 4) (s : State) : Out :=
  .next (serveWith ch 0x0112 .immediate true [] noPayload (fun _ _ s => .answer .ok [] (closeTxn ch s)) s)

/-- Parses the `txn_id` of `TXN_STATUS_GET`. -/
def parseTxnId (p : List Byte) : Option Word := if p.length = 4 then some (BitVec.ofNat 32 (getU 4 0 p)) else none

/-- `TXN_STATUS_GET`, 24 bytes (R561, R564). -/
def txnStatusPayload (h : TxnResult) (s : State) : List Byte :=
  u64 s.latch.stroke
    ++ u16 (statusCode (if h.applied || h.applyStroke * 24576 ≤ s.now then .ok else .pending))
    ++ uBool h.remoteDiscarded ++ u8 0 ++ u16 h.commands ++ zeros 2 ++ u64 h.applyStroke

/-- TXN_STATUS_GET (R561). -/
def execTxnStatusGet (ch : Fin 4) (s : State) : Out :=
  .next (serve ch 0x0113 .read parseTxnId (fun id _ s =>
    if id = 0 then refuse .badParam s
    else if s.txns.toList.any fun t => t.any (·.id == id) then refuse .badState s
    else match s.history.reverse.find? fun h => h.id == id with
      | some h => .answer .ok (txnStatusPayload h s) s
      | none => refuse .badParam s) s)

end Sys2Proof.Machine
end

