-- ==== Sys2Proof/Machine/Configure.lean ====
section
/-! DEFINITION. The configuration commands (kind C of R552): each is its opcode, the parse of its payload and the
command of `Cfg` that it becomes; Machine/Txn.lean judges and applies it. -/

namespace Sys2Proof.Machine

/-- A payload that names `device` 1 is in range only in the local role (R133, R513). -/
def ownDevice {α : Type} (s : State) (parse : List Byte → Option (Bool × α)) (p : List Byte) : Option (Bool × α) :=
  (parse p).bind fun a => if a.1 && !isLocal s then none else some a

/-- The payload of `TEMPER_RESTORE`, checked as it arrives (R96, R198). In the local role the unit that holds the converter
is the remote, which alone knows its serial number (R200); the other checks are made here. -/
def restorePayload (s : State) (p : List Byte) : Option (Fin 3 × TemperBlob) :=
  parseTemperRestore (if isLocal s then getU 8 12 p else s.otp.serial.toNat) p

/-- BULK_UNMAP (R106, R563). -/
def execBulkUnmap (ch : Fin 4) (s : State) : Out :=
  .next (serveCfg ch 0x0130 noPayload (fun _ => .bulkUnmap) s)

/-- PD_SET (R133 to R136). -/
def execPdSet (ch : Fin 4) (s : State) : Out :=
  .next (serveCfg ch 0x0220 (parsePdSet (isLocal s)) (fun a => .pdSet a.1 a.2.1 a.2.2) s)

/-- PWR_SLEEP (R137 to R139). -/
def execPwrSleep (ch : Fin 4) (s : State) : Out :=
  .next (serveCfg ch 0x0230 noPayload (fun _ => .pwrSleep) s)

/-- FE_INPUT_SET (R148, R149). -/
def execFeInputSet (ch : Fin 4) (s : State) : Out :=
  .next (serveCfg ch 0x0301 parseFeInput (fun a => .feInputSet a.1 a.2.1 a.2.2) s)

/-- FE_BELLOWS_SET (R156, R161). -/
def execFeBellowsSet (ch : Fin 4) (s : State) : Out :=
  .next (serveCfg ch 0x0302 parseBellows (fun a => .feBellowsSet a.1 a.2) s)

/-- TEMPER_SET (R192). -/
def execTemperSet (ch : Fin 4) (s : State) : Out :=
  .next (serveCfg ch 0x0310 parseTemperSet (fun a => .temperSet a.1 a.2) s)

/-- TEMPER_RUN (R191, R193). -/
def execTemperRun (ch : Fin 4) (s : State) : Out :=
  .next (serveCfg ch 0x0311 parseTemperRun (fun a => .temperRun a.1 a.2) s)

/-- TEMPER_RESTORE (R197 to R200). -/
def execTemperRestore (ch : Fin 4) (s : State) : Out :=
  .next (serveCfg ch 0x0313 (restorePayload s) (fun a => .temperRestore a.1 a.2) s)

/-- SLOT_ASSIGN (R206, R207). -/
def execSlotAssign (ch : Fin 4) (s : State) : Out :=
  .next (serveCfg ch 0x0401 parseTune (fun a => .slotAssign a.1 a.2) s)

/-- SLOT_RELEASE (R211). -/
def execSlotRelease (ch : Fin 4) (s : State) : Out :=
  .next (serveCfg ch 0x0402 (indexPayload 48) (fun i => .slotRelease i) s)

/-- SLOT_RETUNE (R207 to R209). -/
def execSlotRetune (ch : Fin 4) (s : State) : Out :=
  .next (serveCfg ch 0x0403 parseTune (fun a => .slotRetune a.1 a.2) s)

/-- SLOT_STEP (R210). -/
def execSlotStep (ch : Fin 4) (s : State) : Out :=
  .next (serveCfg ch 0x0405 parseStep (fun a => .slotStep a.1 a.2) s)

/-- SLOT_FM_SET (R231 to R233). -/
def execSlotFmSet (ch : Fin 4) (s : State) : Out :=
  .next (serveCfg ch 0x0410 parseFmSet (fun a => .slotFmSet a.1 a.2) s)

/-- SLOT_AM_SET (R233, R238). -/
def execSlotAmSet (ch : Fin 4) (s : State) : Out :=
  .next (serveCfg ch 0x0420 parseAmSet (fun a => .slotAmSet a.1 a.2) s)

/-- SIDE_SET (R272, R592). -/
def execSideSet (ch : Fin 4) (s : State) : Out :=
  .next (serveCfg ch 0x0510 parseSideSet (fun v => .sideSet v) s)

/-- SIDE_STREAM_SET (R291). -/
def execSideStreamSet (ch : Fin 4) (s : State) : Out :=
  .next (serveCfg ch 0x0511 parseSideStream (fun v => .sideStreamSet v) s)

/-- CENSUS_SET (R302). -/
def execCensusSet (ch : Fin 4) (s : State) : Out :=
  .next (serveCfg ch 0x0520 parseCensus (fun v => .censusSet v) s)

/-- FOLLOW_SET (R313 to R316). -/
def execFollowSet (ch : Fin 4) (s : State) : Out :=
  .next (serveCfg ch 0x0601 parseFollowSet (fun a => .followSet a.1 a.2) s)

/-- PORT_SET (R343, R344). -/
def execPortSet (ch : Fin 4) (s : State) : Out :=
  .next (serveCfg ch 0x0701 parsePortSet (fun a => .portSet a.1 a.2) s)

/-- OUT_SET (R350 to R354). -/
def execOutSet (ch : Fin 4) (s : State) : Out :=
  .next (serveCfg ch 0x0703 parseOutSet (fun a => .outSet a.1 a.2) s)

/-- OUT_MAP_SET (R366, R367). -/
def execOutMapSet (ch : Fin 4) (s : State) : Out :=
  .next (serveCfg ch 0x0704 parseOutMap (fun a => .outMapSet a.1 a.2.1 a.2.2) s)

/-- OUT_FILTER_SET (R363). -/
def execOutFilterSet (ch : Fin 4) (s : State) : Out :=
  .next (serveCfg ch 0x0705 parseFilterSet (fun a => .outFilterSet a.1 a.2.1 a.2.2.1 a.2.2.2) s)

/-- OUT_FILTER_SWAP (R363, R364). -/
def execOutFilterSwap (ch : Fin 4) (s : State) : Out :=
  .next (serveCfg ch 0x0706 parseFilterSwap (fun a => .outFilterSwap a.1 a.2.1 a.2.2) s)

/-- OUT_DETECT_SET (R373). -/
def execOutDetectSet (ch : Fin 4) (s : State) : Out :=
  .next (serveCfg ch 0x0707 parseDetect (fun a => .outDetectSet a.1 a.2.1 a.2.2) s)

/-- STORE_UNMOUNT (R421). -/
def execStoreUnmount (ch : Fin 4) (s : State) : Out :=
  .next (serveCfg ch 0x0803 noPayload (fun _ => .storeUnmount) s)

/-- STORE_RECORD_SET (R406 to R410). -/
def execStoreRecordSet (ch : Fin 4) (s : State) : Out :=
  .next (serveCfg ch 0x0805 parseRecordSet (fun a => .storeRecordSet a.1 a.2) s)

/-- CURSOR_SET (R412 to R414). -/
def execCursorSet (ch : Fin 4) (s : State) : Out :=
  .next (serveCfg ch 0x0807 parseCursor (fun a => .cursorSet a.1 a.2) s)

/-- EXPORT_SET (R415). -/
def execExportSet (ch : Fin 4) (s : State) : Out :=
  .next (serveCfg ch 0x0809 parseExport (fun a => .exportSet a.1 a.2) s)

/-- STORE_MAINT_SET (R402). -/
def execStoreMaintSet (ch : Fin 4) (s : State) : Out :=
  .next (serveCfg ch 0x080A parseMaint (fun v => .storeMaintSet v) s)

/-- DISPATCH_SET (R430, R433). -/
def execDispatchSet (ch : Fin 4) (s : State) : Out :=
  .next (serveCfg ch 0x0901 (ownDevice s parseDispatchSet) (fun a => .dispatchSet a.1 a.2) s)

/-- POLICE_SET (R440, R443). -/
def execPoliceSet (ch : Fin 4) (s : State) : Out :=
  .next (serveCfg ch 0x0903 parsePolice (fun a => .policeSet a.1 a.2.1 a.2.2) s)

/-- LINK_START (R487). -/
def execLinkStart (ch : Fin 4) (s : State) : Out :=
  .next (serveCfg ch 0x0A01 noPayload (fun _ => .linkStart) s)

/-- LINK_STOP (R487, R507). -/
def execLinkStop (ch : Fin 4) (s : State) : Out :=
  .next (serveCfg ch 0x0A02 noPayload (fun _ => .linkStop) s)

/-- LINK_SET (R488). -/
def execLinkSet (ch : Fin 4) (s : State) : Out :=
  .next (serveCfg ch 0x0A03 parseLinkSet (fun v => .linkSet v) s)

/-- LINK_FEED_SET (R509, R510). -/
def execLinkFeedSet (ch : Fin 4) (s : State) : Out :=
  .next (serveCfg ch 0x0A04 parseFeed (fun v => .linkFeedSet v) s)

/-- LINK_PHY_SET (R484, R485). -/
def execLinkPhySet (ch : Fin 4) (s : State) : Out :=
  .next (serveCfg ch 0x0A10 (ownDevice s parsePhySet) (fun a => .linkPhySet a.1 a.2.1 a.2.2) s)

/-- AUX_CFG_SET (R513, R515, R516). -/
def execAuxCfgSet (ch : Fin 4) (s : State) : Out :=
  .next (serveCfg ch 0x0B01 (ownDevice s parseAuxCfg) (fun a => .auxCfgSet a.1 a.2) s)

/-- GPIO_SET (R513, R532, R535). -/
def execGpioSet (ch : Fin 4) (s : State) : Out :=
  .next (serveCfg ch 0x0B10 (ownDevice s parseGpioSet) (fun a => .gpioSet a.1 a.2.1 a.2.2.1 a.2.2.2) s)

/-- TRACE_SET (R543, R544). -/
def execTraceSet (ch : Fin 4) (s : State) : Out :=
  .next (serveCfg ch 0x0D01 (ownDevice s parseTraceSet) (fun a => .traceSet a.1 a.2) s)

end Sys2Proof.Machine
end

