-- ==== Sys2Proof/Machine/Reads.lean ====
section
/-! DEFINITION. The status reads of the slot, front-end, Temper, census, following, output and Dispatch groups (R49,
R551, R564), with the local's answers from the mirror (R502, R503), and the two Temper requests that are no
configuration: `TEMPER_SAVE` and `TEMPER_LEVEL_TRACE`. -/

namespace Sys2Proof.Machine

/-- What the mirror holds under a number (R503). -/
def mirrored (l : List (Nat × List Byte)) (k : Nat) : Option (List Byte) := (l.find? fun e => e.1 == k).map (·.2)

/-! ### Slots -/

/-- `SLOT_STATUS_GET` (R502, R564): in the local role the record last applied to the mirror, but the local's own latched
record for a slot in LINK_LOST and for one that the mirror does not hold. -/
def slotStatus (i : Fin 48) (s : State) : List Byte :=
  let own := slotRecord i s.latch.stroke s.latch.slots[i]
  if isLocal s && s.latch.slots[i].state != .linkLost then
    match mirrored s.link.mirror.slots i.val with
    | some b => u64 s.link.mirror.stroke ++ b
    | none => own
  else own

/-- SLOT_STATUS_GET. -/
def execSlotStatusGet (ch : Fin 4) (s : State) : Out :=
  .next (serve ch 0x0404 .read (indexPayload 48) (fun i _ s => .answer .ok (slotStatus i s) s) s)

/-! ### Front end, Temper, census -/

/-- `FE_STATUS_GET` (R163): the inputs named, in input order. -/
def feStatus (l : List (Fin 3)) (s : State) : List Byte :=
  let have_ := isLocal s && l.all fun i => (mirrored s.link.mirror.inputs i.val).isSome
  if have_ then u64 s.link.mirror.stroke ++ l.flatMap fun i => (mirrored s.link.mirror.inputs i.val).getD []
  else u64 s.latch.stroke ++ l.flatMap fun i => feEntry s.latch.inputs[i]

/-- FE_STATUS_GET. -/
def execFeStatusGet (ch : Fin 4) (s : State) : Out :=
  .next (serve ch 0x0303 .read parseFeStatus (fun l _ s => .answer .ok (feStatus l s) s) s)

/-- `TEMPER_STATUS_GET` (R201). -/
def convStatus (i : Fin 3) (s : State) : List Byte :=
  match if isLocal s then mirrored s.link.mirror.convs i.val else none with
  | some b => u64 s.link.mirror.stroke ++ b
  | none => u64 s.latch.stroke ++ temperStatus s.latch.convs[i]

/-- TEMPER_STATUS_GET. -/
def execTemperStatusGet (ch : Fin 4) (s : State) : Out :=
  .next (serve ch 0x0314 .read (indexPayload 3) (fun i _ s => .answer .ok (convStatus i s) s) s)

/-- TEMPER_SAVE (R196, R200): the blob of the latched record; forwarded in the local role. -/
def execTemperSave (ch : Fin 4) (s : State) : Out :=
  .next (serve ch 0x0312 .read (indexPayload 3) (fun i r s =>
    if isLocal s then forwardRequest r s
    else if saveRefused s.latch.convs[i] then refuse .badState s
    else .answer .ok (u64 s.latch.stroke ++ blobBytes i s.otp.serial.toNat s.latch.convs[i]) s) s)

/-- TEMPER_LEVEL_TRACE (R204): accepted, the tone is measured while the channel stays ACTIVE. -/
def execTemperLevelTrace (ch : Fin 4) (s : State) : Out :=
  .next (serve ch 0x0315 .long parseLevelTrace (fun a _ s =>
    if levelTraceOk a.1 s then .wait ⟨.levelTrace a.1 a.2.1 a.2.2.1 a.2.2.2 (some (traceEpochs s.inputs[a.1])), false, s.now⟩ (dryOk s 2) s else refuse .badState s) s)

/-- CENSUS_STATUS_GET (R306). -/
def execCensusStatusGet (ch : Fin 4) (s : State) : Out :=
  .next (serve ch 0x0521 .read noPayload (fun _ _ s =>
    match if isLocal s then s.link.mirror.census else none with
    | some b => .answer .ok (u64 s.link.mirror.stroke ++ b) s
    | none => .answer .ok (censusStatus s) s) s)

/-! ### Following and outputs -/

/-- FOLLOW_STATUS_GET (R335). -/
def execFollowStatusGet (ch : Fin 4) (s : State) : Out :=
  .next (serve ch 0x0603 .read (indexPayload 8) (fun o _ s => .answer .ok (followStatus o s) s) s)

/-- FOLLOW_CANDIDATES_GET (R319). -/
def execFollowCandidatesGet (ch : Fin 4) (s : State) : Out :=
  .next (serve ch 0x0604 .read (indexPayload 8) (fun o _ s => .answer .ok (candidateBytes o s) s) s)

/-- PORT_STATUS_GET (R376). -/
def execPortStatusGet (ch : Fin 4) (s : State) : Out :=
  .next (serve ch 0x0702 .read (indexPayload 2) (fun p _ s => .answer .ok (portStatus p s) s) s)

/-- OUT_STATUS_GET (R375). -/
def execOutStatusGet (ch : Fin 4) (s : State) : Out :=
  .next (serve ch 0x0708 .read (indexPayload 8) (fun o _ s => .answer .ok (outStatus o s) s) s)

/-- OUT_DETECT_GET (R374). -/
def execOutDetectGet (ch : Fin 4) (s : State) : Out :=
  .next (serve ch 0x0709 .read (indexPayload 8) (fun o _ s => .answer .ok (detectStatus o s) s) s)

/-! ### Dispatch -/

/-- Parses `DISPATCH_STATUS_GET`: `device`, `first` and a count of 1 to 15; the queues named lie in the table of R426. -/
def parseQueues (p : List Byte) : Option (Bool × List Nat) :=
  let ids := (queueIds.dropWhile (· != getU 1 1 p)).take (getU 1 2 p)
  if p.length = 3 ∧ getU 1 0 p ≤ 1 ∧ 1 ≤ getU 1 2 p ∧ getU 1 2 p ≤ 15 ∧ ids.length = getU 1 2 p then
    some (getU 1 0 p == 1, ids)
  else none

/-- `DISPATCH_STATUS_GET` of this device (R446). -/
def dispatchStatus (ids : List Nat) (s : State) : List Byte :=
  u64 s.latch.stroke ++ ids.flatMap fun id => queueEntry id (queueOf s.latch.dispatch id)

/-- DISPATCH_STATUS_GET (R446, R502). -/
def execDispatchStatusGet (ch : Fin 4) (s : State) : Out :=
  .next (serve ch 0x0902 .read (ownDevice s parseQueues) (fun a r s => serveDevice (dispatchStatus a.2) a.1 r s) s)

end Sys2Proof.Machine
end

