-- ==== Sys2Proof/Machine/Mirror.lean ====
section
/-! DEFINITION. What a local reads from the messages that carry the mirror (14_split_operation.md R503, R508): stroke bundles
and the records of the database. The layout of a bundle is the model's (notes/assumptions/46.md); the records in it have the
layouts of R298, R299, R301 and R564. -/

namespace Sys2Proof.Machine

/-- One database record as the mirror carries it (R503, R508). -/
structure MirrorRec where
  index : Nat
  body : DbBody
  fromCensus : Bool
  eon : Bool
  rbds : Bool
  incarnation : Half
  firstSeen : Nat
  confirmed : Nat
  pinned : Bool
deriving DecidableEq, Repr

/-- A stroke bundle (R503). The bytes of a status record are those after its `stroke`; the first byte of a slot record is the
slot. -/
structure MirrorRx where
  stroke : Nat
  slots : List (Fin 48 × List Byte)
  inputs : List (Fin 3 × List Byte)
  convs : List (Fin 3 × List Byte)
  census : Option (List Byte)
  recs : List MirrorRec
  events : List Event
deriving DecidableEq, Repr

/-! ### Database records (R296 to R299, R301) -/

/-- A field of `k` bytes, none at the sentinel of its width (R591). -/
def getOpt (k off : Nat) (p : List Byte) : Option Nat :=
  if getU k off p = 256 ^ k - 1 then none else some (getU k off p)

/-- A bit of a byte of a payload. -/
def getBit (off k : Nat) (p : List Byte) : Bool := getU 1 off p / 2 ^ k % 2 == 1

/-- Date, hour, minute and local offset (R298). -/
def getClock (off : Nat) (p : List Byte) : Clock := ⟨getU 4 off p, getU 1 (off + 4) p, getU 1 (off + 5) p, getS 1 (off + 6) p⟩

/-- The entries of an AF set or of a linkage set (R299). -/
def getEntries (n off : Nat) (p : List Byte) : List SetEntry :=
  (List.range n).map fun k => ⟨getU 4 (off + 8 * k) p, getU 1 (off + 8 * k + 4) p, getU 1 (off + 8 * k + 5) p, getU 2 (off + 8 * k + 6) p⟩

/-- Bytes of a payload. -/
def getBytes (n off : Nat) (p : List Byte) : List Byte := (p.drop off).take n

/-- The ensemble record that bytes 0x20 onwards spell (R298). -/
def ensembleRecOf (p : List Byte) : EnsembleRec where
  eid := BitVec.ofNat 16 (getU 2 0 p)
  ecc := BitVec.ofNat 8 (getU 1 2 p)
  announced := getBit 3 0 p
  alarm := getBit 3 1 p
  freq := getU 4 4 p
  slot := getU 1 8 p
  changeOcc := getU 1 9 p
  charset := getU 1 10 p
  shortMask := BitVec.ofNat 16 (getU 2 12 p)
  label := getBytes 16 16 p
  clock := getClock 32 p
  clockTs := getU 8 40 p
  services := getU 1 48 p
  subchs := getU 1 49 p

/-- The service record that bytes 0x20 onwards spell (R298). -/
def serviceRecOf (p : List Byte) : ServiceRec where
  sid := BitVec.ofNat 32 (getU 4 0 p)
  ecc := BitVec.ofNat 8 (getU 1 4 p)
  dab := getU 1 5 p == 1
  pty := getU 1 6 p
  flags := BitVec.ofNat 8 (getU 1 7 p)
  freq := getU 4 8 p
  ensemble := getOpt 2 12 p
  afSet := getOpt 2 14 p
  linkage := getOpt 2 16 p
  pin := BitVec.ofNat 16 (getU 2 18 p)
  charset := getU 1 20 p
  textCharset := getU 1 21 p
  shortMask := BitVec.ofNat 16 (getU 2 22 p)
  label := getBytes 16 24 p
  ptyn := getBytes 8 40 p
  clock := getClock 48 p
  textFlags := BitVec.ofNat 8 (getU 1 57 p)
  longPs := getBytes 32 64 p
  text := getBytes (getU 1 56 p) 96 p

/-- The component record of a parent that bytes 0x20 onwards spell (R296, R298). -/
def componentRecOf (parent : Option Nat) (p : List Byte) : ComponentRec where
  sid := BitVec.ofNat 32 (getU 4 0 p)
  scids := getU 1 4 p
  service := parent
  subch := getOpt 1 5 p
  tmid := getU 1 6 p
  cty := getU 1 7 p
  flags := BitVec.ofNat 8 (getU 1 8 p)
  protection := BitVec.ofNat 8 (getU 1 9 p)
  startCu := getU 2 10 p
  sizeCu := getU 2 12 p
  bitrate := getU 2 14 p
  packet := getU 2 16 p
  ensemble := getOpt 2 18 p
  charset := getU 1 20 p
  shortMask := BitVec.ofNat 16 (getU 2 22 p)
  label := getBytes 16 24 p

/-- The linkage set that bytes 0x20 onwards spell (R299). -/
def linkageSetOf (p : List Byte) : LinkageRec :=
  ⟨getU 2 0 p, getBit 2 0 p, getBit 2 1 p, getBit 2 2 p, getBit 2 3 p, getEntries (getU 1 3 p) 8 p, []⟩

/-- The body that a kind code, a parent and bytes 0x20 onwards spell (R295 to R299). -/
def bodyOf (kind : Nat) (parent : Option Nat) (p : List Byte) : DbBody :=
  match kind with
  | 1 => .ensemble (ensembleRecOf p)
  | 2 => .service (serviceRecOf p)
  | 3 => .component (componentRecOf parent p)
  | 4 => .afSet ⟨parent.getD 0, getU 1 0 p, getEntries (getU 1 1 p) 8 p⟩
  | 5 => .linkage (linkageSetOf p)
  | _ => .free

/-- The record that its 256 bytes spell (R296, R301). -/
def mirrorRecOf (b : List Byte) : MirrorRec where
  index := getU 2 0 b
  body := bodyOf (getU 1 2 b) (getOpt 2 6 b) (b.drop 32)
  fromCensus := getBit 3 0 b
  eon := getBit 3 1 b
  rbds := getBit 3 3 b
  incarnation := BitVec.ofNat 16 (getU 2 4 b)
  firstSeen := getU 8 16 b
  confirmed := getU 8 24 b
  pinned := getBit 3 2 b

/-! ### Stroke bundles (R503) -/

/-- The items of a bundle, each its kind and its bytes. -/
def itemsUpTo : Nat → List Byte → List (Nat × List Byte)
  | 0, _ => []
  | fuel + 1, b =>
    if b.length < 4 then []
    else (getU 1 0 b, getBytes (getU 2 2 b) 4 b) :: itemsUpTo fuel (b.drop (4 + getU 2 2 b))

/-- The items of one kind. -/
def itemsOf (kind : Nat) (l : List (Nat × List Byte)) : List (List Byte) := (l.filter fun e => e.1 == kind).map (·.2)

/-- Items as records by index: the index is the first byte. -/
def numbered (n : Nat) (l : List (List Byte)) : List (Fin n × List Byte) :=
  l.filterMap fun b => (finOf n (getU 1 0 b)).map fun i => (i, b.drop 1)

/-- An event as a bundle carries it (R503). -/
def eventOf (b : List Byte) : Event :=
  ⟨BitVec.ofNat 16 (getU 2 8 b), BitVec.ofNat 16 (getU 2 10 b), getU 8 0 b, getBytes 16 12 b⟩

/-- The bundle that a message of stream 0x0200 spells (R498, R503). -/
def bundleOf (m : List Byte) : MirrorRx :=
  let l := itemsUpTo m.length (m.drop 8)
  { stroke := getU 8 0 m
    slots := (itemsOf 1 l).filterMap fun b => (finOf 48 (getU 1 8 b)).map fun i => (i, b.drop 8)
    inputs := numbered 3 (itemsOf 2 l)
    convs := numbered 3 (itemsOf 3 l)
    census := ((itemsOf 4 l).head?).map fun b => b.drop 8
    recs := (itemsOf 5 l).map mirrorRecOf
    events := (itemsOf 6 l).map eventOf }

end Sys2Proof.Machine
end

