-- ==== Sys2Proof/Machine/Remote.lean ====
section
/-! DEFINITION. What arrives over the link in RUN and what it brings about (14_split_operation.md R496 to R508):
delivery to the streams, forwarded requests and their responses, the parts of split transactions, the mirror, and the
resynchronisation. -/

namespace Sys2Proof.Machine

/-! ### Responses (R502, R505) -/

/-- The status of a code (R555). -/
def statusOf (n : Nat) : Option Status :=
  [Status.ok, .aborted, .alreadyDone, .busy, .badParam, .badState, .noResource, .loadExceeded, .badOpcode, .notLocked,
    .timeout, .nack, .staleSnapshot, .authFail, .mediaFault].find? fun st => statusCode st == n

/-- The opcode of a forwarded request that waits on a channel. -/
def forwardedOp (s : State) (ch : Fin 4) : Option Nat :=
  match opOf s ch with
  | some o => (match o.op with | .forwarded opcode _ => some opcode.toNat | _ => none)
  | none => none

/-- The split commit that waits on a channel: its number, stroke and commands. -/
def splitOp (s : State) (ch : Fin 4) : Option (Word × Nat × List Cfg) :=
  match opOf s ch with
  | some o => (match o.op with | .splitCommit id p cmds => some (id, p, cmds) | _ => none)
  | none => none

/-- The request on a channel is a `TXN_COMMIT`. -/
def isCommit (s : State) (ch : Fin 4) : Bool := (reqOf s ch).opcode == 0x0111

/-- The answer of a split commit: 16 bytes for a `TXN_COMMIT`, nothing for one command (R550). -/
def splitAnswer (s : State) (ch : Fin 4) (stroke n : Nat) (failed : Option (Nat × Nat)) : List Byte :=
  if isCommit s ch then commitPayload stroke n failed else []

/-- The transaction that a split commit carried closes; one command has none. -/
def closeIfCommit (s0 : State) (ch : Fin 4) (s : State) : State := if isCommit s0 ch then closeTxn ch s else s

/-- The cancel of a part (R505): a part message with no command. -/
def sendCancel (id : Word) (stroke : Nat) (s : State) : State :=
  enqueueAll { s with link := { s.link with cancels := (id, stroke) :: s.link.cancels } } 0x20 (partMessage s id stroke false [])

/-- A cancel goes out again in every control window until its stroke (R505). -/
def sendCancels (s : State) : State :=
  let l := s.link.cancels.filter fun e => s.now < e.2 * 24576
  l.foldl (fun s e => enqueueAll s 0x20 (partMessage s e.1 e.2 false [])) { s with link := { s.link with cancels := l } }

/-- The place in a transaction of the k-th command that goes to the remote. -/
def placeOf (s : State) (cmds : List Cfg) (k : Nat) : Nat :=
  ((cmds.zipIdx.filter fun e => forwards s e.1)[k]?.map (·.2)).getD 0

/-- The remote's reply to its part (R94, R505): `ST_OK` by p − 6,144 ticks is the commit point; an error ends the commit
with its status; an abort that landed before leaves the transaction open. -/
def takeReply (ch : Fin 4) (id : Word) (p : Nat) (cmds : List Cfg) (st : Status) (failed : Nat) (s : State) : State :=
  let dry := (reqOf s ch).dry
  if abortLanded s ch then respond ch .aborted (splitAnswer s ch 0 cmds.length none) (sendCancel id p s)
  else if st = .ok then
    if p * 24576 < s.now + 6144 then s
    else if dry then respond ch .ok (splitAnswer s ch p cmds.length none) s
    else respond ch .ok (splitAnswer s ch p cmds.length none)
      (closeIfCommit s ch (if isCommit s ch then noteMark ch (acceptTxn id cmds p s) else acceptTxn 0 cmds p s))
  else
    let k := placeOf s cmds failed
    let s1 := if dry then s else closeIfCommit s ch s
    respond ch st (splitAnswer s ch 0 cmds.length (some (k, opcodeAt cmds k))) s1

/-- REMOTE_REPLY_TIMEOUT (R91, R94, R505): no reply by p − 6,144 ticks; the part is cancelled and nothing takes effect. An
abort that landed before ends it with `ST_ABORTED`; that and a `dry_run` leave the transaction open. -/
def execRemoteReplyTimeout (ch : Fin 4) (s : State) : Out :=
  match splitOp s ch with
  | some (id, p, cmds) =>
    if p * 24576 ≤ s.now + 6144 then
      let s1 := sendCancel id p s
      if abortLanded s ch then .next (respond ch .aborted (splitAnswer s ch 0 cmds.length none) s1)
      else .next (respond ch .timeout (splitAnswer s ch 0 cmds.length none)
        (if (reqOf s ch).dry then s1 else closeIfCommit s ch s1))
    else .next s
  | none => .next s

/-- A START was placed for a transfer that ended with this status and result (R528, R529): it completed or met a NACK, or the
result counts a byte or a lost arbitration. -/
def xferStarted (st : Status) (result : List Byte) : Bool :=
  st == .ok || st == .nack || getU 2 0 result != 0 || getU 2 2 result != 0 || getU 1 6 result != 0

/-- The remote's answer to a forwarded request ends it (R94): when an abort has landed, a transfer whose START was placed
ends with `ST_ALREADY_DONE` and its result, one that was not with `ST_ABORTED`; a request past its commit point ends as
`completeOp` says. -/
def endForwarded (ch : Fin 4) (st : Status) (payload : List Byte) (s : State) : State :=
  if st = .ok then completeOp ch payload s
  else if abortLanded s ch && forwardedXfer s ch && st != .alreadyDone && st != .badState then
    if xferStarted st payload then respond ch .alreadyDone payload s else respond ch .aborted [] s
  else respond ch st payload s

/-- A response reaches the local (R502): the channel whose request it answers is found by opcode and tag, or, for a part,
by its number and stroke. The layout of the message is log entry 50. -/
def takeResponse (m : List Byte) (s : State) : State :=
  match statusOf (getU 2 6 m) with
  | none => s
  | some st =>
    if getU 2 0 m = 0x0210 then { s with link := { s.link with remoteStage := BitVec.ofNat 8 (getU 1 16 m) } }
    else if getU 2 0 m = 0x0111 then
      let mine (ch : Fin 4) : Option (Fin 4 × Word × Nat × List Cfg) :=
        (splitOp s ch).bind fun o => if o.1.toNat = getU 4 8 m ∧ o.2.1 = getU 8 16 m then some (ch, o) else none
      match (List.finRange 4).findSome? mine with
      | some (ch, id, p, cmds) => takeReply ch id p cmds st (getU 2 26 m) s
      | none => s
    else
      match (List.finRange 4).find? fun ch => forwardedOp s ch == some (getU 2 0 m) && (reqOf s ch).tag == getU 2 2 m with
      | some ch =>
        endForwarded ch st ((m.drop 16).take (getU 2 4 m)) s
      | none => s

/-! ### The remote's side (R129, R502, R505) -/

/-- The requests whose payload begins with `device` (R502). -/
def namesDevice (opcode : Nat) : Bool :=
  [0x0902, 0x0A05, 0x0A11, 0x0A12, 0x0B02, 0x0B03, 0x0B11, 0x0D02].contains opcode

/-- A forwarded request as the remote's own S0 serves it: for this device, and outside any transaction of the local. -/
def ownRequest (m : List Byte) : List Byte :=
  let payload := (m.drop 16).take (getU 2 4 m)
  m.take 8 ++ zeros 8 ++ (if namesDevice (getU 2 0 m) then (payload.set 0 0) else payload)

/-- A forwarded request is posted on the first idle channel of the remote; with none it is answered `ST_BUSY`. -/
def postRequest (m : List Byte) (s : State) : State :=
  match (List.finRange 4).find? fun ch => s.chan[ch] == .idle with
  | some ch => doRing ch { s with mem := memWrite s.mem (reqBase ch) (ownRequest m) }
  | none =>
    enqueueAll s 0x20 (controlFrames s (m.take 4 ++ u16 0 ++ u16 (statusCode .busy) ++ zeros 8))

/-- The abort of a forwarded request lands on the channel of the remote that holds it (R94; log entry 50). -/
def takeAbort (tag opcode : Nat) (s : State) : State :=
  match (List.finRange 4).find? fun ch =>
      (s.chan[ch] == .posted || s.chan[ch] == .active) && (reqOf s ch).tag == tag && (reqOf s ch).opcode == opcode with
  | some ch => doAbort ch s
  | none => s

/-- A remote whose `fw_stage` has changed since it last reported it tells the local, as LC has room (R129; log entry 23). -/
def reportStage (s : State) : State :=
  let ps := controlFrames s (u16 0x0210 ++ u16 0 ++ u16 1 ++ u16 0 ++ zeros 8 ++ u8 s.host.fwStage.toNat)
  if s.host.bootsel = 2 ∧ linkUp s ∧ 0x30 ≤ s.host.fwStage.toNat ∧ s.link.stageReported ≠ s.host.fwStage ∧ roomFor s 0x20 ps then
    enqueueAll { s with link := { s.link with stageReported := s.host.fwStage } } 0x20 ps
  else s

/-- A part of a transaction waits to be judged; one with no command cancels the part of its number and stroke (R505). -/
def takePart (m : List Byte) (s : State) : State :=
  if m.length ≤ 24 then
    { s with link := { s.link with
      parts := s.link.parts.filter fun h => h.id.toNat != getU 4 8 m || h.stroke != getU 8 16 m
      partsIn := s.link.partsIn.filter fun p => getU 4 8 p != getU 4 8 m || getU 8 16 p != getU 8 16 m } }
  else { s with link := { s.link with partsIn := s.link.partsIn ++ [m] } }

/-- A control message reaches the remote: the confirmation of its role (R129), the rates of the recs (R499), the RDS values that it holds until the
resynchronisation completes (R592), a part of a transaction or its cancel (R505), or a forwarded request. -/
def takeRequest (m : List Byte) (s : State) : State :=
  if getU 2 0 m = 0x0210 then
    if s.host.role = roleNone ∧ s.host.fwStage = 0x30 then refreshQueues (confirmRole roleRemote s) else s
  else if getU 2 0 m = 0x0111 then takePart m s
  else if getU 2 0 m = 0 then takeAbort (getU 2 2 m) (getU 2 16 m) s
  else if getU 2 0 m = 0x0A10 then
    match parsePhySet ((m.drop 16).take (getU 2 4 m)) with
    | some (_, c, recal) => applyPhySet c recal s
    | none => s
  else if getU 2 0 m = 0x0805 then
    let pairs := (List.range (getU 2 4 m / 2)).map fun k => (getU 1 (16 + 2 * k) m, getU 1 (17 + 2 * k) m)
    { s with link := { s.link with aacRates := pairs } }
  else if getU 2 0 m = 0x0510 then
    { s with link := { s.link with rdsHeld := some (getU 1 16 m == 1, getU 1 17 m) } }
  else postRequest m s

/-- The requests of a part, each its opcode and its payload (log entry 50). -/
def partRequests : Nat → List Byte → List (Nat × List Byte)
  | 0, _ => []
  | fuel + 1, b =>
    if b.length < 16 then []
    else (getU 2 0 b, getBytes (getU 2 4 b) 16 b) :: partRequests fuel (b.drop (16 + getU 2 4 b))

/-- The commands of a part as the remote reads them, each none where its payload is out of range. -/
def partCfgs (m : List Byte) (s : State) : List (Option Cfg) :=
  (partRequests m.length (m.drop 24)).map fun e => (cfgOf s.otp.serial.toNat e.1 e.2).map ownCfg

/-- The remote's verdict on a part (R36, R38, R505): nothing, or a status with its place and opcode. -/
def judgePart (m : List Byte) (s : State) : Option (Status × Nat × Nat) :=
  let l := partCfgs m s
  match l.findIdx? (·.isNone) with
  | some k => some (.badParam, k, (((partRequests m.length (m.drop 24))[k]?).map (·.1)).getD 0)
  | none =>
    let cmds := l.filterMap id
    (judge 0 (getU 8 16 m) cmds s).map fun e => (e.1, e.2, opcodeAt cmds e.2)

/-- The reply to a part (R505; log entry 50). -/
def partReply (m : List Byte) (v : Option (Status × Nat × Nat)) (s : State) : List Packet :=
  let n := (partCfgs m s).length
  controlFrames s (u16 0x0111 ++ u16 0 ++ u16 16 ++ u16 (statusCode (match v with | some e => e.1 | none => .ok))
    ++ getBytes 4 8 m ++ u32 0 ++ commitPayload (getU 8 16 m) n (v.map (·.2)))

/-- REMOTE_TXN_PART (R38, R505): the remote judges the part that arrived first, holds it for p, and replies. While LC has no
room for the reply the part waits. -/
def execRemoteTxnPart (s : State) : Out :=
  match s.link.partsIn with
  | [] => .next s
  | m :: rest =>
    if !isRemote s || !linkUp s then .next s
    else
      let v := judgePart m s
      let ps := partReply m v s
      if !roomFor s 0x20 ps then .next s
      else
        let s1 := enqueueAll { s with link := { s.link with partsIn := rest } } 0x20 ps
        if v.isNone && getU 2 6 m % 2 == 0 then
          let part : HeldPart := ⟨BitVec.ofNat 32 (getU 4 8 m), getU 8 16 m, (partCfgs m s).filterMap id⟩
          .next { s1 with link := { s1.link with parts := s1.link.parts ++ [part] } }
        else .next s1

/-- One response of the remote's S0 goes to the local as LC, or LB for a Temper blob, has room (R200, R498, R502); its
channel is idle again. -/
def flushResponse (ch : Fin 4) (s : State) : State :=
  if s.chan[ch] ≠ .done then s
  else
    let len := getU 2 4 (memBytes s.mem (respBase ch) 16)
    let msg := memBytes s.mem (respBase ch) (16 + len)
    let blob := getU 2 0 msg == 0x0312 && getU 2 6 msg == 0
    let q := if blob then 0x61 else 0x20
    let ps := if blob then framesOf (frameMax s 0x61) 6 0x0402 msg.length msg else controlFrames s msg
    if roomFor s q ps then doRelease ch (enqueueAll s q ps) else s

/-- Every response of a remote in RUN goes to its local. -/
def flushResponses (s : State) : State :=
  if isRemote s && linkUp s then (List.finRange 4).foldl (fun s ch => flushResponse ch s) s else s

/-! ### Delivery (R496 to R498) -/

/-- A side-data record as it came over the link (R292, R498). -/
def sideOf (m : List Byte) : SideRec :=
  ⟨BitVec.ofNat 16 (getU 2 0 m), BitVec.ofNat 16 (getU 2 2 m), getU 8 8 m, m.drop 16⟩

/-- A record from the remote is one that the stream selects (R291). -/
def sideWanted (s : State) (r : SideRec) : Bool :=
  let group := getU 1 14 r.payload
  match finOf 48 r.source.toNat with
  | none => false
  | some i => slotSelected s i &&
    (if r.kind = 0x0001 then rawSelected s.side.stream.rdsRaw (group / 16) (group / 8 % 2 == 1) (getU 2 12 r.payload != 0)
     else r.kind == 0x0002 && s.side.stream.rawFig)

/-- A subchannel unit comes to stand in the local's Hearth (R264). -/
def takeUnit (i : Fin 48) (m : List Byte) (s : State) : State :=
  modDab s i fun d => { d with units := holdUnit (dabUnitOf m) d.units }

/-- An AAC-LC frame of an FM or AM slot comes to stand in the local's Hearth, with those of the 2 s before it (R498, R500; for the
span log entry 127). -/
def takeAac (i : Fin 48) (m : List Byte) (s : State) : State :=
  let f : AacFrame := ⟨getU 8 0 m, getU 2 8 m, BitVec.ofNat 8 (getU 1 10 m), m.drop 16⟩
  modSlot s i fun x => { x with aac := (x.aac.filter fun a => decide (f.ts < a.ts + 49152000)) ++ [f] }

/-- A whole message goes to its stream (R498). The boot image, a stroke bundle and the resynchronisation wait, whole, for the
commands that take them. -/
def deliver (stream : Nat) (m : List Byte) (s : State) : State :=
  let l := s.link
  if stream = 0x0300 then (if isLocal s then takeResponse m s else takeRequest m s)
  else if stream = 0x0402 then (if isLocal s then takeResponse m s else s)
  else if stream = 0x0100 then (if isLocal s && sideWanted s (sideOf m) then sideAppend [sideOf m] s else s)
  else if stream = 0x0403 then (if isLocal s then putRemotePacket m s else s)
  else if stream = 0x0500 then takeSwapMessage m s
  else if stream = 0x0200 then (if isLocal s then { s with link := { l with bundles := l.bundles ++ [m] } } else s)
  else if stream = 0x0401 then (if isLocal s then { s with link := { l with resyncIn := l.resyncIn ++ [m] } } else s)
  else if stream = 0x0301 then (if isLocal s then s else { s with link := { l with imageIn := some m } })
  else match finOf 48 stream with
    | some i => if !isLocal s then s else if s.slots[i].tune.type == .dab then takeUnit i m s else takeAac i m s
    | none => s

/-- A received frame (R496 to R498): one that does not stand is discarded and counted; one that completes a message
delivers it. -/
def takeLinkFrame (f : LinkFrameRx) (s : State) : State :=
  if !frameStands f then loseFrame s
  else
    match takeFrame f s with
    | (s1, some (stream, m)) => deliver stream m s1
    | (s1, none) => s1

/-- LINK_FRAME_RX: the next frame of the payload received last, in RUN. -/
def execLinkFrameRx (s : State) : Out :=
  if !linkUp s then .next s
  else match nextFrame s 4 s.phy.rxAt with
    | some (f, at_) => .next (takeLinkFrame f { s with phy := { s.phy with rxAt := at_ } })
    | none => .next { s with phy := { s.phy with rxWords := [], rxAt := 0 } }

/-- The frames that are left of a payload, taken one after the other. -/
def takeFramesUpTo : Nat → State → State
  | 0, s => s
  | n + 1, s =>
    if !linkUp s then s
    else match nextFrame s 4 s.phy.rxAt with
      | some (f, at_) => takeFramesUpTo n (takeLinkFrame f { s with phy := { s.phy with rxAt := at_ } })
      | none => s

/-- Every frame that is left of the payload received last. -/
def takeFrames (s : State) : State := takeFramesUpTo 1200 s

/-- LINK_SUPERFRAME (R450, R459): one superframe, at its boundary, after the frames that are left of the last one; held while the synthesiser is not LOCKED (R480). -/
def execLinkSuperframe (r : SuperframeRx) (s : State) : Out :=
  if s.link.state = .off ∨ s.link.state = .beacon ∨ !atSuperframe s ∨ (s.link.sfCount = superframe s ∧ s.link.since < s.now) then .next s
  else if s.phy.synth ≠ .locked then .next (holdRequest s.now s)
  else
    let s1 := releaseRequest { s with
      link := { s.link with sfCount := superframe s }
      phy := { s.phy with rxLevel := if r.level.isSome then r.level else s.phy.rxLevel } }
    .next (sendCancels (sendSwapAck (superframeWork r (takeFrames s1))))

/-! ### The mirror (R502 to R504, R508, R562) -/

/-- Records of a number replaced or added. -/
def mergeRecords {n : Nat} (new : List (Fin n × List Byte)) (old : List (Nat × List Byte)) : List (Nat × List Byte) :=
  new.foldl (fun l e => upsert (fun x => x.1 == e.1.val) (e.1.val, e.2) l) old

/-- The state of a code of R212. -/
def slotStateOf : Nat → SlotState
  | 0 => .free | 1 => .acquiring | 2 => .live | 3 => .noSignal | 4 => .linkLost | _ => .fault

/-- The tuning that a mirrored slot record gives; its raster is not in it. -/
def tuneOf (old : SlotTune) (b : List Byte) : SlotTune :=
  { old with
    type := (typeOf (getU 1 2 b)).getD old.type, input := (finOf 3 (getU 1 3 b)).getD old.input, freq := getU 4 4 b
    minChain := getU 1 64 b == 1 }

/-- The local's copy of a slot follows its mirrored record. -/
def mirrorSlot (e : Fin 48 × List Byte) (s : State) : State :=
  let new := slotStateOf (getU 1 1 e.2)
  let s1 := modSlot s e.1 fun x => { x with tune := if new = .free then x.tune else tuneOf x.tune e.2 }
  mirrorSlotState e.1 new s1

/-- Status records taken into the mirror with the remote's stroke (R503). -/
def takeRecords (m : MirrorRx) (s : State) : State :=
  let o := s.link.mirror
  { s with link := { s.link with mirror :=
    { stroke := m.stroke, slots := mergeRecords m.slots o.slots, inputs := mergeRecords m.inputs o.inputs
      convs := mergeRecords m.convs o.convs, census := match m.census with | some b => some b | none => o.census } } }

/-- A mirrored database record at its index (R503). -/
def mirrorRec (old : DbRec) (r : MirrorRec) : DbRec :=
  { old with
    index := r.index, body := r.body, fromCensus := r.fromCensus, eon := r.eon, rbds := r.rbds, incarnation := r.incarnation
    firstSeen := r.firstSeen, confirmed := r.confirmed, pinned := r.pinned, used := true }

/-- The database with mirrored records in it: one step of the local's generation when any changes, and the prior
contents kept for the open snapshots (R504, R311). -/
def mirrorDb (recs : List DbRec) (l : List MirrorRec) (s : State) : State :=
  let all := l.foldl (fun rs r => upsert (fun x => x.index == r.index) (mirrorRec (priorOf s.db.recs r.index) r) rs) recs
  let d := finishDb s.now ⟨all, [], [], false, 0⟩ s.db
  let confirm (x : DbRec) : DbRec := match l.find? fun r => r.index == x.index with
    | some r => { x with confirmed := r.confirmed } | none => x
  { s with db := { d with recs := d.recs.map confirm } }

/-- A fault of the remote, held and posted with bit 15 set (R562). -/
def mirrorFault (e : Event) (s : State) : State :=
  let code : Half := BitVec.ofNat 16 (getU 2 0 e.payload) ||| 0x8000
  let detail : Word := BitVec.ofNat 32 (getU 4 4 e.payload)
  let s1 := queueEventAt s e.timestamp evFault e.object.toNat (u16 code.toNat ++ zeros 2 ++ u32 detail.toNat)
  if s1.faults.length < 8 then
    let s2 := if s1.faults.isEmpty then raiseIrq s1 irqFault else s1
    { s2 with faults := s2.faults ++ [⟨code, e.object, detail, e.timestamp⟩] }
  else { s1 with faultsLost := min 255 (s1.faultsLost + 1) }

/-- The events of a bundle keep the remote's timestamps (R503); a fault among them is held as well (R562). -/
def mirrorEvents (m : MirrorRx) (s : State) : State :=
  m.events.foldl (fun s e =>
    if e.code.toNat = evFault then mirrorFault e s
    else queueEventAt s e.timestamp e.code.toNat e.object.toNat e.payload) s

/-- A slot record of a bundle is taken; a slot that returns on the next stroke keeps its state until then, and then takes
the newest that the remote has reported (R58). -/
def takeSlotRecord (e : Fin 48 × List Byte) (s : State) : State :=
  if s.link.returning.any (·.1 == e.1.val) then
    let new := slotStateOf (getU 1 1 e.2)
    let l := s.link.returning.map fun x => if x.1 == e.1.val then (x.1, new) else x
    { s with link := { s.link with returning := l } }
  else mirrorSlot e s

/-- One bundle is taken into the mirror (R503, R504). -/
def takeBundle (m : MirrorRx) (s : State) : State :=
  let s1 := m.slots.foldl (fun s e => takeSlotRecord e s) (takeRecords m s)
  mirrorEvents m (mirrorDb s1.db.recs m.recs s1)

/-- The bundles that are due on a boundary: those of n with the boundary at or after n + 4 (R503). -/
def bundleDue (b : Nat) (m : List Byte) : Bool := (bundleOf m).stroke + 4 ≤ b

/-- MIRROR_BUNDLE_APPLY (R503, R504) on a boundary: every bundle that is complete and due applies, in order of arrival; `mirror_late`
counts those whose n + 4 is past. -/
def bundleRule (s : State) : State :=
  if !isLocal s || !linkUp s || s.link.resync then s
  else
    let b := strokeOf s.now
    let due := s.link.bundles.filter (bundleDue b)
    due.foldl (fun s m =>
      let r := bundleOf m
      takeBundle r (if r.stroke + 4 < b then { s with link := { s.link with mirrorLate := bump s.link.mirrorLate 1 } } else s))
      { s with link := { s.link with bundles := s.link.bundles.filter fun m => !bundleDue b m } }

/-- MIRROR_BUNDLE_APPLY (R503): on the next stroke boundary. -/
def execMirrorBundleApply (s : State) : Out :=
  if isLocal s && linkUp s && !s.link.resync && s.link.bundles.any (bundleDue (s.latch.stroke + 1)) then
    .next (bundleRule (toBoundary s))
  else .next s

/-! ### Resynchronisation (R58, R508, R592) -/

/-- The stroke's step of the generation (R51, R58), whether or not a record has changed on it, reported on this boundary
(R508). -/
def stepGeneration (s : State) : State :=
  let stepped := s.db.steppedAt == some (strokeOf s.now)
  let g := if stepped then s.db.generation else s.db.generation + 1
  let steps := if stepped then s.db.stepsSince else s.db.stepsSince + 1
  let s1 := queueEvent s evDbGeneration 0xFFFF (u32 g.toNat ++ u32 steps ++ u32 (recordsChanged s.db))
  { s1 with db := { s1.db with
    generation := g, lastEvent := some (strokeOf s1.now), stepsSince := 0, steppedAt := some (strokeOf s1.now) } }

/-- The mirror is rebuilt: records that the remote does not send are free (R508). -/
def rebuildDb (l : List MirrorRec) (s : State) : State :=
  let kept := s.db.recs.map fun r =>
    if l.any fun x => x.index == r.index then r else { r with body := .free, pinned := false, fromCensus := false, eon := false }
  stepGeneration (mirrorDb kept l s)

/-- Every LINK_LOST slot enters ACQUIRING with reason `LINK` (R508). -/
def returnSlots (s : State) : State :=
  (List.finRange 48).foldl (fun s i =>
    if s.slots[i].state = .linkLost then setSlotStateAt (stampOf s) i .acquiring reasonLink s else s) s

/-- The remote's whole database has arrived (R508): the last message of stream 0x0401 carries the stroke on which it was sent. -/
def resyncEnd (s : State) : Option Nat := (s.link.resyncIn.find? fun m => m.length == 8).map (getU 8 0)

/-- The records of the resynchronisation. -/
def resyncRecs (s : State) : List MirrorRec := (s.link.resyncIn.filter fun m => m.length == 256).map mirrorRecOf

/-- The bundles that a rebuild on a boundary takes: those of the stroke of the database and later that are due (R503, R508). -/
def rebuildBundles (b : Nat) (s : State) : List MirrorRx :=
  match resyncEnd s with
  | none => []
  | some n => (s.link.bundles.map bundleOf).filter fun m => n ≤ m.stroke && m.stroke + 4 ≤ b

/-- The rebuild is complete on a boundary: the database is there whole, with the status records of its stroke or a later one
(R508; log entry 46). -/
def resyncReady (b : Nat) (s : State) : Bool := s.link.resync && !(rebuildBundles b s).isEmpty

/-- What the remote reports of its slots, the newest of each (R508). -/
def reportedSlots (l : List MirrorRx) : List (Fin 48 × List Byte) :=
  (List.finRange 48).filterMap fun i =>
    (l.reverse.findSome? fun m => (m.slots.find? fun e => e.1 == i).map (·.2)).map fun b => (i, b)

/-- A rebuild on stroke r (R508): the local steps its generation and the lost slots enter ACQUIRING; what the remote reports for
them is taken on r + 1. -/
def rebuild (s : State) : State :=
  let b := strokeOf s.now
  let l := rebuildBundles b s
  let all := l.foldl (fun rs (m : MirrorRx) => m.recs.foldl (fun rs r => upsert (fun (x : MirrorRec) => x.index == r.index) r rs) rs) (resyncRecs s)
  let s0 := { s with link := { s.link with
    bundles := s.link.bundles.filter fun m => !bundleDue b m, resyncIn := [] } }
  let s1 := rebuildDb all (l.foldl (fun s m => takeRecords m s) s0)
  let slots := reportedSlots l
  let lost := (List.finRange 48).filter fun i => s1.slots[i].state == .linkLost
  let s2 := slots.foldl (fun s e => if lost.contains e.1 then
    modSlot s e.1 fun x => { x with tune := if getU 1 1 e.2 = 0 then x.tune else tuneOf x.tune e.2 } else mirrorSlot e s) s1
  let s3 := l.foldl (fun s m => mirrorEvents m s) (returnSlots s2)
  { s3 with link := { s3.link with
    resync := false
    returnAt := b + 1
    returning := (slots.filter fun e => lost.contains e.1).map fun e => (e.1.val, slotStateOf (getU 1 1 e.2)) } }

/-- RESYNC_COMPLETE on a boundary of a local. -/
def resyncRule (s : State) : State := if isLocal s && linkUp s && resyncReady (strokeOf s.now) s then rebuild s else s

/-- RESYNC_COMPLETE (R508, R592): on the next stroke boundary a local whose mirror is rebuilt takes it; a remote applies the RDS
values it was sent. -/
def execResyncComplete (s : State) : Out :=
  if !linkUp s then .next s
  else if isLocal s then
    if resyncReady (s.latch.stroke + 1) s then .next (resyncRule (toBoundary s)) else .next s
  else
    match s.link.rdsHeld with
    | some (rbds, correct) =>
      let s1 := toBoundary s
      .next (applySideSet { s1.side.cfg with rbds := rbds, correct := correct } { s1 with link := { s1.link with rdsHeld := none } })
    | none => .next s

/-- On r + 1 every slot that returns takes the state the remote reports for it (R58, R508). -/
def returnRule (s : State) : State :=
  if s.link.returning.isEmpty || s.latch.stroke + 1 < s.link.returnAt then s
  else s.link.returning.foldl (fun s e =>
    match finOf 48 e.1 with
    | some i => if s.slots[i].state = .acquiring then setSlotStateAt (stampOf s) i e.2 reasonLink s else s
    | none => s) { s with link := { s.link with returning := [] } }

end Sys2Proof.Machine
end

