-- ==== Sys2Proof/Machine/Uplink.lean ====
section
/-! DEFINITION. What a remote sends of its own accord in RUN, and what a local tells it: stroke bundles (R503), the
resynchronisation (R508), and the AAC-LC frames of its FM and AM slots (R498, R499). The layouts within a bundle and
of the message of rates are the model's (notes/assumptions/46.md). -/

namespace Sys2Proof.Machine

/-! ### Stroke bundles (R503) -/

/-- One record of a bundle: its kind, its length, its bytes. -/
def bundleItem (kind : Nat) (b : List Byte) : List Byte := u8 kind ++ zeros 1 ++ u16 b.length ++ b

/-- The status records latched at the boundary: every slot, input, converter, and the census (R503). -/
def latchedItems (s : State) : List Byte :=
  ((List.finRange 48).flatMap fun i => bundleItem 1 (slotRecord i s.latch.stroke s.latch.slots[i]))
    ++ ((List.finRange 3).flatMap fun i => bundleItem 2 (u8 i.val ++ feEntry s.latch.inputs[i]))
    ++ ((List.finRange 3).flatMap fun i => bundleItem 3 (u8 i.val ++ temperStatus s.latch.convs[i]))
    ++ bundleItem 4 (censusStatus s)

/-- The database records that changed on the stroke of the latch (R51, R503). -/
def changedRecs (s : State) : List DbRec :=
  if s.db.steppedAt = some s.latch.stroke then s.db.recs.filter fun r => r.generation == s.db.generation else []

/-- The events that are posted on the boundary, with the remote's timestamps (R55, R503); of its link and of its generation each
device posts its own (log entry 46). -/
def dueEvents (s : State) : List Event :=
  sortBy eventLe (s.evq.filter fun e =>
    e.timestamp ≤ s.latch.stroke * 24576 && e.code.toNat != evLinkState && e.code.toNat != evDbGeneration)

/-- An event in a bundle. -/
def eventItem (e : Event) : List Byte :=
  bundleItem 6 (u64 e.timestamp ++ u16 e.code.toNat ++ u16 e.object.toNat ++ e.payload)

/-- A bundle: n, its records, and the marker that carries n (R503). -/
def bundleBytes (s : State) : List Byte :=
  u64 s.latch.stroke ++ latchedItems s ++ ((changedRecs s).flatMap fun r => bundleItem 5 (dbBytes r))
    ++ ((dueEvents s).flatMap eventItem) ++ bundleItem 0xFF (u64 s.latch.stroke)

/-- The bundle of the boundary waits for LC. -/
def pushBundle (s : State) : State :=
  let b := bundleBytes s
  { s with link := { s.link with lcOut := s.link.lcOut ++ framesOf (frameMax s 0x20) 5 0x0200 b.length b } }

/-! ### Resynchronisation (R508) -/

/-- The whole database: each record a message of stream 0x0401, and a last one that carries the stroke. -/
def resyncFrames (s : State) : List Packet :=
  (s.db.recs.flatMap fun r => framesOf (frameMax s 0x61) 6 0x0401 256 (dbBytes r))
    ++ framesOf (frameMax s 0x61) 6 0x0401 8 (u64 s.latch.stroke)

/-- On its first boundary in RUN the remote begins with its whole database (R508). -/
def beginMirror (s : State) : State :=
  if s.link.mirroring then s
  else { s with link := { s.link with mirroring := true, lbOut := resyncFrames s } }

/-! ### AAC-LC frames (R498, R499) -/

/-- The rate of a slot's encoder: that of a rec that records from it, or 192 kbit/s. -/
def wantedKbps (s : State) (slot : Nat) : Nat :=
  match s.link.aacRates.find? fun e => e.1 == slot with
  | some e => e.2
  | none => 192

/-- The rate of an encoder's next frame: the new one from the span boundary at which it applies (R499). -/
def frameKbps (e : AacEnc) : Nat := if e.changeAt ≤ e.next then e.newKbps else e.kbps

/-- One frame: `timestamp`, `kbps`, `flags` and the access unit, of the length that the rate gives on the average; its
content is free. -/
def sendAac (e : AacEnc) (valid last : Bool) (s : State) : State :=
  let head := u64 e.next ++ u16 (frameKbps e) ++ u8 (bitAt valid 0 + bitAt e.first 1 + bitAt last 2) ++ zeros 5
  enqueueAll s (0x30 + e.slot) (framesOf (frameMax s (0x30 + e.slot)) 3 e.slot (16 + 8 * frameKbps e / 3) head)

/-- The slots whose audio is encoded. -/
def encodedSlots (s : State) : List (Fin 48 × Slot) := (hostSlots s).filter fun e => e.2.tune.type != .dab

/-- A slot's next frame is complete: its last sample has come through the chain and the audio path (R175, R222). -/
def aacReady (now : Nat) (e : AacEnc) (x : Slot) : Bool :=
  25 * (e.next + aacTicks) + chainDelay x.tune + audioDelay x ≤ 25 * now

/-- One encoder at a boundary: a slot that is encoded no longer sends its last frame; another sends the frame that is
complete. A change of rate begins with the frames stamped at or after a boundary of 120 ms spans (R392, R499). -/
def strokeEncoder (acc : State × List AacEnc) (e : AacEnc) : State × List AacEnc :=
  let (s, l) := acc
  match (encodedSlots s).find? fun x => x.1.val == e.slot with
  | none => (sendAac e false true s, l)
  | some (_, x) =>
    let e1 := if s.latch.stroke % 120 = 0 ∧ e.newKbps ≠ wantedKbps s e.slot then
        { e with kbps := frameKbps e, newKbps := wantedKbps s e.slot, changeAt := s.latch.stroke * 24576 } else e
    if aacReady s.now e1 x then
      (sendAac e1 (x.state == .live) false s, l ++ [{ e1 with next := e1.next + aacTicks, first := false }])
    else (s, l ++ [e1])

/-- The encoders that begin: one for each encoded slot without one. -/
def newEncoders (s : State) : List AacEnc :=
  ((encodedSlots s).filter fun x => !(s.link.aac.any fun e => e.slot == x.1.val)).map fun x =>
    ⟨x.1.val, ceilDiv s.now aacTicks * aacTicks, wantedKbps s x.1.val, wantedKbps s x.1.val, 0, true⟩

/-- Every encoder at a boundary. -/
def strokeAac (s : State) : State :=
  let (s1, l) := s.link.aac.foldl strokeEncoder (s, [])
  { s1 with link := { s1.link with aac := l ++ newEncoders s } }

/-! ### The rates of the recs (R499) -/

/-- Slot and rate of each rec that records an FM or AM slot. -/
def recRates (s : State) : List (Nat × Nat) :=
  (s.store.recs.filter fun r => r.recording && r.bearer != 2).map fun r => (r.slot, aacKbps r.aac)

/-- The local tells the remote of them whenever they have changed, as LC has room. -/
def tellRates (s : State) : State :=
  let l := recRates s
  let ps := controlFrames s (requestBytes ⟨0x0805, 0, 2 * l.length, 0, 0, 0, l.flatMap fun e => u8 e.1 ++ u8 e.2⟩)
  if s.link.ratesTold ≠ some l ∧ roomFor s 0x20 ps then
    enqueueAll { s with link := { s.link with ratesTold := some l } } 0x20 ps
  else s

/-- What either end sends of its own accord at a stroke boundary in RUN. -/
def strokeUplink (s : State) : State :=
  if !linkUp s then s
  else if isLocal s then tellRates s
  else if isRemote s then feedWaiting (strokeAac (pushBundle (beginMirror s)))
  else s

end Sys2Proof.Machine
end

