-- ==== Sys2Proof/Machine/Stroke.lean ====
section
/-! DEFINITION. The stroke boundary (R28, R49 to R56, R105, R328) and the passing of time when no command waits
(notes/assumptions/10.md). -/

namespace Sys2Proof.Machine

/-! ### The slots at a boundary (R214 to R217, R224 to R229, R251, R252) -/

/-- What an FM or AM slot does with its metrics: bandwidth, stereo and detector (R224, R227, R236). -/
def adaptSlot (now : Nat) (x : Slot) : Slot :=
  let x1 := widenBw now (adaptBw now x)
  let x2 := if stereoOnDue x1 then stereoOnRule x1 else if stereoOffDue x1 then stereoOffRule x1 else x1
  let x3 := amSyncLost now x2
  if amSyncDue x3 then amSyncRule now x3 else x3

/-- Every slot measures the stroke that ends, before anything that its boundary changes (R239); in the local role the slots
are the remote's. -/
def measureStroke (s : State) : State :=
  if isLocal s then s
  else { s with slots := s.slots.map fun x =>
    if x.state = .free then x else if x.tune.type = .dab then closeDabStroke s x else closeStroke s x }

/-- The receiver rules of an ensemble slot that time alone makes due. -/
def dabTimers (i : Fin 48) (s : State) : State :=
  let s1 := flywheelRule i (prsFailRule i (syncTimeoutRule i s))
  completeDue i ((s1.slots[i].dab.subchs.map (·.id)).foldl (fun s id => subchAbsentRule i id s) s1)

/-- The state rules of a slot in the order of R217: converter FAULT, hold, acquisition, loss, recovery. -/
def slotStateRules (i : Fin 48) (s : State) : State :=
  let s1 := slotHoldRule i (slotFaultRule i s)
  let s2 := slotRecoveryRule i (slotLossRule i (slotAcquisitionRule i s1))
  dabRecoveryRule i (dabLossRule i (dabAcquisitionRule i s2))

/-- One slot at a boundary, after its changes. -/
def strokeSlot (i : Fin 48) (s : State) : State :=
  if s.slots[i].state = .free then s
  else
    let s1 := settleRule i s
    if s1.slots[i].tune.type = .dab then slotStateRules i (dabTimers i s1)
    else slotStateRules i (modSlot s1 i (adaptSlot s1.now))

/-- The holds that arose since the boundary before have been dealt with (R213). -/
def passHolds (s : State) : State :=
  { s with
    slots := s.slots.map fun x => { x with held := false }
    inputs := s.inputs.map fun x => { x with holdSeen := false } }

/-- Every slot at a boundary; in the local role the slots are the remote's. -/
def strokeSlots (s : State) : State :=
  if isLocal s then s else passHolds ((List.finRange 48).foldl (fun s i => strokeSlot i s) s)

/-! ### The boundary -/

/-- The generation that became readable on this boundary, noted in the organisations that wait for it (R263). -/
def noteGenerations (s : State) : State :=
  { s with slots := s.slots.map fun x =>
    if x.dab.orgGens.isEmpty then x else { x with dab := noteGeneration s.latch.stroke s.db.generation x.dab } }

/-- The per-stroke rules, each on what the ones before it leave: inputs, slots, database, census, outputs, followers, store,
Dispatch, GPIOs and trace. -/
def strokeRules (s : State) : State :=
  let s1 := strokeSlots (strokeFrontEnd s)
  let s2 := noteGenerations (generationRule (dbBoundary s1))
  let s3 := (List.finRange 8).foldl (fun s o => motTimeoutRule o s) (strokeCensus s2)
  let s4 := strokeStore (strokeFollowers (strokeDetectors (strokeOutputs s3)))
  strokeTrace (strokeGpio (strokeDispatch s4))

/-- The events and faults that the rules of a boundary brought carry that boundary (R55, R56): those queued with a later
stamp take it. -/
def restampAt (events faults : Nat) (s : State) : State :=
  { s with
    evq := s.evq.take events ++ (s.evq.drop events).map fun e => { e with timestamp := min e.timestamp s.now }
    faults := s.faults.take faults ++ (s.faults.drop faults).map fun f => { f with timestamp := min f.timestamp s.now } }

/-- Every status record latched whole at the boundary (R49). -/
def latchAll (s : State) : State :=
  { s with latch := {
      stroke := s.latch.stroke, inputs := s.inputs, convs := s.convs, slots := s.slots, census := s.census, db := s.db
      side := s.side, follow := s.follow, outs := s.outs, ports := s.ports, store := s.store, dispatch := s.dispatch
      link := s.link, phy := s.phy, aux := s.aux, gpio := s.gpio, faults := s.faults, faultsLost := s.faultsLost } }

/-- The changes of the boundary itself come first (R30): due transactions, an outage, slots that return, and the bundles and the
rebuild that are due on it (R503, R508). -/
def boundaryChanges (s : State) : State :=
  resyncRule (bundleRule (returnRule (outageRule (toBoundary (applyDue (waiting s).length s)))))

/-- The boundary to come: slots and counters are latched with what happened before it (R105, R239, R546), its changes take effect, its
rules are evaluated, its records are latched, S0 decides from them (R328, R333), and its events are posted (R54 to R56).
A reset that `SYS_RESET` scheduled takes its place (R109). -/
def strokeBoundary (s : State) : State :=
  if resetDue s then takeReset s
  else
    let n := s.latch.stroke + 1
    let s := measureStroke (answerBoot s)
    let s1 := boundaryChanges (latchCounters { drainTrace (postDueEvents s) with latch := { s.latch with stroke := n } } |>
      fun t => { t with latch := s.latch })
    let s2 := { s1 with latch := { s1.latch with stroke := n } }
    let s3 := latchAll (restampAt s1.evq.length s1.faults.length (strokeRules s2))
    let s4 := decideFollowers ((List.finRange 4).foldl (fun s ch => switchDecision ch s) s3)
    reportStage (flushResponses (postDueEvents (strokeUplink s4)))

/-- STROKE_BOUNDARY (R28): device time comes to the next stroke boundary, while it runs. -/
def execStrokeBoundary (s : State) : Out :=
  .next (if s.pd1 then strokeBoundary s else s)

/-! ### No command waits (log entry 10) -/

/-- With no command waiting, words of HOSTQ_W land, S0 posts due events, refuses a request whose opcode no table lists,
and the responses of a remote go out; then device time, once it runs, advances by one tick, and comes to a boundary as
STROKE_BOUNDARY does. -/
def idle (s : State) : State :=
  let s1 := flushResponses (takeUnknown (postDueEvents (answerBoot (landAll s))))
  if !s1.pd1 then s1
  else if (s1.latch.stroke + 1) * 24576 ≤ s1.now + 1 then strokeBoundary s1
  else { s1 with now := s1.now + 1 }

end Sys2Proof.Machine
end

