-- ==== Sys2Proof/Machine/Dispatch.lean ====
section
/-! DEFINITION. One arm per command of `Instr`, each a direct call of the meaning of that command. -/

namespace Sys2Proof.Machine

/-- The effect of a command on everything but the queue. -/
def exec (i : Instr) (s : State) : Host.Outcome State Fault Refusal :=
  match i with
  | .sysInfo ch => Sys2Proof.Machine.execSysInfo ch s
  | .sysReset ch => Sys2Proof.Machine.execSysReset ch s
  | .sysResetTakesEffect => Sys2Proof.Machine.execSysResetTakesEffect s
  | .txnBegin ch => Sys2Proof.Machine.execTxnBegin ch s
  | .txnCommit ch abort => Sys2Proof.Machine.execTxnCommit ch abort s
  | .txnCancel ch => Sys2Proof.Machine.execTxnCancel ch s
  | .txnStatusGet ch => Sys2Proof.Machine.execTxnStatusGet ch s
  | .txnApply => Sys2Proof.Machine.execTxnApply s
  | .faultGet ch => Sys2Proof.Machine.execFaultGet ch s
  | .faultAck ch => Sys2Proof.Machine.execFaultAck ch s
  | .bulkUnmap ch => Sys2Proof.Machine.execBulkUnmap ch s
  | .bootBegin ch => Sys2Proof.Machine.execBootBegin ch s
  | .bootData ch => Sys2Proof.Machine.execBootData ch s
  | .bootEnd ch => Sys2Proof.Machine.execBootEnd ch s
  | .bootAuthDone => Sys2Proof.Machine.execBootAuthDone s
  | .roleConfirm ch => Sys2Proof.Machine.execRoleConfirm ch s
  | .remoteRoleConfirm => Sys2Proof.Machine.execRemoteRoleConfirm s
  | .pdSet ch => Sys2Proof.Machine.execPdSet ch s
  | .pdSwitchComplete => Sys2Proof.Machine.execPdSwitchComplete s
  | .pwrSleep ch => Sys2Proof.Machine.execPwrSleep ch s
  | .feInputSet ch => Sys2Proof.Machine.execFeInputSet ch s
  | .feBellowsSet ch => Sys2Proof.Machine.execFeBellowsSet ch s
  | .feStatusGet ch => Sys2Proof.Machine.execFeStatusGet ch s
  | .temperSet ch => Sys2Proof.Machine.execTemperSet ch s
  | .temperRun ch => Sys2Proof.Machine.execTemperRun ch s
  | .temperSave ch => Sys2Proof.Machine.execTemperSave ch s
  | .temperRestore ch => Sys2Proof.Machine.execTemperRestore ch s
  | .temperStatusGet ch => Sys2Proof.Machine.execTemperStatusGet ch s
  | .temperLevelTrace ch => Sys2Proof.Machine.execTemperLevelTrace ch s
  | .temperLevelTraceDone ch tone => Sys2Proof.Machine.execTemperLevelTraceDone ch tone s
  | .slotAssign ch => Sys2Proof.Machine.execSlotAssign ch s
  | .slotRelease ch => Sys2Proof.Machine.execSlotRelease ch s
  | .slotRetune ch => Sys2Proof.Machine.execSlotRetune ch s
  | .slotStatusGet ch => Sys2Proof.Machine.execSlotStatusGet ch s
  | .slotStep ch => Sys2Proof.Machine.execSlotStep ch s
  | .slotFmSet ch => Sys2Proof.Machine.execSlotFmSet ch s
  | .slotAmSet ch => Sys2Proof.Machine.execSlotAmSet ch s
  | .dbSnapshotOpen ch => Sys2Proof.Machine.execDbSnapshotOpen ch s
  | .dbSnapshotClose ch => Sys2Proof.Machine.execDbSnapshotClose ch s
  | .dbRead ch => Sys2Proof.Machine.execDbRead ch s
  | .dbChanges ch => Sys2Proof.Machine.execDbChanges ch s
  | .dbStream ch => Sys2Proof.Machine.execDbStream ch s
  | .sideSet ch => Sys2Proof.Machine.execSideSet ch s
  | .sideStreamSet ch => Sys2Proof.Machine.execSideStreamSet ch s
  | .censusSet ch => Sys2Proof.Machine.execCensusSet ch s
  | .censusStatusGet ch => Sys2Proof.Machine.execCensusStatusGet ch s
  | .followSet ch => Sys2Proof.Machine.execFollowSet ch s
  | .followSwitch ch => Sys2Proof.Machine.execFollowSwitch ch s
  | .followSwitchDecision ch => Sys2Proof.Machine.execFollowSwitchDecision ch s
  | .followStatusGet ch => Sys2Proof.Machine.execFollowStatusGet ch s
  | .followCandidatesGet ch => Sys2Proof.Machine.execFollowCandidatesGet ch s
  | .portSet ch => Sys2Proof.Machine.execPortSet ch s
  | .portStatusGet ch => Sys2Proof.Machine.execPortStatusGet ch s
  | .outSet ch => Sys2Proof.Machine.execOutSet ch s
  | .outMapSet ch => Sys2Proof.Machine.execOutMapSet ch s
  | .outFilterSet ch => Sys2Proof.Machine.execOutFilterSet ch s
  | .outFilterSwap ch => Sys2Proof.Machine.execOutFilterSwap ch s
  | .outHeldSwap out => Sys2Proof.Machine.execOutHeldSwap out s
  | .outDetectSet ch => Sys2Proof.Machine.execOutDetectSet ch s
  | .outStatusGet ch => Sys2Proof.Machine.execOutStatusGet ch s
  | .outDetectGet ch => Sys2Proof.Machine.execOutDetectGet ch s
  | .storeFormat ch => Sys2Proof.Machine.execStoreFormat ch s
  | .storeFormatDone ch r => Sys2Proof.Machine.execStoreFormatDone ch r s
  | .storeMount ch => Sys2Proof.Machine.execStoreMount ch s
  | .storeMountDone ch wrong => Sys2Proof.Machine.execStoreMountDone ch wrong s
  | .storeUnmount ch => Sys2Proof.Machine.execStoreUnmount ch s
  | .storeStatusGet ch => Sys2Proof.Machine.execStoreStatusGet ch s
  | .storeRecordSet ch => Sys2Proof.Machine.execStoreRecordSet ch s
  | .storeRecGet ch => Sys2Proof.Machine.execStoreRecGet ch s
  | .cursorSet ch => Sys2Proof.Machine.execCursorSet ch s
  | .cursorStatusGet ch => Sys2Proof.Machine.execCursorStatusGet ch s
  | .exportSet ch => Sys2Proof.Machine.execExportSet ch s
  | .storeMaintSet ch => Sys2Proof.Machine.execStoreMaintSet ch s
  | .storeSlagGet ch => Sys2Proof.Machine.execStoreSlagGet ch s
  | .storeBootWrite ch => Sys2Proof.Machine.execStoreBootWrite ch s
  | .storeBootWriteDone ch r => Sys2Proof.Machine.execStoreBootWriteDone ch r s
  | .dispatchSet ch => Sys2Proof.Machine.execDispatchSet ch s
  | .dispatchStatusGet ch => Sys2Proof.Machine.execDispatchStatusGet ch s
  | .policeSet ch => Sys2Proof.Machine.execPoliceSet ch s
  | .policeStatusGet ch => Sys2Proof.Machine.execPoliceStatusGet ch s
  | .linkStart ch => Sys2Proof.Machine.execLinkStart ch s
  | .linkStop ch => Sys2Proof.Machine.execLinkStop ch s
  | .linkSet ch => Sys2Proof.Machine.execLinkSet ch s
  | .linkFeedSet ch => Sys2Proof.Machine.execLinkFeedSet ch s
  | .linkStatusGet ch => Sys2Proof.Machine.execLinkStatusGet ch s
  | .linkPhySet ch => Sys2Proof.Machine.execLinkPhySet ch s
  | .linkPhyStatusGet ch => Sys2Proof.Machine.execLinkPhyStatusGet ch s
  | .linkToneGet ch => Sys2Proof.Machine.execLinkToneGet ch s
  | .auxCfgSet ch => Sys2Proof.Machine.execAuxCfgSet ch s
  | .auxCfgApply => Sys2Proof.Machine.execAuxCfgApply s
  | .auxXfer ch => Sys2Proof.Machine.execAuxXfer ch s
  | .auxRetry => Sys2Proof.Machine.execAuxRetry s
  | .auxBusyTimeout => Sys2Proof.Machine.execAuxBusyTimeout s
  | .auxXferDone r => Sys2Proof.Machine.execAuxXferDone r s
  | .auxSclTimeout => Sys2Proof.Machine.execAuxSclTimeout s
  | .auxBusClear pulses => Sys2Proof.Machine.execAuxBusClear pulses s
  | .auxStatusGet ch => Sys2Proof.Machine.execAuxStatusGet ch s
  | .gpioSet ch => Sys2Proof.Machine.execGpioSet ch s
  | .gpioGet ch => Sys2Proof.Machine.execGpioGet ch s
  | .gpioEdge gpio level => Sys2Proof.Machine.execGpioEdge gpio level s
  | .gpioDebounceDone gpio => Sys2Proof.Machine.execGpioDebounceDone gpio s
  | .idGetCert ch => Sys2Proof.Machine.execIdGetCert ch s
  | .idChallenge ch => Sys2Proof.Machine.execIdChallenge ch s
  | .traceSet ch => Sys2Proof.Machine.execTraceSet ch s
  | .obsCountersGet ch => Sys2Proof.Machine.execObsCountersGet ch s
  | .ring ch => Sys2Proof.Machine.execRing ch s
  | .release ch => Sys2Proof.Machine.execRelease ch s
  | .abort ch => Sys2Proof.Machine.execAbort ch s
  | .bulkDone half => Sys2Proof.Machine.execBulkDone half s
  | .irqStatusClear w => Sys2Proof.Machine.execIrqStatusClear w s
  | .evtTailWrite w => Sys2Proof.Machine.execEvtTailWrite w s
  | .i2cTimingWrite timeout w => Sys2Proof.Machine.execI2cTimingWrite timeout w s
  | .hostRegisterWrite offset w => Sys2Proof.Machine.execHostRegisterWrite offset w s
  | .i2cWriteFrame address bytes badAck fullAt part => Sys2Proof.Machine.execI2cWriteFrame address bytes badAck fullAt part s
  | .i2cReadFrame address pointer count badAck holdAt part => Sys2Proof.Machine.execI2cReadFrame address pointer count badAck holdAt part s
  | .spiWriteFrame opcode bytes sckKhz part => Sys2Proof.Machine.execSpiWriteFrame opcode bytes sckKhz part s
  | .spiReadFrame opcode pointer count sckKhz part => Sys2Proof.Machine.execSpiReadFrame opcode pointer count sckKhz part s
  | .sclTimeout => Sys2Proof.Machine.execSclTimeout s
  | .sdaTimeout => Sys2Proof.Machine.execSdaTimeout s
  | .sclHoldRelease => Sys2Proof.Machine.execSclHoldRelease s
  | .resetNAssert lowNs => Sys2Proof.Machine.execResetNAssert lowNs s
  | .powerOnMonitorReset => Sys2Proof.Machine.execPowerOnMonitorReset s
  | .resetRelease => Sys2Proof.Machine.execResetRelease s
  | .pllLockRomStart => Sys2Proof.Machine.execPllLockRomStart s
  | .otpCheckDone => Sys2Proof.Machine.execOtpCheckDone s
  | .nandBootDone wrong => Sys2Proof.Machine.execNandBootDone wrong s
  | .linkBootImageReceived => Sys2Proof.Machine.execLinkBootImageReceived s
  | .firmwareReady => Sys2Proof.Machine.execFirmwareReady s
  | .strokeBoundary => Sys2Proof.Machine.execStrokeBoundary s
  | .channeliserFrame input codes => Sys2Proof.Machine.execChanneliserFrame input codes s
  | .epochBoundary conv temperature => Sys2Proof.Machine.execEpochBoundary conv temperature s
  | .bellowsAcquireDone input => Sys2Proof.Machine.execBellowsAcquireDone input s
  | .bellowsRise input => Sys2Proof.Machine.execBellowsRise input s
  | .bellowsRecoverExpiry input => Sys2Proof.Machine.execBellowsRecoverExpiry input s
  | .temperStartupDone conv => Sys2Proof.Machine.execTemperStartupDone conv s
  | .foregroundDone conv units gi => Sys2Proof.Machine.execForegroundDone conv units gi s
  | .temperCycleStart conv => Sys2Proof.Machine.execTemperCycleStart conv s
  | .temperMeasureDone conv v => Sys2Proof.Machine.execTemperMeasureDone conv v s
  | .temperVerify conv offset gainUdb skew => Sys2Proof.Machine.execTemperVerify conv offset gainUdb skew s
  | .temperCycleEnd conv => Sys2Proof.Machine.execTemperCycleEnd conv s
  | .settleEnd slot => Sys2Proof.Machine.execSettleEnd slot s
  | .diversityWindow slot => Sys2Proof.Machine.execDiversityWindow slot s
  | .slotHold slot => Sys2Proof.Machine.execSlotHold slot s
  | .slotAcquisitionRule slot => Sys2Proof.Machine.execSlotAcquisitionRule slot s
  | .slotLoss slot => Sys2Proof.Machine.execSlotLoss slot s
  | .slotRecovery slot => Sys2Proof.Machine.execSlotRecovery slot s
  | .fmBwWiden slot => Sys2Proof.Machine.execFmBwWiden slot s
  | .fmStereoAvailable slot => Sys2Proof.Machine.execFmStereoAvailable slot s
  | .fmStereoUnavailable slot => Sys2Proof.Machine.execFmStereoUnavailable slot s
  | .amSyncLock slot => Sys2Proof.Machine.execAmSyncLock slot s
  | .dabNullDetect slot depthDb length spacing => Sys2Proof.Machine.execDabNullDetect slot depthDb length spacing s
  | .dabCoarseLock slot peaks => Sys2Proof.Machine.execDabCoarseLock slot peaks s
  | .dabSyncTimeout slot => Sys2Proof.Machine.execDabSyncTimeout slot s
  | .dabFineLock slot errorHz moved cif ts => Sys2Proof.Machine.execDabFineLock slot errorHz moved cif ts s
  | .dabPrsFail slot => Sys2Proof.Machine.execDabPrsFail slot s
  | .dabFrame slot f => Sys2Proof.Machine.execDabFrame slot f s
  | .dabFlywheelCif slot => Sys2Proof.Machine.execDabFlywheelCif slot s
  | .dabLogicalFrameComplete slot subch => Sys2Proof.Machine.execDabLogicalFrameComplete slot subch s
  | .dabAcquisition slot => Sys2Proof.Machine.execDabAcquisition slot s
  | .dabLoss slot => Sys2Proof.Machine.execDabLoss slot s
  | .dabRecovery slot => Sys2Proof.Machine.execDabRecovery slot s
  | .dabReconfiguration slot => Sys2Proof.Machine.execDabReconfiguration slot s
  | .dabUnannouncedChange slot => Sys2Proof.Machine.execDabUnannouncedChange slot s
  | .dabSubchAbsent slot subch => Sys2Proof.Machine.execDabSubchAbsent slot subch s
  | .dabDiscontinuity slot => Sys2Proof.Machine.execDabDiscontinuity slot s
  | .dbFicApply => Sys2Proof.Machine.execDbFicApply s
  | .outDecodeFrame out leg f => Sys2Proof.Machine.execOutDecodeFrame out leg f s
  | .rdsBlock slot bits ts carrier => Sys2Proof.Machine.execRdsBlock slot bits ts carrier s
  | .rdsGroup slot => Sys2Proof.Machine.execRdsGroup slot s
  | .dbRdsApply => Sys2Proof.Machine.execDbRdsApply s
  | .padDataGroup out g => Sys2Proof.Machine.execPadDataGroup out g s
  | .dbDlApply out => Sys2Proof.Machine.execDbDlApply out s
  | .motTimeout out => Sys2Proof.Machine.execMotTimeout out s
  | .dbRecordExpiry index => Sys2Proof.Machine.execDbRecordExpiry index s
  | .dbGenerationEvent => Sys2Proof.Machine.execDbGenerationEvent s
  | .censusVisitStart => Sys2Proof.Machine.execCensusVisitStart s
  | .censusVisitEnd slot => Sys2Proof.Machine.execCensusVisitEnd slot s
  | .lagMeasurement out => Sys2Proof.Machine.execLagMeasurement out s
  | .lagResult out => Sys2Proof.Machine.execLagResult out s
  | .lagNotFound out => Sys2Proof.Machine.execLagNotFound out s
  | .followStandbyReplace out => Sys2Proof.Machine.execFollowStandbyReplace out s
  | .levelWindowEnd out => Sys2Proof.Machine.execLevelWindowEnd out s
  | .delayWalkDone out => Sys2Proof.Machine.execDelayWalkDone out s
  | .followFadeStart out => Sys2Proof.Machine.execFollowFadeStart out s
  | .followFadeEnd out => Sys2Proof.Machine.execFollowFadeEnd out s
  | .followDipStart out => Sys2Proof.Machine.execFollowDipStart out s
  | .followDipEnd out => Sys2Proof.Machine.execFollowDipEnd out s
  | .tdmFrame port bclks => Sys2Proof.Machine.execTdmFrame port bclks s
  | .portTargetLock port => Sys2Proof.Machine.execPortTargetLock port s
  | .portClockError port cause => Sys2Proof.Machine.execPortClockError port cause s
  | .portFsyncResume port => Sys2Proof.Machine.execPortFsyncResume port s
  | .outSettled out => Sys2Proof.Machine.execOutSettled out s
  | .rsmSlip out => Sys2Proof.Machine.execRsmSlip out s
  | .billetStaged recNo timestamp aus => Sys2Proof.Machine.execBilletStaged recNo timestamp aus s
  | .nandGrant => Sys2Proof.Machine.execNandGrant s
  | .nandOpComplete r => Sys2Proof.Machine.execNandOpComplete r s
  | .checkpoint => Sys2Proof.Machine.execCheckpoint s
  | .tailExpiry => Sys2Proof.Machine.execTailExpiry s
  | .patrolRead => Sys2Proof.Machine.execPatrolRead s
  | .readDisturbCheck => Sys2Proof.Machine.execReadDisturbCheck s
  | .cursorRead cursor r => Sys2Proof.Machine.execCursorRead cursor r s
  | .pwrfailNFall lowNs => Sys2Proof.Machine.execPwrfailNFall lowNs s
  | .quenchDone pass => Sys2Proof.Machine.execQuenchDone pass s
  | .linkFrameGrant w => Sys2Proof.Machine.execLinkFrameGrant w s
  | .hostRecordGrant => Sys2Proof.Machine.execHostRecordGrant s
  | .bulkHalfReady => Sys2Proof.Machine.execBulkHalfReady s
  | .linkSuperframe r => Sys2Proof.Machine.execLinkSuperframe r s
  | .beaconTx => Sys2Proof.Machine.execBeaconTx s
  | .preambleDetect samples => Sys2Proof.Machine.execPreambleDetect samples s
  | .burstRx b => Sys2Proof.Machine.execBurstRx b s
  | .beaconAnswerTx => Sys2Proof.Machine.execBeaconAnswerTx s
  | .synthCalDone => Sys2Proof.Machine.execSynthCalDone s
  | .synthLocked => Sys2Proof.Machine.execSynthLocked s
  | .synthUnlock => Sys2Proof.Machine.execSynthUnlock s
  | .txRequestTimeout => Sys2Proof.Machine.execTxRequestTimeout s
  | .syncLoss => Sys2Proof.Machine.execSyncLoss s
  | .echoPhaseEnd farLimited => Sys2Proof.Machine.execEchoPhaseEnd farLimited s
  | .halfDuplexSync => Sys2Proof.Machine.execHalfDuplexSync s
  | .measureDone farTable => Sys2Proof.Machine.execMeasureDone farTable s
  | .linkTrainingTimeout => Sys2Proof.Machine.execLinkTrainingTimeout s
  | .linkRunStart named => Sys2Proof.Machine.execLinkRunStart named s
  | .bitswapPropose => Sys2Proof.Machine.execBitswapPropose s
  | .bitswapApply transmitter => Sys2Proof.Machine.execBitswapApply transmitter s
  | .linkFrameRx => Sys2Proof.Machine.execLinkFrameRx s
  | .ctrlRetransmit => Sys2Proof.Machine.execCtrlRetransmit s
  | .remoteTxnPart => Sys2Proof.Machine.execRemoteTxnPart s
  | .remoteReplyTimeout ch => Sys2Proof.Machine.execRemoteReplyTimeout ch s
  | .mirrorBundleApply => Sys2Proof.Machine.execMirrorBundleApply s
  | .linkOutage => Sys2Proof.Machine.execLinkOutage s
  | .resyncComplete => Sys2Proof.Machine.execResyncComplete s
  | .tracePacket words => Sys2Proof.Machine.execTracePacket words s
  | .traceOverflowPacket => Sys2Proof.Machine.execTraceOverflowPacket s
  | .traceClkRestart => Sys2Proof.Machine.execTraceClkRestart s
  | .outFadeOutDone out => Sys2Proof.Machine.execOutFadeOutDone out s
  | .nandStatusPollLimit => Sys2Proof.Machine.execNandStatusPollLimit s
  | .nandTransferEnd => Sys2Proof.Machine.execNandTransferEnd s
  | .idChallengeSigned => Sys2Proof.Machine.execIdChallengeSigned s
  | .auxSclHighAfterTimeout sdaHigh => Sys2Proof.Machine.execAuxSclHighAfterTimeout sdaHigh s
  | .auxBusFree => Sys2Proof.Machine.execAuxBusFree s

end Sys2Proof.Machine
end

