-- ==== Sys2Proof/Safety.lean ====
section
/-! DEFINITION. The terms that claims use: what a safe state and a safe step are, the mailbox rows as the command tables
of R556 list them, and when S0 serves a request. -/

namespace Sys2Proof.Safety

open Sys2Proof.Machine

/-- The window memory keeps its canonical form. -/
def memoryCanonical (s : State) : Prop := memWf s.mem = true

/-- The event ring holds at most its 64 entries (R101, R103). -/
def ringBounded (s : State) : Prop := (s.host.evtHead - s.host.evtTail).toNat ≤ 64

/-- A step answers a next state. -/
def stepGoesOn (s : State) : Prop := ∃ t, step s = .next t

/-! ### The command tables (R552, R556) -/

/-- A row of the command tables: the channel that a command of `Instr` is taken from, its opcode, its kind, and the request
lengths that the table allows (R549). -/
structure MailboxRow where
  ch : Fin 4
  opcode : Nat
  kind : Kind
  length : Nat → Bool

/-- The rows of the command tables (R556), with the kinds of R552. -/
def mailboxRow : Instr → Option MailboxRow
  | .sysInfo ch => some ⟨ch, 0x0101, .read, (· == 0)⟩
  | .sysReset ch => some ⟨ch, 0x0102, .immediate, (· == 0)⟩
  | .txnBegin ch => some ⟨ch, 0x0110, .immediate, (· == 0)⟩
  | .txnCommit ch _ => some ⟨ch, 0x0111, .long, (· == 0)⟩
  | .txnCancel ch => some ⟨ch, 0x0112, .immediate, (· == 0)⟩
  | .txnStatusGet ch => some ⟨ch, 0x0113, .read, (· == 4)⟩
  | .faultGet ch => some ⟨ch, 0x0120, .read, (· == 0)⟩
  | .faultAck ch => some ⟨ch, 0x0121, .immediate, (· == 0)⟩
  | .bulkUnmap ch => some ⟨ch, 0x0130, .config, (· == 0)⟩
  | .bootBegin ch => some ⟨ch, 0x0201, .immediate, (· == 0)⟩
  | .bootData ch => some ⟨ch, 0x0202, .immediate, fun n => 24 ≤ n && n ≤ 488 && n % 16 == 8⟩
  | .bootEnd ch => some ⟨ch, 0x0203, .long, (· == 0)⟩
  | .roleConfirm ch => some ⟨ch, 0x0210, .immediate, (· == 1)⟩
  | .pdSet ch => some ⟨ch, 0x0220, .config, (· == 3)⟩
  | .pwrSleep ch => some ⟨ch, 0x0230, .config, (· == 0)⟩
  | .feInputSet ch => some ⟨ch, 0x0301, .config, (· == 4)⟩
  | .feBellowsSet ch => some ⟨ch, 0x0302, .config, (· == 16)⟩
  | .feStatusGet ch => some ⟨ch, 0x0303, .read, (· == 1)⟩
  | .temperSet ch => some ⟨ch, 0x0310, .config, (· == 6)⟩
  | .temperRun ch => some ⟨ch, 0x0311, .config, (· == 2)⟩
  | .temperSave ch => some ⟨ch, 0x0312, .read, (· == 1)⟩
  | .temperRestore ch => some ⟨ch, 0x0313, .config, (· == 196)⟩
  | .temperStatusGet ch => some ⟨ch, 0x0314, .read, (· == 1)⟩
  | .temperLevelTrace ch => some ⟨ch, 0x0315, .long, (· == 8)⟩
  | .slotAssign ch => some ⟨ch, 0x0401, .config, (· == 12)⟩
  | .slotRelease ch => some ⟨ch, 0x0402, .config, (· == 1)⟩
  | .slotRetune ch => some ⟨ch, 0x0403, .config, (· == 12)⟩
  | .slotStatusGet ch => some ⟨ch, 0x0404, .read, (· == 1)⟩
  | .slotStep ch => some ⟨ch, 0x0405, .config, (· == 3)⟩
  | .slotFmSet ch => some ⟨ch, 0x0410, .config, (· == 72)⟩
  | .slotAmSet ch => some ⟨ch, 0x0420, .config, (· == 44)⟩
  | .dbSnapshotOpen ch => some ⟨ch, 0x0501, .immediate, (· == 0)⟩
  | .dbSnapshotClose ch => some ⟨ch, 0x0502, .immediate, (· == 1)⟩
  | .dbRead ch => some ⟨ch, 0x0503, .read, (· == 4)⟩
  | .dbChanges ch => some ⟨ch, 0x0504, .read, (· == 8)⟩
  | .dbStream ch => some ⟨ch, 0x0505, .immediate, (· == 1)⟩
  | .sideSet ch => some ⟨ch, 0x0510, .config, (· == 9)⟩
  | .sideStreamSet ch => some ⟨ch, 0x0511, .config, (· == 16)⟩
  | .censusSet ch => some ⟨ch, 0x0520, .config, (· == 27)⟩
  | .censusStatusGet ch => some ⟨ch, 0x0521, .read, (· == 0)⟩
  | .followSet ch => some ⟨ch, 0x0601, .config, (· == 44)⟩
  | .followSwitch ch => some ⟨ch, 0x0602, .long, (· == 2)⟩
  | .followStatusGet ch => some ⟨ch, 0x0603, .read, (· == 1)⟩
  | .followCandidatesGet ch => some ⟨ch, 0x0604, .read, (· == 1)⟩
  | .portSet ch => some ⟨ch, 0x0701, .config, (· == 12)⟩
  | .portStatusGet ch => some ⟨ch, 0x0702, .read, (· == 1)⟩
  | .outSet ch => some ⟨ch, 0x0703, .config, (· == 15)⟩
  | .outMapSet ch => some ⟨ch, 0x0704, .config, (· == 6)⟩
  | .outFilterSet ch => some ⟨ch, 0x0705, .config, (· == 4)⟩
  | .outFilterSwap ch => some ⟨ch, 0x0706, .config, (· == 3)⟩
  | .outDetectSet ch => some ⟨ch, 0x0707, .config, (· == 9)⟩
  | .outStatusGet ch => some ⟨ch, 0x0708, .read, (· == 1)⟩
  | .outDetectGet ch => some ⟨ch, 0x0709, .read, (· == 1)⟩
  | .storeFormat ch => some ⟨ch, 0x0801, .long, (· == 0)⟩
  | .storeMount ch => some ⟨ch, 0x0802, .long, (· == 3)⟩
  | .storeUnmount ch => some ⟨ch, 0x0803, .config, (· == 0)⟩
  | .storeStatusGet ch => some ⟨ch, 0x0804, .read, (· == 0)⟩
  | .storeRecordSet ch => some ⟨ch, 0x0805, .config, (· == 13)⟩
  | .storeRecGet ch => some ⟨ch, 0x0806, .read, (· == 1)⟩
  | .cursorSet ch => some ⟨ch, 0x0807, .config, (· == 12)⟩
  | .cursorStatusGet ch => some ⟨ch, 0x0808, .read, (· == 1)⟩
  | .exportSet ch => some ⟨ch, 0x0809, .config, (· == 19)⟩
  | .storeMaintSet ch => some ⟨ch, 0x080A, .config, (· == 8)⟩
  | .storeSlagGet ch => some ⟨ch, 0x080B, .read, (· == 2)⟩
  | .storeBootWrite ch => some ⟨ch, 0x080C, .long, (· == 4)⟩
  | .dispatchSet ch => some ⟨ch, 0x0901, .config, (· == 13)⟩
  | .dispatchStatusGet ch => some ⟨ch, 0x0902, .read, (· == 3)⟩
  | .policeSet ch => some ⟨ch, 0x0903, .config, (· == 9)⟩
  | .policeStatusGet ch => some ⟨ch, 0x0904, .read, (· == 1)⟩
  | .linkStart ch => some ⟨ch, 0x0A01, .config, (· == 0)⟩
  | .linkStop ch => some ⟨ch, 0x0A02, .config, (· == 0)⟩
  | .linkSet ch => some ⟨ch, 0x0A03, .config, (· == 15)⟩
  | .linkFeedSet ch => some ⟨ch, 0x0A04, .config, (· == 3)⟩
  | .linkStatusGet ch => some ⟨ch, 0x0A05, .read, (· == 1)⟩
  | .linkPhySet ch => some ⟨ch, 0x0A10, .config, (· == 28)⟩
  | .linkPhyStatusGet ch => some ⟨ch, 0x0A11, .read, (· == 1)⟩
  | .linkToneGet ch => some ⟨ch, 0x0A12, .read, (· == 1)⟩
  | .auxCfgSet ch => some ⟨ch, 0x0B01, .config, (· == 20)⟩
  | .auxXfer ch => some ⟨ch, 0x0B02, .long, fun n => 8 ≤ n && n ≤ 480⟩
  | .auxStatusGet ch => some ⟨ch, 0x0B03, .read, (· == 1)⟩
  | .gpioSet ch => some ⟨ch, 0x0B10, .config, (· == 13)⟩
  | .gpioGet ch => some ⟨ch, 0x0B11, .read, (· == 1)⟩
  | .idGetCert ch => some ⟨ch, 0x0C01, .read, (· == 2)⟩
  | .idChallenge ch => some ⟨ch, 0x0C02, .immediate, (· == 32)⟩
  | .traceSet ch => some ⟨ch, 0x0D01, .config, (· == 14)⟩
  | .obsCountersGet ch => some ⟨ch, 0x0D02, .read, (· == 1)⟩
  | _ => none

/-- `TXN_CANCEL` and `TXN_COMMIT` carry the open transaction (R552). -/
def ownsTxn (opcode : Nat) : Bool := opcode == 0x0111 || opcode == 0x0112

/-- What a refused or aborted request answers with: nothing, but for `TXN_COMMIT` its 16 bytes (R550). -/
def refusalPayload (s : State) (ch : Fin 4) (opcode : Nat) : List Byte :=
  if opcode = 0x0111 then commitPayload 0 (openCmds s ch).length none else []

/-- A configuration command: its channel, its opcode, and the change that a payload in range asks for (R549, R556). -/
structure ConfigRow where
  ch : Fin 4
  opcode : Nat
  read : State → List Byte → Option Cfg

/-- The configuration commands (kind C of R552). -/
def configRow : Instr → Option ConfigRow
  | .bulkUnmap ch => some ⟨ch, 0x0130, fun _ p => (noPayload p).map (fun _ => .bulkUnmap)⟩
  | .pdSet ch => some ⟨ch, 0x0220, fun s p => ((parsePdSet (isLocal s)) p).map (fun a => .pdSet a.1 a.2.1 a.2.2)⟩
  | .pwrSleep ch => some ⟨ch, 0x0230, fun _ p => (noPayload p).map (fun _ => .pwrSleep)⟩
  | .feInputSet ch => some ⟨ch, 0x0301, fun _ p => (parseFeInput p).map (fun a => .feInputSet a.1 a.2.1 a.2.2)⟩
  | .feBellowsSet ch => some ⟨ch, 0x0302, fun _ p => (parseBellows p).map (fun a => .feBellowsSet a.1 a.2)⟩
  | .temperSet ch => some ⟨ch, 0x0310, fun _ p => (parseTemperSet p).map (fun a => .temperSet a.1 a.2)⟩
  | .temperRun ch => some ⟨ch, 0x0311, fun _ p => (parseTemperRun p).map (fun a => .temperRun a.1 a.2)⟩
  | .temperRestore ch => some ⟨ch, 0x0313, fun s p => ((restorePayload s) p).map (fun a => .temperRestore a.1 a.2)⟩
  | .slotAssign ch => some ⟨ch, 0x0401, fun _ p => (parseTune p).map (fun a => .slotAssign a.1 a.2)⟩
  | .slotRelease ch => some ⟨ch, 0x0402, fun _ p => ((indexPayload 48) p).map (fun i => .slotRelease i)⟩
  | .slotRetune ch => some ⟨ch, 0x0403, fun _ p => (parseTune p).map (fun a => .slotRetune a.1 a.2)⟩
  | .slotStep ch => some ⟨ch, 0x0405, fun _ p => (parseStep p).map (fun a => .slotStep a.1 a.2)⟩
  | .slotFmSet ch => some ⟨ch, 0x0410, fun _ p => (parseFmSet p).map (fun a => .slotFmSet a.1 a.2)⟩
  | .slotAmSet ch => some ⟨ch, 0x0420, fun _ p => (parseAmSet p).map (fun a => .slotAmSet a.1 a.2)⟩
  | .sideSet ch => some ⟨ch, 0x0510, fun _ p => (parseSideSet p).map (fun v => .sideSet v)⟩
  | .sideStreamSet ch => some ⟨ch, 0x0511, fun _ p => (parseSideStream p).map (fun v => .sideStreamSet v)⟩
  | .censusSet ch => some ⟨ch, 0x0520, fun _ p => (parseCensus p).map (fun v => .censusSet v)⟩
  | .followSet ch => some ⟨ch, 0x0601, fun _ p => (parseFollowSet p).map (fun a => .followSet a.1 a.2)⟩
  | .portSet ch => some ⟨ch, 0x0701, fun _ p => (parsePortSet p).map (fun a => .portSet a.1 a.2)⟩
  | .outSet ch => some ⟨ch, 0x0703, fun _ p => (parseOutSet p).map (fun a => .outSet a.1 a.2)⟩
  | .outMapSet ch => some ⟨ch, 0x0704, fun _ p => (parseOutMap p).map (fun a => .outMapSet a.1 a.2.1 a.2.2)⟩
  | .outFilterSet ch => some ⟨ch, 0x0705, fun _ p => (parseFilterSet p).map (fun a => .outFilterSet a.1 a.2.1 a.2.2.1 a.2.2.2)⟩
  | .outFilterSwap ch => some ⟨ch, 0x0706, fun _ p => (parseFilterSwap p).map (fun a => .outFilterSwap a.1 a.2.1 a.2.2)⟩
  | .outDetectSet ch => some ⟨ch, 0x0707, fun _ p => (parseDetect p).map (fun a => .outDetectSet a.1 a.2.1 a.2.2)⟩
  | .storeUnmount ch => some ⟨ch, 0x0803, fun _ p => (noPayload p).map (fun _ => .storeUnmount)⟩
  | .storeRecordSet ch => some ⟨ch, 0x0805, fun _ p => (parseRecordSet p).map (fun a => .storeRecordSet a.1 a.2)⟩
  | .cursorSet ch => some ⟨ch, 0x0807, fun _ p => (parseCursor p).map (fun a => .cursorSet a.1 a.2)⟩
  | .exportSet ch => some ⟨ch, 0x0809, fun _ p => (parseExport p).map (fun a => .exportSet a.1 a.2)⟩
  | .storeMaintSet ch => some ⟨ch, 0x080A, fun _ p => (parseMaint p).map (fun v => .storeMaintSet v)⟩
  | .dispatchSet ch => some ⟨ch, 0x0901, fun s p => ((ownDevice s parseDispatchSet) p).map (fun a => .dispatchSet a.1 a.2)⟩
  | .policeSet ch => some ⟨ch, 0x0903, fun _ p => (parsePolice p).map (fun a => .policeSet a.1 a.2.1 a.2.2)⟩
  | .linkStart ch => some ⟨ch, 0x0A01, fun _ p => (noPayload p).map (fun _ => .linkStart)⟩
  | .linkStop ch => some ⟨ch, 0x0A02, fun _ p => (noPayload p).map (fun _ => .linkStop)⟩
  | .linkSet ch => some ⟨ch, 0x0A03, fun _ p => (parseLinkSet p).map (fun v => .linkSet v)⟩
  | .linkFeedSet ch => some ⟨ch, 0x0A04, fun _ p => (parseFeed p).map (fun v => .linkFeedSet v)⟩
  | .linkPhySet ch => some ⟨ch, 0x0A10, fun s p => ((ownDevice s parsePhySet) p).map (fun a => .linkPhySet a.1 a.2.1 a.2.2)⟩
  | .auxCfgSet ch => some ⟨ch, 0x0B01, fun s p => ((ownDevice s parseAuxCfg) p).map (fun a => .auxCfgSet a.1 a.2)⟩
  | .gpioSet ch => some ⟨ch, 0x0B10, fun s p => ((ownDevice s parseGpioSet) p).map (fun a => .gpioSet a.1 a.2.1 a.2.2.1 a.2.2.2)⟩
  | .traceSet ch => some ⟨ch, 0x0D01, fun s p => ((ownDevice s parseTraceSet) p).map (fun a => .traceSet a.1 a.2)⟩
  | _ => none

/-- A payload of one byte below a bound. -/
def below (n : Nat) (p : List Byte) : Bool := p.length == 1 && getU 1 0 p < n

/-- A `DISPATCH_STATUS_GET` payload for this device: `first` is a queue of R426 and `count` queues follow from it. -/
def namesQueues (p : List Byte) : Bool :=
  p.length == 3 && getU 1 0 p == 0 && 1 ≤ getU 1 2 p && getU 1 2 p ≤ 15
    && ((queueIds.dropWhile (· != getU 1 1 p)).take (getU 1 2 p)).length == getU 1 2 p

/-- A status read: its channel, its opcode, the requests in range, the lengths of its response for a request, and whether
the response begins with `stroke` (R551). -/
structure ReadRow where
  ch : Fin 4
  opcode : Nat
  inRange : List Byte → Bool
  length : List Byte → Nat → Bool
  stroke : Bool

/-- The status reads of this device's own records and their response lengths (R551, R556). -/
def readRow : Instr → Option ReadRow
  | .sysInfo ch => some ⟨ch, 0x0101, (· == []), fun _ n => n == 32, false⟩
  | .faultGet ch => some ⟨ch, 0x0120, (· == []), fun _ n => n == 140, true⟩
  | .feStatusGet ch => some ⟨ch, 0x0303, fun p => below 3 p || p == [0xFF], fun p n => n == if p == [0xFF] then 74 else 30, true⟩
  | .temperStatusGet ch => some ⟨ch, 0x0314, below 3, fun _ n => n == 50, true⟩
  | .slotStatusGet ch => some ⟨ch, 0x0404, below 48, fun _ n => n == 76, true⟩
  | .censusStatusGet ch => some ⟨ch, 0x0521, (· == []), fun _ n => n == 35, true⟩
  | .followStatusGet ch => some ⟨ch, 0x0603, below 8, fun _ n => n == 54, true⟩
  | .followCandidatesGet ch => some ⟨ch, 0x0604, below 8, fun _ n => n == 140, true⟩
  | .portStatusGet ch => some ⟨ch, 0x0702, below 2, fun _ n => n == 20, true⟩
  | .outStatusGet ch => some ⟨ch, 0x0708, below 8, fun _ n => n == 63, true⟩
  | .outDetectGet ch => some ⟨ch, 0x0709, below 8, fun _ n => n == 65, true⟩
  | .storeStatusGet ch => some ⟨ch, 0x0804, (· == []), fun _ n => n == 76, true⟩
  | .storeRecGet ch => some ⟨ch, 0x0806, below 256, fun _ n => n == 52, true⟩
  | .cursorStatusGet ch => some ⟨ch, 0x0808, below 8, fun _ n => n == 28, true⟩
  | .storeSlagGet ch => some ⟨ch, 0x080B, (·.length == 2), fun _ n => 12 ≤ n && n ≤ 492 && n % 4 == 0, true⟩
  | .dispatchStatusGet ch => some ⟨ch, 0x0902, namesQueues, fun p n => n == 8 + 32 * getU 1 2 p, true⟩
  | .policeStatusGet ch => some ⟨ch, 0x0904, below 256, fun _ n => n == 29, true⟩
  | .linkStatusGet ch => some ⟨ch, 0x0A05, below 1, fun _ n => n == 56, true⟩
  | .linkPhyStatusGet ch => some ⟨ch, 0x0A11, below 1, fun _ n => n == 70, true⟩
  | .linkToneGet ch => some ⟨ch, 0x0A12, below 1, fun _ n => n == 416, true⟩
  | .auxStatusGet ch => some ⟨ch, 0x0B03, below 1, fun _ n => n == 38, true⟩
  | .gpioGet ch => some ⟨ch, 0x0B11, below 1, fun _ n => n == 40, true⟩
  | .obsCountersGet ch => some ⟨ch, 0x0D02, below 1, fun _ n => n == 384, false⟩
  | _ => none

/-! ### Requests -/

/-- S0 takes a request next, under this opcode, and its header, the stage and role, and its `txn_id` pass (R89, R553
checks 1 to 4). -/
def serves (s : State) (ch : Fin 4) (opcode : Nat) (k : Kind) : Prop :=
  taken s ch opcode = true ∧ preCheck s ch k (ownsTxn opcode) (reqOf s ch) = none

/-- The payload of the request on a channel. -/
def body (s : State) (ch : Fin 4) : List Byte := (reqOf s ch).payload

/-- The request on a channel has `dry_run` clear (R91). -/
def wet (s : State) (ch : Fin 4) : Prop := (reqOf s ch).dry = false

/-- The channel stays ACTIVE with an operation, and the state is otherwise as given. -/
def keepsOp (ch : Fin 4) (op : ActiveOp) (s : State) : State := { s with ops := s.ops.set ch (some op) }

/-- The state that reset leaves (R108): everything is reset but OTP, the pins and what the NAND holds. -/
def afterReset (s : State) : State :=
  { State.reset with otp := s.otp, rom := s.rom, pins := s.pins, media := mediaNow s, freeNext := s.freeNext, pending := s.pending }

/-- A slot has moved to a state for a reason, and nothing else has (R213 to R217, R546, R565): the event is queued, the
transition counted, the other slots, the inputs and the window memory are as before. -/
def slotMoved (s t : State) (i : Fin 48) (new : SlotState) (reason : Nat) : Prop :=
  t.slots[i].state = new ∧ (∀ k : Fin 48, k ≠ i → t.slots[k] = s.slots[k]) ∧ t.inputs = s.inputs ∧ t.mem = s.mem ∧
  t.counters.slotTransitions[i] = s.counters.slotTransitions[i] + 1 ∧
  ∃ e, t.evq = s.evq ++ [e] ∧ e.code = 6 ∧ e.object = BitVec.ofNat 16 i.val ∧
    e.payload.take 3 = u8 (slotCode s.slots[i].state) ++ u8 (slotCode new) ++ u8 reason

/-- Only one slot may differ between two states, apart from its latched record. -/
def onlySlot (s t : State) (i : Fin 48) : Prop :=
  (∀ k : Fin 48, k ≠ i → t.slots[k] = s.slots[k]) ∧
  t = { s with slots := t.slots, latch := { s.latch with slots := t.latch.slots } }

/-- Only one input may differ between two states, apart from the packets that report it. -/
def onlyInput (s t : State) (i : Fin 3) : Prop :=
  (∀ k : Fin 3, k ≠ i → t.inputs[k] = s.inputs[k]) ∧
  t = { s with inputs := t.inputs, trace := { s.trace with happened := t.trace.happened } }

/-- Only one converter may differ between two states, apart from the packets that report it. -/
def onlyConv (s t : State) (i : Fin 3) : Prop :=
  (∀ k : Fin 3, k ≠ i → t.convs[k] = s.convs[k]) ∧
  t = { s with convs := t.convs, trace := { s.trace with happened := t.trace.happened } }

/-- Only one follower may differ between two states, apart from its latched record. -/
def onlyFollower (s t : State) (o : Fin 8) : Prop :=
  (∀ k : Fin 8, k ≠ o → t.follow[k] = s.follow[k]) ∧
  t = { s with follow := t.follow, latch := { s.latch with follow := t.latch.follow } }

/-- Only one output may differ between two states. -/
def onlyOutput (s t : State) (o : Fin 8) : Prop :=
  (∀ k : Fin 8, k ≠ o → t.outs[k] = s.outs[k]) ∧ t = { s with outs := t.outs }

end Sys2Proof.Safety
end

