-- ==== Sys2Proof/Certificates/Slice0/Obligations.lean ====
section
/-! DEFINITION. What the provers are asked to prove of the model, statement by statement. A request "is served" when
`Safety.serves` holds: S0 takes it next and its header, the stage and role, and its `txn_id` pass. -/

open Sys2Proof Sys2Proof.Machine Sys2Proof.Safety

/-! ### The queue of commands -/

/-- A step takes the command at the front of the queue and runs it with the queue's rest. Model's choice, not the
spec's: the queue (notes/assumptions/11.md). -/
def Obligations.StepRunsFrontCommand : Prop :=
  ∀ (c : Instr) (rest : List Instr) (s : State), s.pending = c :: rest → step s = exec c { s with pending := rest }

/-- On an empty queue a step answers a next state. With no word waiting in HOSTQ_W, no event to post, no request rung
and no `BOOT_END` to answer: with PD1 in reset nothing changes; once device time runs and no boundary is next, it
advances by one tick. The step on an empty queue is the model's choice. No word spells a command: the table gives no
row any bits. Model's choice, not the spec's: the step on an empty queue (notes/assumptions/10.md); the queue
(notes/assumptions/11.md). -/
def Obligations.IdleAndWords : Prop :=
  ((∀ s : State, s.pending = [] → ∃ t, step s = .next t) ∧
   (∀ s : State, s.pending = [] → s.host.hostqW = [] → s.evq = [] → s.ringOrder = [] → bootEnding s = none → isRemote s = false →
     (s.pd1 = false → step s = .next s) ∧
     (s.pd1 = true → s.now + 1 < (s.latch.stroke + 1) * 24576 → step s = .next { s with now := s.now + 1 }))) ∧
  (∀ (nbits w : Nat) (s : State), decodeTableWord nbits w = none ∧ s.withFetchWord nbits w = s)

/-! ### Reset and invariants -/

/-- What the machine is right after reset, where the spec gives the value. Model's choice, not the spec's: processes
are idle at reset (notes/assumptions/8.md). -/
def Obligations.ResetValues : Prop :=
  State.reset.pending = [] ∧ State.reset.now = 0 ∧ State.reset.host.fwStage = 0 ∧ State.reset.host.role = 0 ∧
  State.reset.host.irqStatus = 0 ∧ State.reset.host.irqEnable = 0 ∧ State.reset.host.evtHead = 0 ∧
  State.reset.host.evtTail = 0 ∧ State.reset.host.fwReady = false ∧
  hwStatus State.reset = 0x00030000 ∧ chanStateWord State.reset = 0x00000001 ∧
  (∀ i : Fin 48, State.reset.slots[i].state = .free) ∧ (∀ o : Fin 8, State.reset.outs[o].state = .stopped) ∧
  State.reset.link.state = .off ∧ State.reset.store.state = .unmounted ∧ State.reset.faults = [] ∧
  State.reset.accepted = [] ∧ State.reset.bulk.mapped = none

/-- At reset the window memory has its canonical form and the event ring holds at most its 64 entries. Model's choice,
not the spec's: unwritten bytes read 0 (notes/assumptions/5.md). -/
def Obligations.ResetInvariants : Prop := memoryCanonical State.reset ∧ ringBounded State.reset

/-- Every step keeps the canonical form of the window memory. Model's choice, not the spec's: unwritten bytes read 0
(notes/assumptions/5.md). -/
def Obligations.StepKeepsMemoryCanonical : Prop :=
  ∀ s t : State, memoryCanonical s → step s = .next t → memoryCanonical t

/-- Every step keeps the event ring at no more than its 64 entries. -/
def Obligations.StepKeepsRingBounded : Prop :=
  ∀ s t : State, ringBounded s → step s = .next t → ringBounded t

/-! ### The mailbox (R86 to R94, R549, R553) -/

/-- A response (R86, R88, R90): the channel is in DONE, the `resp` bit of the channel is set, no abort is pending on
it, the response buffer holds the whole response (the request's opcode, tag and `txn_id`, the payload's length, the
status, zeros in the reserved word and after the payload), the channel's request counter steps, and nothing else of
the mailbox changes. -/
def Obligations.ResponseIsWritten : Prop :=
  ∀ (ch : Fin 4) (st : Status) (p : List Byte) (s : State), p.length ≤ 496 →
    let t := respond ch st p s
    let r := reqOf s ch
    t.chan = s.chan.set ch .done ∧
    t.host.irqStatus = s.host.irqStatus ||| BitVec.ofNat 10 (2 ^ ch.val) ∧
    t.abortPending.getLsbD ch.val = false ∧
    memBytes t.mem (respBase ch) 16
      = u16 r.opcode ++ u16 r.tag ++ u16 p.length ++ u16 (statusCode st) ++ u32 r.txnId ++ u32 0 ∧
    memBytes t.mem (respBase ch + 16) p.length = p ∧
    (∀ a, respBase ch + 16 + p.length ≤ a → a < respBase ch + 512 → memRead t.mem a = 0) ∧
    (∀ a, a < respBase ch ∨ respBase ch + 512 ≤ a → memRead t.mem a = memRead s.mem a) ∧
    t.counters.mailboxRequests = s.counters.mailboxRequests.set ch (s.counters.mailboxRequests[ch] + 1) ∧
    (∀ c : Fin 4, c ≠ ch → t.chan[c] = s.chan[c] ∧ t.ops[c] = s.ops[c] ∧
      t.abortPending.getLsbD c.val = s.abortPending.getLsbD c.val ∧ (c ∈ t.ringOrder ↔ c ∈ s.ringOrder))

/-- A mailbox row whose request is not the one that S0 takes next, or has another opcode, changes nothing (R89).
Model's choice, not the spec's: a row that is not due changes nothing (notes/assumptions/9.md). -/
def Obligations.RequestNotNextChangesNothing : Prop :=
  ∀ (i : Instr) (m : MailboxRow) (s : State), mailboxRow i = some m → taken s m.ch m.opcode = false → exec i s = .next s

/-- A request with `length` above 496, or with a reserved header field that is not zero, ends with `ST_BAD_PARAM` and
has no effect (R92): for every command of the tables, and for an opcode that no table lists. -/
def Obligations.BadHeaderIsRefused : Prop :=
  (∀ (i : Instr) (m : MailboxRow) (s : State), mailboxRow i = some m → taken s m.ch m.opcode = true →
    (496 < (reqOf s m.ch).length ∨ 2 ≤ (reqOf s m.ch).flags ∨ (reqOf s m.ch).reserved ≠ 0) →
    exec i s = .next (respond m.ch .badParam (refusalPayload s m.ch m.opcode) (takeOut s m.ch))) ∧
  (∀ (ch : Fin 4) (s : State), s.ringOrder.head? = some ch → isNext s ch = true →
    (reqOf s ch).opcode ∉ knownOpcodes →
    (496 < (reqOf s ch).length ∨ 2 ≤ (reqOf s ch).flags ∨ (reqOf s ch).reserved ≠ 0) →
    takeUnknown s = respond ch .badParam [] (takeOut s ch))

/-- S0 reports the first of the checks 1 to 4 of R553 that fails, and the request has no effect. -/
def Obligations.FirstFailedCheckIsReported : Prop :=
  ∀ (i : Instr) (m : MailboxRow) (s : State) (st : Status), mailboxRow i = some m → taken s m.ch m.opcode = true →
    preCheck s m.ch m.kind (ownsTxn m.opcode) (reqOf s m.ch) = some st →
    exec i s = .next (respond m.ch st (refusalPayload s m.ch m.opcode) (takeOut s m.ch))

/-- A request whose `length` differs from the size in the command tables ends with `ST_BAD_PARAM` (R549), and has no
effect. -/
def Obligations.WrongLengthIsRefused : Prop :=
  ∀ (i : Instr) (m : MailboxRow) (s : State), mailboxRow i = some m → serves s m.ch m.opcode m.kind →
    m.length (reqOf s m.ch).length = false →
    exec i s = .next (respond m.ch .badParam (refusalPayload s m.ch m.opcode) (takeOut s m.ch))

/-- A request with `dry_run` changes nothing but its response (R91): on a device that forwards nothing, every row of
the mailbox that takes one answers it at once, from the state in which the channel was taken out, whatever the status.
Free response bytes advance the model's own counter of free values, which is no state of the spec. (What a local
answers to a dry run that it forwards, once the remote has replied, stands in the statements on the link's messages.)
Model's choice, not the spec's: free response bytes (notes/assumptions/12.md). -/
def Obligations.DryRunChangesNothing : Prop :=
  ∀ (i : Instr) (m : MailboxRow) (s : State), mailboxRow i = some m → isLocal s = false → taken s m.ch m.opcode = true →
    (reqOf s m.ch).dry = true →
    ∃ st p n, exec i s = .next (respond m.ch st p { takeOut s m.ch with freeNext := n })

/-- An opcode that no command table lists ends with `ST_BAD_OPCODE` (R553). The stage and the role decide what S0
serves (R114, R127, R554): after a failed OTP check every request ends with `ST_AUTH_FAIL`; in host load every opcode
but the five of the ROM ends with `ST_BAD_STATE`; once an image runs, so do the three boot opcodes, and at `fw_stage`
0x30 with no role confirmed so does every opcode outside the groups 0x01, 0x02 and 0x0C. -/
def Obligations.OpcodeStageAndRole : Prop :=
  (∀ (ch : Fin 4) (s : State), s.ringOrder.head? = some ch → isNext s ch = true → (reqOf s ch).opcode ∉ knownOpcodes →
     headerBad (reqOf s ch) = false → takeUnknown s = respond ch .badOpcode [] (takeOut s ch)) ∧
  (∀ (s : State) (op : Nat),
     (s.host.fwStage = 0x1E → s.boot.phase = .otpFailed → stageStatus s op = some .authFail) ∧
     (s.host.fwStage = 0x10 → s.boot.phase = .hostLoad →
       stageStatus s op = if op ∈ [0x0101, 0x0201, 0x0202, 0x0203, 0x0C01] then none else some .badState) ∧
     (0x30 ≤ s.host.fwStage.toNat → op ∈ [0x0201, 0x0202, 0x0203] → stageStatus s op = some .badState) ∧
     (s.host.fwStage = 0x30 → s.host.role = 0 → op ∉ [0x0201, 0x0202, 0x0203] →
       stageStatus s op = if op / 256 = 1 ∨ op / 256 = 2 ∨ op / 256 = 0x0C then none else some .badState))

/-- No mailbox row writes the window memory outside the response buffer of its own channel. -/
def Obligations.MailboxRowsWriteTheirResponseBuffer : Prop :=
  ∀ (i : Instr) (m : MailboxRow) (s t : State), mailboxRow i = some m → exec i s = .next t →
    ∀ a, a < respBase m.ch ∨ respBase m.ch + 512 ≤ a → memRead t.mem a = memRead s.mem a

/-! ### Transactions (R43 to R47, R91, R95 to R99, R561) -/

/-- `TXN_BEGIN` completes on a channel with no open transaction: it opens one under the next `txn_id`, which is never
0, and with `dry_run` it answers that id and opens none; on a channel that already holds one it ends with
`ST_BAD_STATE` and leaves that one as it is (R44, R91). Model's choice, not the spec's: which id comes next
(notes/assumptions/6.md). -/
def Obligations.TxnBegin : Prop :=
  ∀ (ch : Fin 4) (s : State), serves s ch 0x0110 .immediate → (reqOf s ch).length = 0 →
    (s.txns[ch] = none → wet s ch →
      exec (.txnBegin ch) s = .next (respond ch .ok (u32 s.nextTxn.toNat)
        { takeOut s ch with
          txns := s.txns.set ch (some ⟨s.nextTxn, []⟩)
          nextTxn := if s.nextTxn + 1 = 0 then 1 else s.nextTxn + 1 })) ∧
    (s.txns[ch] = none → (reqOf s ch).dry = true →
      exec (.txnBegin ch) s = .next (respond ch .ok (u32 s.nextTxn.toNat) (takeOut s ch))) ∧
    (s.txns[ch] ≠ none → exec (.txnBegin ch) s = .next (respond ch .badState [] (takeOut s ch)))

/-- A configuration command that names the transaction open on its channel (R96): in range it joins it with `ST_OK`
and nothing else changes; a 65th ends with `ST_NO_RESOURCE`, one out of range with `ST_BAD_PARAM`, and neither is
added. -/
def Obligations.ConfigurationJoinsTransaction : Prop :=
  ∀ (i : Instr) (m : ConfigRow) (s : State) (x : OpenTxn), configRow i = some m → serves s m.ch m.opcode .config →
    s.txns[m.ch] = some x → (reqOf s m.ch).txnId ≠ 0 →
    (∀ c, m.read s (body s m.ch) = some c → stepOutOfRange c x.cmds (takeOut s m.ch) = false → x.cmds.length < 64 → wet s m.ch →
      exec i s = .next (respond m.ch .ok []
        { takeOut s m.ch with txns := s.txns.set m.ch (some { x with cmds := x.cmds ++ [c] }) })) ∧
    (∀ c, m.read s (body s m.ch) = some c → stepOutOfRange c x.cmds (takeOut s m.ch) = false → 64 ≤ x.cmds.length →
      exec i s = .next (respond m.ch .noResource [] (takeOut s m.ch))) ∧
    (∀ c, m.read s (body s m.ch) = some c → stepOutOfRange c x.cmds (takeOut s m.ch) = true →
      exec i s = .next (respond m.ch .badParam [] (takeOut s m.ch))) ∧
    (m.read s (body s m.ch) = none → exec i s = .next (respond m.ch .badParam [] (takeOut s m.ch)))

/-- A configuration command with `txn_id` 0 is a transaction of its own (R43, R46): judged, it is accepted for the
first boundary at least 6,144 ticks later and answered with `ST_OK`, or answered with the status of the refusal and no
effect. The apply stroke is the first boundary at least 6,144 ticks after acceptance (R46). Model's choice, not the
spec's: single commands among the outcomes (notes/assumptions/55.md). -/
def Obligations.ConfigurationAlone : Prop :=
  (∀ (i : Instr) (m : ConfigRow) (s : State) (c : Cfg), configRow i = some m → serves s m.ch m.opcode .config →
     (reqOf s m.ch).txnId = 0 → wet s m.ch → m.read s (body s m.ch) = some c → forwards s c = false →
     let p := applyStrokeFrom s.now
     (judge m.ch p [c] (takeOut s m.ch) = none →
       exec i s = .next (respond m.ch .ok [] (acceptTxn 0 [c] p (takeOut s m.ch)))) ∧
     (∀ st k, judge m.ch p [c] (takeOut s m.ch) = some (st, k) →
       exec i s = .next (respond m.ch st [] (takeOut s m.ch)))) ∧
  (∀ now : Nat, now + 6144 ≤ applyStrokeFrom now * 24576 ∧
     ∀ n, now + 6144 ≤ n * 24576 → applyStrokeFrom now ≤ n)

/-- `TXN_COMMIT` of a transaction that names no remote block (R45, R46, R96, R564): accepted, the transaction closes,
waits for its stroke and stands among the last 16 outcomes, and the response carries the stroke; refused, it closes
with no effect, and the response names the first change refused and its status. With `dry_run` the answer is the same
and nothing changes (R91). An abort that lands before the commit mark has no effect but the status, and one with or
after it gives `ST_ALREADY_DONE` with the full result (R93, R94). Model's choice, not the spec's: a refused commit
closes its transaction (notes/assumptions/52.md); the command named in a refusal (notes/assumptions/51.md); the abort
of a commit as an operand (notes/assumptions/109.md). -/
def Obligations.TxnCommit : Prop :=
  ∀ (ch : Fin 4) (s : State) (x : OpenTxn), serves s ch 0x0111 .long → (reqOf s ch).length = 0 → s.txns[ch] = some x →
    isSplit s x.cmds = false →
    let p := applyStrokeFrom s.now
    (judge ch p x.cmds (takeOut s ch) = none →
      (wet s ch → ∀ abort : AbortAt, abort ≠ .beforeMark → exec (.txnCommit ch abort) s = .next (respond ch
        (if abort = .afterMark then .alreadyDone else .ok)
        (u64 p ++ u16 x.cmds.length ++ u16 0xFFFF ++ u16 0 ++ u16 0)
        { noteMark ch (takeOut s ch) with
          txns := s.txns.set ch none
          accepted := s.accepted ++ [⟨x.id, x.cmds, p⟩]
          history := keepLast 16 (s.history ++ [⟨x.id, x.cmds.length, p, false, false⟩]) })) ∧
      ((reqOf s ch).dry = true → exec (.txnCommit ch .none) s = .next (respond ch .ok
        (u64 p ++ u16 x.cmds.length ++ u16 0xFFFF ++ u16 0 ++ u16 0) (takeOut s ch)))) ∧
    (exec (.txnCommit ch .beforeMark) s
      = .next (respond ch .aborted (u64 0 ++ u16 x.cmds.length ++ u16 0xFFFF ++ u16 0 ++ u16 0) (takeOut s ch))) ∧
    (∀ st k, judge ch p x.cmds (takeOut s ch) = some (st, k) → wet s ch →
      exec (.txnCommit ch .none) s = .next (respond ch st
        (u64 0 ++ u16 x.cmds.length ++ u16 k ++ u16 (opcodeAt x.cmds k) ++ u16 0)
        { takeOut s ch with txns := s.txns.set ch none }))

/-- `TXN_CANCEL` closes the open transaction on its channel with no effect (R98); `TXN_STATUS_GET` returns the outcome
held under an id (R561, R564). `TXN_APPLY` (R46, R47): the waiting transaction with the lowest apply stroke, the first
accepted of several with the same one, applies on its stroke once that is the next boundary; it waits no longer, and
its outcome is marked; a TXN packet reports it (R540). With none due, nothing changes. Model's choice, not the spec's:
a row that is not due changes nothing (notes/assumptions/9.md); rows at a boundary (notes/assumptions/56.md); the
order of strokes (notes/assumptions/59.md). -/
def Obligations.TxnOutcome : Prop :=
  ((∀ (ch : Fin 4) (s : State), serves s ch 0x0112 .immediate → (reqOf s ch).length = 0 → wet s ch →
     exec (.txnCancel ch) s = .next (respond ch .ok [] { takeOut s ch with txns := s.txns.set ch none })) ∧
   (∀ (ch : Fin 4) (s : State) (id : Word) (h : TxnResult), serves s ch 0x0113 .read → parseTxnId (body s ch) = some id →
     id ≠ 0 → (∀ c : Fin 4, ∀ x, s.txns[c] = some x → x.id ≠ id) → s.history.reverse.find? (fun e => e.id == id) = some h →
     exec (.txnStatusGet ch) s = .next (respond ch .ok
       (u64 s.latch.stroke ++ u16 (if h.applied = true ∨ h.applyStroke * 24576 ≤ s.now then 0 else 1)
         ++ uBool h.remoteDiscarded ++ u8 0 ++ u16 h.commands ++ zeros 2 ++ u64 h.applyStroke) (takeOut s ch)))) ∧
  ((∀ (s : State) (a : AcceptedTxn) (rest : List AcceptedTxn), waiting s = a :: rest → a.applyStroke ≤ s.latch.stroke + 1 →
     let n := max s.now (a.applyStroke * 24576)
     exec .txnApply s = .next (applyTxn a.cmds { noteTrace n 6
         [a.id, BitVec.ofNat 32 (a.cmds.length % 65536 * 65536 + a.applyStroke % 65536)] s with
       now := n
       accepted := s.accepted.erase a
       link := { s.link with parts := s.link.parts.erase ⟨a.id, a.applyStroke, a.cmds⟩ }
       history := s.history.map fun h =>
         if h.id = a.id ∧ h.applyStroke = a.applyStroke then { h with applied := true } else h })) ∧
   (∀ (s : State) (a b : AcceptedTxn) (rest : List AcceptedTxn), s.link.parts = [] → s.accepted = a :: b :: rest →
     a.applyStroke = b.applyStroke → (∀ c ∈ rest, a.applyStroke ≤ c.applyStroke) → (waiting s).head? = some a) ∧
   (∀ s : State, nextDue s = none → exec .txnApply s = .next s))

/-! ### Status reads (R49, R91, R551, R556) -/

/-- A status read of this device's own records with a request in range answers `ST_OK` and changes nothing but its
channel, in every role; on a device that is no local with the payload length of the command tables, and with `stroke`
first where the read carries it (R49, R551, R556). A local answers the reads of slots, front end, Temper and census
with what the mirror holds; its reads of its remote have statements of their own. Model's choice, not the spec's: free
response bytes (notes/assumptions/12.md). -/
def Obligations.StatusReads : Prop :=
  ∀ (i : Instr) (m : ReadRow) (s : State), readRow i = some m → serves s m.ch m.opcode .read → m.inRange (body s m.ch) = true →
    ∃ p, exec i s = .next (respond m.ch .ok p (takeOut s m.ch)) ∧
      (isLocal s = false → m.length (body s m.ch) p.length = true ∧ (m.stroke = true → p.take 8 = u64 s.latch.stroke))

/-! ### Reset, start-up and identity (R108 to R142, R562) -/

/-- Reset and the ROM's sequence (R108, R112 to R114, R573, R574): a RESET_N pulse of at least 10 µs and the power-on
monitor reset every block; a pulse of at most 1 µs is ignored; at the release the straps are sampled; when the PLLs
have locked PD1 leaves reset and device time starts at 0; a failed OTP check leads to `fw_stage` 0x1E, a passed one to
0x10 and, with BOOTSEL 00, to host load; both set `boot` in `IRQ_STATUS`. Model's choice, not the spec's: what reset
leaves (notes/assumptions/33.md); no lower limits of start-up times (notes/assumptions/34.md). -/
def Obligations.ResetAndRomSequence : Prop :=
  (∀ (s : State) (ns : Nat), 10000 ≤ ns → exec (.resetNAssert ns) s
    = .next { afterReset s with pins := { s.pins with resetN := false } }) ∧
  (∀ (s : State) (ns : Nat), ns ≤ 1000 → exec (.resetNAssert ns) s = .next s) ∧
  (∀ s : State, exec .powerOnMonitorReset s = .next (afterReset s)) ∧
  (∀ s : State, s.boot.phase = .inReset → exec .resetRelease s = .next { s with
    pins := { s.pins with resetN := true }
    boot := { s.boot with phase := .pllStart }
    host := { s.host with bootsel := s.pins.bootsel, hifSpi := s.pins.hifsel, i2cAddrSel := s.pins.haddr } }) ∧
  (∀ s : State, s.boot.phase = .pllStart → exec .pllLockRomStart s
    = .next { s with pd1 := true, now := 0, boot := { s.boot with phase := .otpCheck } }) ∧
  (∀ s : State, s.boot.phase = .otpCheck → s.host.fwStage = 0 → s.otp.ok = false → exec .otpCheckDone s = .next { s with
    boot := { s.boot with phase := .otpFailed }
    host := { s.host with fwStage := 0x1E, irqStatus := s.host.irqStatus ||| irqBoot } }) ∧
  (∀ s : State, s.boot.phase = .otpCheck → s.host.fwStage = 0 → s.otp.ok = true → s.host.bootsel = 0 →
    exec .otpCheckDone s = .next { s with
      boot := { s.boot with phase := .hostLoad }
      host := { s.host with fwStage := 0x10, irqStatus := s.host.irqStatus ||| irqBoot } })

/-- The boot sources (R115, R119, R122, R126): with BOOTSEL 01 the ROM enters NAND boot with PD4 and PD6 to be
powered, with 10 link boot with PD4 and PD7 to be powered and the link in BEACON; an authentic copy from NAND, or the
image received over the link, starts; with no authentic copy the ROM serves host load at 0x10; an image from the link
that fails leads back to BEACON. `FIRMWARE_READY` (R126): stage 0x30, channels 1 to 3 IDLE, and `fw_ready` set;
channel 0 as it was, unless a `BOOT_END` is still to be answered. `REMOTE_ROLE_CONFIRM` (R129): a confirmed local
sends the confirmation in RUN to a remote that has reported stage 0x30; a remote at 0x30 that takes it is confirmed in
the remote role at 0x31. Model's choice, not the spec's: messages on the link (notes/assumptions/23.md); no lower
limits of start-up times (notes/assumptions/34.md); domains in boot (notes/assumptions/36.md). -/
def Obligations.StartUp : Prop :=
  ((∀ s : State, s.boot.phase = .otpCheck → s.otp.ok = true → s.host.bootsel = 1 → s.power.switching = [] →
     ∃ t, exec .otpCheckDone s = .next t ∧ t.boot.phase = .nandBoot ∧ t.host.fwStage = 0x10 ∧
       t.power.switching = [(4, true), (6, true)]) ∧
   (∀ s : State, s.boot.phase = .otpCheck → s.otp.ok = true → s.host.bootsel = 2 → s.power.switching = [] →
     s.link.state = .off → ∃ t, exec .otpCheckDone s = .next t ∧ t.boot.phase = .linkBoot ∧ t.host.fwStage = 0x10 ∧
       t.power.switching = [(4, true), (7, true)] ∧ t.link.state = .beacon) ∧
   (∀ (s : State) (wrong : List (List (List Nat))), s.boot.phase = .nandBoot → pdIsOn s 4 = true → pdIsOn s 6 = true →
     let copy := fun (k : Nat) => (readBootCopy s.media k (wrong.getD k [])).filter (imageOk s.otp s.rom)
     ∃ t, exec (.nandBootDone wrong) s = .next t ∧ pdIsOn t 6 = false ∧
       match copy 0, copy 1 with
       | some img, _ => t.boot.phase = .starting ∧ t.boot.image = img ∧ t.host.fwStage = 0x20
       | none, some img => t.boot.phase = .starting ∧ t.boot.image = img ∧ t.host.fwStage = 0x20
       | none, none => t.boot.phase = .hostLoad ∧ t.boot.image = [] ∧ t.host.fwStage = 0x10) ∧
   (∀ (s : State) (img : List Byte), s.boot.phase = .linkBoot → linkUp s = true → s.link.imageIn = some img →
     (imageOk s.otp s.rom img = true → ∃ t, exec .linkBootImageReceived s = .next t ∧ t.boot.phase = .starting ∧
       t.boot.image = img ∧ t.host.fwStage = 0x20 ∧ t.link.imageIn = none) ∧
     (imageOk s.otp s.rom img = false → ∃ t, exec .linkBootImageReceived s = .next t ∧ t.boot.phase = .linkBoot ∧
       t.link.state = .beacon ∧ t.link.imageIn = none)) ∧
   (∀ s : State, s.boot.phase ≠ .linkBoot ∨ linkUp s = false ∨ s.link.imageIn = none → exec .linkBootImageReceived s = .next s)) ∧
  (∀ s : State, s.boot.phase = .starting → s.boot.slept = false → bootEnding s = none →
     ∃ t, exec .firmwareReady s = .next t ∧ t.host.fwStage = 0x30 ∧ t.host.fwReady = true ∧ t.boot.phase = .running ∧
       t.chan = #v[s.chan[0], .idle, .idle, .idle] ∧ t.mem = s.mem ∧ t.host.role = s.host.role) ∧
  ((∀ s : State, isLocal s = true → linkUp s = true → s.link.remoteStage = 0x30 →
     roomFor s 0x20 (controlFrames s roleMessage) = true →
     exec .remoteRoleConfirm s = .next (enqueueAll s 0x20 (controlFrames s roleMessage))) ∧
   (∀ s : State, isLocal s = true → s.link.remoteStage ≠ 0x30 → exec .remoteRoleConfirm s = .next s) ∧
   (∀ s : State, s.host.bootsel = 2 → s.host.role = 0 → s.host.fwStage = 0x30 → linkUp s = true →
     ∃ t, exec .remoteRoleConfirm s = .next t ∧ t.host.role = 2 ∧ t.host.fwStage = 0x31 ∧ t.mem = s.mem))

/-- Host load (R116 to R118, R124, R125): `BOOT_BEGIN` discards what was received and returns to 0x10 with PD4 on; a
chunk in order is appended, and one at another offset is refused and not stored; `BOOT_END` waits at 0x11 until
authentication ends: an image that passes starts, which is the commit point, and its version is answered with `ST_OK`,
or with `ST_ALREADY_DONE` when an abort has landed since; one that fails is discarded at 0x1E with `ST_AUTH_FAIL`, and
an abort before the end keeps the image. Model's choice, not the spec's: no lower limits of start-up times
(notes/assumptions/34.md); boot data (notes/assumptions/35.md). -/
def Obligations.HostLoad : Prop :=
  (∀ (ch : Fin 4) (s : State), serves s ch 0x0201 .immediate → (reqOf s ch).length = 0 → wet s ch → ∃ t,
    exec (.bootBegin ch) s = .next (respond ch .ok [] t) ∧ t.boot.image = [] ∧ t.boot.phase = .hostLoad ∧
    t.host.fwStage = 0x10 ∧ pdIsOn t 4 = true ∧ t.mem = s.mem) ∧
  (∀ (ch : Fin 4) (s : State) (data : List Byte), serves s ch 0x0202 .immediate → wet s ch →
    parseBootData (body s ch) = some (s.boot.image.length, data) →
    (256 ≤ (s.boot.image ++ data).length → (s.boot.image ++ data).length ≤ 256 + getU 4 0x10 (s.boot.image ++ data)) →
    exec (.bootData ch) s
      = .next (respond ch .ok [] { takeOut s ch with boot := { s.boot with image := s.boot.image ++ data } })) ∧
  (∀ (ch : Fin 4) (s : State) (off : Nat) (data : List Byte), serves s ch 0x0202 .immediate →
    parseBootData (body s ch) = some (off, data) → off ≠ s.boot.image.length →
    exec (.bootData ch) s = .next (respond ch .badParam [] (takeOut s ch))) ∧
  (∀ (ch : Fin 4) (s : State), serves s ch 0x0203 .long → (reqOf s ch).length = 0 → wet s ch → ∃ t,
    exec (.bootEnd ch) s = .next t ∧ t.chan[ch] = .active ∧ t.ops[ch] = some ⟨.bootEnd, false, s.now⟩ ∧
    t.boot.phase = .authenticating ∧ t.host.fwStage = 0x11 ∧ t.boot.image = s.boot.image) ∧
  (∀ (ch : Fin 4) (s : State), bootEnding s = some ch → committed s ch = false → abortLanded s ch = false →
    imageOk s.otp s.rom s.boot.image = true → ∃ t, exec .bootAuthDone s = .next t ∧ t.boot.phase = .starting ∧
    t.host.fwStage = 0x20 ∧ t.boot.fw = imageVersion s.boot.image ∧ t.boot.image = s.boot.image ∧ t.chan = s.chan ∧
    committed t ch = true ∧ bootEnding t = some ch ∧ t.mem = s.mem) ∧
  (∀ (ch : Fin 4) (s : State), bootEnding s = some ch → committed s ch = true → answerBoot s
    = respond ch (if abortLanded s ch then .alreadyDone else .ok) (versionBytes s.boot.fw) s) ∧
  (∀ (ch : Fin 4) (s : State), bootEnding s = some ch → committed s ch = false → abortLanded s ch = false →
    imageOk s.otp s.rom s.boot.image = false → ∃ t,
    exec .bootAuthDone s = .next (respond ch .authFail [] t) ∧ t.boot.image = [] ∧ t.host.fwStage = 0x1E) ∧
  (∀ (ch : Fin 4) (s : State), bootEnding s = some ch → committed s ch = false → abortLanded s ch = true → ∃ t,
    exec .bootAuthDone s = .next (respond ch .aborted [] t) ∧ t.boot.image = s.boot.image ∧ t.boot.phase = .hostLoad)

/-- `ROLE_CONFIRM` (R128) names the integrated or the local role; with BOOTSEL 10, which allows only the remote role,
it ends with `ST_BAD_PARAM`; on `ST_OK` `HW_ID.role` and `fw_stage` 0x31 are set before the response enters DONE; a
second one ends with `ST_BAD_STATE`. -/
def Obligations.RoleConfirm : Prop :=
  ∀ (ch : Fin 4) (s : State), serves s ch 0x0210 .immediate → (reqOf s ch).length = 1 → wet s ch →
    (∀ b : Byte, body s ch = [b] → b ≠ 1 → b ≠ 3 → exec (.roleConfirm ch) s = .next (respond ch .badParam [] (takeOut s ch))) ∧
    (s.host.bootsel = 2 → exec (.roleConfirm ch) s = .next (respond ch .badParam [] (takeOut s ch))) ∧
    (∀ b : Byte, body s ch = [b] → b = 1 ∨ b = 3 → s.host.bootsel ≠ 2 →
      (s.host.role ≠ 0 → exec (.roleConfirm ch) s = .next (respond ch .badState [] (takeOut s ch))) ∧
      (s.host.role = 0 → ∃ t, exec (.roleConfirm ch) s = .next (respond ch .ok [] t) ∧
        t.host.role = b.truncate 2 ∧ t.host.fwStage = 0x31 ∧ t.chan = (takeOut s ch).chan ∧ t.mem = s.mem))

/-- `SYS_RESET` (R109) is answered with `ST_OK`, and reset begins at the first stroke boundary at least 1 ms (24,576
ticks) later: at that boundary, whether as its own row or as the boundary's, every block is reset and the straps are
sampled. Model's choice, not the spec's: what reset leaves (notes/assumptions/33.md); rows at a boundary
(notes/assumptions/56.md). -/
def Obligations.SysReset : Prop :=
  (∀ (ch : Fin 4) (s : State), serves s ch 0x0102 .immediate → (reqOf s ch).length = 0 → wet s ch → ∃ n,
    exec (.sysReset ch) s = .next (respond ch .ok [] { takeOut s ch with resetAt := some n }) ∧
    s.now + 24576 ≤ n * 24576 ∧ ∀ k, s.now + 24576 ≤ k * 24576 → n ≤ k) ∧
  (∀ (s : State) (n : Nat), s.resetAt = some n → n ≤ s.latch.stroke + 1 → ∀ i, i = .sysResetTakesEffect ∨
    (s.pd1 = true ∧ i = .strokeBoundary) →
    exec i s = .next { afterReset s with
      boot := { State.reset.boot with phase := .pllStart }
      host := { State.reset.host with bootsel := s.pins.bootsel, hifSpi := s.pins.hifsel, i2cAddrSel := s.pins.haddr } }) ∧
  (∀ (s : State) (n : Nat), s.resetAt = some n → s.latch.stroke + 1 < n → exec .sysResetTakesEffect s = .next s)

/-- `ID_GET_CERT` (R140) returns up to 480 bytes of the certificate from an offset inside it; `ID_CHALLENGE` (R142)
keeps its channel ACTIVE with the nonce, one at a time device-wide, and its end returns the device time signed and the
device's signature over the challenge's message; `FAULT_ACK` (R562) clears every held fault and `lost`.
`PD_SWITCH_COMPLETE` (R134): the first domain being switched has its bit of `pd_on` changed, the others keep theirs,
and the next switch begins. Model's choice, not the spec's: free signatures (notes/assumptions/72.md). -/
def Obligations.IdentityFaultsAndDomains : Prop :=
  ((∀ (ch : Fin 4) (s : State) (off : Nat), serves s ch 0x0C01 .read → parseOffset (body s ch) = some off →
     off < s.otp.cert.length →
     exec (.idGetCert ch) s = .next (respond ch .ok
       (u16 s.otp.cert.length ++ u16 (min 480 (s.otp.cert.length - off)) ++ (s.otp.cert.drop off).take 480) (takeOut s ch))) ∧
   (∀ (ch : Fin 4) (s : State), serves s ch 0x0C02 .immediate → (reqOf s ch).length = 32 → wet s ch →
     (∀ c : Fin 4, nonceOf (takeOut s ch) c = none) →
     exec (.idChallenge ch) s = .next (keepsOp ch ⟨.idChallenge (body s ch), true, s.now⟩ (takeOut s ch))) ∧
   (∀ (ch c : Fin 4) (s : State) (n : List Byte), serves s ch 0x0C02 .immediate → (reqOf s ch).length = 32 →
     nonceOf (takeOut s ch) c = some n → exec (.idChallenge ch) s = .next (respond ch .busy [] (takeOut s ch))) ∧
   (∀ (ch : Fin 4) (s : State) (n : List Byte), nonceOf s ch = some n → (∀ c : Fin 4, c ≠ ch → nonceOf s c = none) →
     exec .idChallengeSigned s = .next (respond ch (if abortLanded s ch then .alreadyDone else .ok)
       (u64 s.now ++ deviceSign s (challengeMessage n s)) { s with freeNext := s.freeNext + 1 })) ∧
   (∀ (ch : Fin 4) (s : State), serves s ch 0x0121 .immediate → (reqOf s ch).length = 0 → wet s ch →
     exec (.faultAck ch) s = .next (respond ch .ok [] { takeOut s ch with faults := [], faultsLost := 0 }))) ∧
  (∀ (s : State) (d : Fin 8) (on : Bool) (rest : List (Fin 8 × Bool)), s.power.switching = (d, on) :: rest →
     ∃ t, exec .pdSwitchComplete s = .next t ∧ t.power.switching = rest ∧
       (∀ k : Fin 8, pdIsOn t k.val = if k = d then on else pdIsOn s k.val) ∧ t.mem = s.mem ∧ t.slots = s.slots)

/-! ### The host port (R60 to R107) -/

/-- The doorbell rows (R86, R87, R93, R94, R106), each after the words of a held frame and those that wait in HOSTQ_W:
`ring` takes an IDLE channel to POSTED at the end of the order, `release` a DONE channel to IDLE; `abort` answers a
POSTED request with `ST_ABORTED`, sets `abort_pending` on an ACTIVE one and does nothing in DONE; `bulk_done` in the
device-to-host direction takes a half back; in any other state each is rejected. -/
def Obligations.DoorbellRows : Prop :=
  ∀ (ch : Fin 4) (s : State), hostActive s = true → let s0 := landAll (finishHold s)
    (s0.chan[ch] = .idle → exec (.ring ch) s
      = .next { s0 with chan := s0.chan.set ch .posted, ringOrder := s0.ringOrder ++ [ch] }) ∧
    (s0.chan[ch] ≠ .idle → exec (.ring ch) s = .next (setWriteRejected s0)) ∧
    (s0.chan[ch] = .done → exec (.release ch) s = .next { s0 with chan := s0.chan.set ch .idle }) ∧
    (s0.chan[ch] ≠ .done → exec (.release ch) s = .next (setWriteRejected s0)) ∧
    (s0.chan[ch] = .posted → exec (.abort ch) s = .next (respond ch .aborted (abortPayload s0 ch) s0)) ∧
    (s0.chan[ch] = .active → exec (.abort ch) s
      = .next { s0 with abortPending := s0.abortPending ||| BitVec.ofNat 4 (2 ^ ch.val) }) ∧
    (s0.chan[ch] = .done → exec (.abort ch) s = .next s0) ∧
    (s0.chan[ch] = .idle ∨ s0.chan[ch] = .disabled → exec (.abort ch) s = .next (setWriteRejected s0)) ∧
    (∀ h : Fin 2, s0.bulk.hostOwned.getLsbD h.val = false → exec (.bulkDone h) s = .next (setWriteRejected s0)) ∧
    (∀ h : Fin 2, s0.bulk.hostOwned.getLsbD h.val = true → s0.bulk.hostToDev = false → s0.bulk.finalHalf = none →
      ∃ b : BitVec 2, exec (.bulkDone h) s = .next { s0 with bulk := { s0.bulk with hostOwned := b } } ∧
        ∀ k : Fin 2, b.getLsbD k.val = if k = h then false else s0.bulk.hostOwned.getLsbD k.val)

/-- A write to `EVT_TAIL` takes effect only when the new value lies from the old `tail` up to `head`, counted modulo
65,536; any other value is rejected (R104). -/
def Obligations.EvtTailWrite : Prop :=
  ∀ (w : Word) (s : State), hostActive s = true → let s0 := landAll (finishHold s)
    (∀ k : Nat, k ≤ (s0.host.evtHead - s0.host.evtTail).toNat → w.truncate 16 = s0.host.evtTail + BitVec.ofNat 16 k →
      exec (.evtTailWrite w) s = .next { s0 with host := { s0.host with evtTail := w.truncate 16 } }) ∧
    ((∀ k : Nat, k ≤ (s0.host.evtHead - s0.host.evtTail).toNat → w.truncate 16 ≠ s0.host.evtTail + BitVec.ofNat 16 k) →
      exec (.evtTailWrite w) s = .next (setWriteRejected s0))

/-- `IRQ_STATUS` clears the bits that a write sets (R83); `I2C_TIMEOUT`, and `I2C_TIMING` with an `sda_setup` of at
least 2, are held until the next STOP (R73); a write to a read-only register changes nothing, one to an unaligned
offset sets `addr_error` (R14, R64), and one to a reserved offset is rejected (R14). What a register reads (R83): each
word of `HW_ID`, `HW_STATUS`, `IRQ_STATUS`, `IRQ_ENABLE`, `CHAN_STATE`, the ring's `head` and `tail`; the write-only
`DOORBELL` reads 0 (R14), and right after reset so does all that PD1 holds (R15). -/
def Obligations.HostRegisters : Prop :=
  (∀ (w : Word) (s : State), hostActive s = true → let s0 := landAll (finishHold s)
     (∃ b : BitVec 10, exec (.irqStatusClear w) s = .next { s0 with host := { s0.host with irqStatus := b } } ∧
       ∀ k : Nat, k < 10 → b.getLsbD k = (s0.host.irqStatus.getLsbD k && !w.getLsbD k)) ∧
     (exec (.i2cTimingWrite true w) s = .next { s0 with host := { s0.host with i2cTimeoutNext := some w } }) ∧
     (2 ≤ (w.toNat / 65536) % 256 → exec (.i2cTimingWrite false w) s = .next { s0 with host := { s0.host with
       i2cTimingNext := some (BitVec.ofNat 32 ((w.toNat / 65536) % 256 * 65536 + (w.toNat / 256 % 256) * 256 + w.toNat % 16)) } }) ∧
     (exec (.hostRegisterWrite 0x000C w) s = .next { s0 with host := { s0.host with irqEnable := w.truncate 10 } }) ∧
     (∀ off : Half, off = 0x0000 ∨ off = 0x0014 ∨ off = 0x0020 → exec (.hostRegisterWrite off w) s = .next s0) ∧
     (∀ off : Half, off.toNat % 4 ≠ 0 → exec (.hostRegisterWrite off w) s = .next (setAddrError s0)) ∧
     (∀ off : Half, off.toNat % 4 = 0 → (0x004C ≤ off.toNat ∧ off.toNat < 0x1000) →
       exec (.hostRegisterWrite off w) s = .next (setWriteRejected s0))) ∧
  (∀ s : State, readWord s 0x0000 = hwId s ∧ readWord s 0x0004 = hwStatus s ∧
     readWord s 0x0008 = s.host.irqStatus.zeroExtend 32 ∧ readWord s 0x000C = s.host.irqEnable.zeroExtend 32 ∧
     readWord s 0x0010 = 0 ∧ readWord s 0x0014 = chanStateWord s ∧
     readWord s 0x0020 = s.host.evtHead.zeroExtend 32 ∧ readWord s 0x0024 = s.host.evtTail.zeroExtend 32 ∧
     (∀ off, 0x1000 ≤ off → readWord State.reset off = 0))

/-- A request buffer takes a write in IDLE and DONE (R86, R590); its word then reads as it was written, and every
other byte of the window as before; in every other state, and for every response buffer, the write is rejected. -/
def Obligations.MailboxBufferWrites : Prop :=
  ∀ (ch : Fin 4) (k : Nat) (w : Word) (s : State), hostActive s = true → s.host.holdingScl = false → s.host.hostqW = [] → k < 128 →
    ((s.chan[ch] = .idle ∨ s.chan[ch] = .done) → ∃ t,
      exec (.hostRegisterWrite (BitVec.ofNat 16 (reqBase ch + 4 * k)) w) s = .next t ∧
      memBytes t.mem (reqBase ch + 4 * k) 4 = wordBytes w ∧
      (∀ a, a < reqBase ch + 4 * k ∨ reqBase ch + 4 * k + 4 ≤ a → memRead t.mem a = memRead s.mem a) ∧
      t.chan = s.chan ∧ t.host = s.host) ∧
    (s.chan[ch] ≠ .idle → s.chan[ch] ≠ .done →
      exec (.hostRegisterWrite (BitVec.ofNat 16 (reqBase ch + 4 * k)) w) s = .next (setWriteRejected s)) ∧
    exec (.hostRegisterWrite (BitVec.ofNat 16 (respBase ch + 4 * k)) w) s = .next (setWriteRejected s)

/-- I2C frames (R61, R63 to R68, R76): a write frame to this target with an aligned address lands its whole words in
order, leaves the pointer after them and may go on; bytes of a word begun set `partial_word` when it ends, and a bad
acknowledge cuts it with `rstart_in_ack`; a read frame returns its bytes from the address given, or from the pointer,
and changes no memory; an unaligned address is an `addr_error` and lands nothing; a frame for another target changes
no memory and no channel. I2C holds and timers (R69, R74, R75): a word that meets a full HOSTQ_W holds SCL with the
words behind it; when SCL is released a held fetch goes on to its end, or the held words land; a timer whose limit is
not 0 ends the frame in progress and sets its flag, unless the target holds SCL. Model's choice, not the spec's: where
the register pointer starts (notes/assumptions/3.md); the frames counted (notes/assumptions/69.md). -/
def Obligations.I2cBus : Prop :=
  ((∀ (address : BitVec 7) (h l : Byte) (data : List Byte) (e : Bool) (s : State), addressed s address true ⟨true, e⟩ = true →
     let a := h.toNat * 256 + l.toNat
     let opened (d : List Byte) : State := { beginFrame OpenFrame.reset s with host := { (beginFrame OpenFrame.reset s).host with
       regPtr := advancePtr a d.length, frame := some { OpenFrame.reset with head := [h, l], word := begunWord a d } } }
     let landed (d : List Byte) : State := landWords (wordsFrom a d) (landAll (opened d))
     a % 4 = 0 →
       exec (.i2cWriteFrame address (h :: l :: data) none none ⟨true, e⟩) s
         = .next (if e then endFrame true (landed data) else landed data) ∧
       (∀ (k : Nat) (stop : Bool), 3 ≤ k → k ≤ data.length + 2 →
         exec (.i2cWriteFrame address (h :: l :: data) (some ⟨k, stop⟩) none ⟨true, e⟩) s
           = .next (endFrame stop (setRstartInAck (landed (data.take (k - 3))))))) ∧
   (∀ (address : BitVec 7) (data : List Byte) (e : Bool) (f : OpenFrame) (s : State),
     addressed s address true ⟨false, e⟩ = true → s.host.frame = some f → f.ignored = false → f.head.length = 2 →
     let u := landWords (wordsFrom s.host.regPtr (f.word ++ data)) (landAll { s with host := { s.host with
       frame := some { f with word := begunWord s.host.regPtr (f.word ++ data) }
       regPtr := advancePtr s.host.regPtr (f.word ++ data).length } })
     exec (.i2cWriteFrame address data none none ⟨false, e⟩) s = .next (if e then endFrame true u else u)) ∧
   (∀ (s : State) (stop : Bool), s.host.frame.isSome = true → inWriteWord s = true → (endFrame stop s).host.partialWord = true ∧
     (endFrame stop s).host.frame = none ∧ (endFrame stop s).counters.hostFrames = s.counters.hostFrames + 1) ∧
   (∀ (address : BitVec 7) (h l : Byte) (data : List Byte) (s : State), addressed s address true ⟨true, true⟩ = true →
     s.host.hostqW = [] → s.host.frame = none → (h.toNat * 256 + l.toNat) % 4 ≠ 0 → ∃ t,
     exec (.i2cWriteFrame address (h :: l :: data) none none ⟨true, true⟩) s = .next t ∧ t.host.addrError = true ∧
     t.host.partialWord = s.host.partialWord ∧ t.host.regPtr = s.host.regPtr ∧ t.mem = s.mem ∧ t.chan = s.chan ∧
     t.counters.hostFrames = s.counters.hostFrames + 1) ∧
   (∀ (address : BitVec 7) (p : List Byte) (n : Nat) (s : State) (a : Nat), addressed s address false ⟨true, true⟩ = true →
     s.host.frame = none →
     (p = [] ∧ a = s.host.regPtr ∧ a ≤ 0x10000 ∨ ∃ h l : Byte, p = [h, l] ∧ a = h.toNat * 256 + l.toNat) → a % 4 = 0 →
     let seen := { s with host := { s.host with frameLatch := some s.counterLatch, busBusy := true } }
     (∃ t, exec (.i2cReadFrame address p n none none ⟨true, true⟩) s = .next t ∧
       t.host.readOut = readBytes seen a n ∧ t.host.regPtr = advancePtr a n ∧ t.mem = s.mem ∧
       t.counters.hostFrames = s.counters.hostFrames + 1) ∧
     (∀ k, 4 * k < n → ∃ t, exec (.i2cReadFrame address p n none (some k) ⟨true, true⟩) s = .next t ∧
       t.host.holdingScl = true ∧ t.host.heldRead = some (n - 4 * k) ∧ t.host.readOut = readBytes seen a (4 * k) ∧
       t.mem = s.mem)) ∧
   (∀ (address : BitVec 7) (bytes : List Byte) (e : Bool) (s : State), hostActive s = true → address.toNat ≠ ownAddress s → ∃ t,
     exec (.i2cWriteFrame address bytes none none ⟨true, e⟩) s = .next t ∧ t.mem = s.mem ∧ t.chan = s.chan)) ∧
  ((∀ (ws : List (Half × Word)) (k : Nat) (s : State), k < ws.length → 4 ≤ (s.host.hostqW ++ ws.take k).length →
     (landFrame ws (some k) s).host.holdingScl = true ∧ (landFrame ws (some k) s).host.heldWrites = ws.drop k ∧
     (landFrame ws (some k) s).host.hostqW.length = 4) ∧
   (∀ (s : State) (n : Nat), s.host.holdingScl = true → s.host.heldRead = some n →
     exec .sclHoldRelease s = .next (closePart s.host.heldClose (readData n
       { s with host := { s.host with holdingScl := false, heldRead := none, heldWrites := [] } }))) ∧
   (∀ s : State, s.host.holdingScl = true → s.host.heldRead = none →
     exec .sclHoldRelease s = .next (closePart s.host.heldClose (landWords s.host.heldWrites (landAll
       { s with host := { s.host with holdingScl := false, heldRead := none, heldWrites := [] } })))) ∧
   (∀ s : State, s.host.holdingScl = false → exec .sclHoldRelease s = .next s) ∧
   (∀ s : State, hostActive s = true → s.host.hifSpi = false → s.host.holdingScl = false →
     (s.host.i2cTimeout.toNat % 65536 ≠ 0 → exec .sclTimeout s = .next (setSclTimeout (dropFrame s))) ∧
     (s.host.i2cTimeout.toNat % 65536 = 0 → exec .sclTimeout s = .next s) ∧
     (s.host.i2cTimeout.toNat / 65536 ≠ 0 → exec .sdaTimeout s = .next (setSdaTimeout (dropFrame s))) ∧
     (s.host.i2cTimeout.toNat / 65536 = 0 → exec .sdaTimeout s = .next s)) ∧
   (∀ s : State, s.host.holdingScl = true → exec .sclTimeout s = .next s ∧ exec .sdaTimeout s = .next s))

/-- SPI frames (R78 to R81): with a queue that has room, a write frame of registers outside its slow targets lands all
its words; of sixteen words that a quad frame at 50 MHz writes to a slow target without waiting, one meets four in
HOSTQ_W, is lost and sets `wr_dropped`; a read frame with enough dummy cycles returns its bytes from the address
given; with too few it returns undefined words, and the frame still counts and moves the pointer; an opcode that is
none of the four is an `addr_error`. Model's choice, not the spec's: the frames counted (notes/assumptions/69.md);
free words (notes/assumptions/74.md). -/
def Obligations.SpiFrames : Prop :=
  (∀ (op h l : Byte) (data : List Byte) (khz : Nat) (s : State), hostActive s = true → s.host.hifSpi = true →
    (op = 0x02 ∨ op = 0x38) → (h.toNat * 256 + l.toNat) % 4 = 0 →
    let a := h.toNat * 256 + l.toNat
    let begun := beginFrame { OpenFrame.reset with cycles := wordCycles (op == 0x38) } s
    (a + data.length ≤ 0x1000 → s.host.hostqBusy ≤ 3 * hostqCost → ∃ b, b ≤ s.host.hostqBusy ∧
      exec (.spiWriteFrame op (h :: l :: data) khz ⟨true, true⟩) s
        = .next (endFrame false (landWords (wordsFrom a data) (landAll { begun with host := { begun.host with
            regPtr := advancePtr a data.length, hostqBusy := b, hostqAt := s.now
            frame := some { OpenFrame.reset with
              head := [h, l], word := begunWord a data, cycles := wordCycles (op == 0x38) } } })))) ∧
    (op = 0x38 → khz = 50000 → s.host.spiWrWait = 0 → data.length = 64 → s.host.hostqW = [] → s.host.frame = none →
      (0x1000 ≤ a ∧ a + 64 ≤ 0x2000) ∨ (0x8000 ≤ a ∧ a + 64 ≤ 0x10000) → ∃ t,
      exec (.spiWriteFrame op (h :: l :: data) khz ⟨true, true⟩) s = .next t ∧ t.host.wrDropped = true ∧ t.chan = s.chan)) ∧
  (∀ (op h l : Byte) (n khz : Nat) (s : State), hostActive s = true → s.host.hifSpi = true → (op = 0x0B ∨ op = 0xEB) →
    (h.toNat * 256 + l.toNat) % 4 = 0 → s.host.frame = none →
    ∃ t, exec (.spiReadFrame op [h, l] n khz ⟨true, true⟩) s = .next t ∧
      t.host.regPtr = advancePtr (h.toNat * 256 + l.toNat) n ∧ t.mem = s.mem ∧
      t.counters.hostFrames = s.counters.hostFrames + 1 ∧ t.host.readOut.length = n ∧
      (3 * khz ≤ s.host.spiRdDummy.toNat * 10000 →
        t.host.readOut = readBytes { s with host := { s.host with frameLatch := some s.counterLatch, busBusy := false } }
          (h.toNat * 256 + l.toNat) n)) ∧
  (∀ (op : Byte) (bytes : List Byte) (n khz : Nat) (s : State), hostActive s = true → s.host.hifSpi = true →
    op ≠ 0x02 → op ≠ 0x38 → op ≠ 0x0B → op ≠ 0xEB → s.host.hostqW = [] →
    (∃ t, exec (.spiWriteFrame op bytes khz ⟨true, true⟩) s = .next t ∧ t.host.addrError = true ∧ t.mem = s.mem ∧
      t.chan = s.chan ∧ t.host.regPtr = s.host.regPtr) ∧
    (∃ t, exec (.spiReadFrame op bytes n khz ⟨true, true⟩) s = .next t ∧ t.host.addrError = true ∧ t.mem = s.mem ∧
      t.chan = s.chan ∧ t.host.regPtr = s.host.regPtr))

/-! ### The event ring (R101 to R103) -/

/-- Posting an event (R102, R103, R546): with room, its 32 bytes are written whole at `head` mod 64, `head` advances
by one and `evt` is set; to a full ring it is not written, `evt_overflow` is set and the loss is counted; `seq` is
consumed either way, and the rest of the window reads as before. -/
def Obligations.EventIsPosted : Prop :=
  ∀ (e : Event) (s : State), let t := postEvent s e
    t.evSeq = s.evSeq + 1 ∧ t.counters.eventsPosted = s.counters.eventsPosted + 1 ∧ t.host.evtTail = s.host.evtTail ∧
    (s.host.evtHead - s.host.evtTail ≠ 64 → e.payload.length = 16 →
      t.host.evtHead = s.host.evtHead + 1 ∧ t.host.irqStatus = s.host.irqStatus ||| 0x010 ∧
      memBytes t.mem (0x2000 + 32 * (s.host.evtHead.toNat % 64)) 32
        = u16 e.code.toNat ++ u16 e.object.toNat ++ u32 s.evSeq.toNat ++ u64 e.timestamp ++ e.payload ∧
      (∀ a, a < 0x2000 + 32 * (s.host.evtHead.toNat % 64) ∨ 0x2020 + 32 * (s.host.evtHead.toNat % 64) ≤ a →
        memRead t.mem a = memRead s.mem a)) ∧
    (s.host.evtHead - s.host.evtTail = 64 → t.host.evtHead = s.host.evtHead ∧ t.mem = s.mem ∧
      t.host.irqStatus = s.host.irqStatus ||| 0x020 ∧ t.counters.eventsLost = s.counters.eventsLost + 1)

/-! ### Front end and Temper (R148 to R204) -/

/-- The end of a channeliser frame (R155, R160, R166, R170) that is due: the frame number and its timestamp move on,
the epoch's sums take the samples, and a slot of one branch that reads the bank moves the oscillator of its path by
the frame's four synthesis samples; a clip in TRACK enters OVERLOAD with a step of two due; a due step, or a GI that a
transaction set, takes effect at the end of the next frame and is counted; otherwise the GI stays. The end of an epoch
(R155, R158, R159, R181, R191): the Bellows holds the levels of its samples; in TRACK an RMS above `upper` with the GI
below `gi_low` raises the GI by one; in ACQUIRE the first epoch chooses the GI; an epoch of OVERLOAD without a clip
leads to RECOVER; the converter reads its temperature and its count of epochs left falls by one. The ends of Bellows
states (R157, R159): ACQUIRE ends in TRACK after its two measured epochs; on an epoch boundary a GI above `gi_high`
falls by one once the hold interval has lasted `up_hold_ms`; RECOVER ends in TRACK after `recover_ms`. Nothing but the
input, and the count of its gain steps, changes. Model's choice, not the spec's: a row that is not due changes nothing
(notes/assumptions/9.md); what comes in from outside is operands (notes/assumptions/16.md). -/
def Obligations.FrontEnd : Prop :=
  (∀ (i : Fin 3) (codes : List Int) (s : State), let x := s.inputs[i]
     (frameOpen i s = false → exec (.channeliserFrame i codes) s = .next s) ∧
     (frameOpen i s = true → ∃ t, exec (.channeliserFrame i codes) s = .next t ∧
       (∀ k : Fin 3, k ≠ i → t.inputs[k] = s.inputs[k] ∧ t.convs[k] = s.convs[k]) ∧ t.mem = s.mem ∧ t.evq = s.evq ∧
       t.inputs[i].frameNo = x.frameNo + 1 ∧ t.inputs[i].frameTs = x.frameTs + frameUnits i ∧
       t.inputs[i].sumSq = x.sumSq + (codes.map fun c => c.natAbs * c.natAbs).sum ∧
       (∀ k : Fin 48, t.slots[k].state = s.slots[k].state ∧ t.slots[k].tune = s.slots[k].tune) ∧
       (∀ k : Fin 48, reads s.slots[k] i = false → t.slots[k] = s.slots[k]) ∧
       (∀ k : Fin 48, let y := s.slots[k]
         let tune := tuneFor y x.frameTs
         reads y i = true → combines y = false → onHf tune = (i == 2) →
         let p := if onPathB i then y.pathB else y.pathA
         25 * p.since ≤ x.frameTs → (if onPathB i then t.slots[k].pathB else t.slots[k].pathA).nco
           = ncoStep tune (ncoStep tune (ncoStep tune (ncoStep tune p.nco)))) ∧
       (clipMet (clippedIn codes) x = false → x.giMove = none →
         (x.overDue = false → t.inputs[i].gi = x.gi ∧ t.inputs[i].state = x.state ∧
           t.inputs[i].clipFrames = x.clipFrames ∧ t.counters = s.counters) ∧
         (x.overDue = true → stepsDiscarded i (x.frameTs + frameUnits i) x = false →
           t.inputs[i].gi = min (x.gi + 2) (cfgFor x (x.frameTs + frameUnits i)).giLow ∧ t.inputs[i].overDue = false)) ∧
       (∀ g, clipMet (clippedIn codes) x = false → x.giMove = some g → x.cfgAt * 25 ≤ x.frameTs + frameUnits i →
         t.inputs[i].gi = g ∧ t.inputs[i].giMove = none ∧ (g ≠ x.gi → t.inputs[i].gainSteps = x.gainSteps + 1)) ∧
       (clipMet (clippedIn codes) x = true → x.state = .track → x.giMove = none → x.overDue = false →
         x.gi < (cfgFor x x.frameTs).giLow → t.inputs[i].state = .overload ∧ t.inputs[i].overDue = true ∧
         t.inputs[i].gi = x.gi ∧ t.inputs[i].clipFrames = x.clipFrames + 1 ∧
         t.inputs[i].overloadEntries = x.overloadEntries + 1))) ∧
  (∀ (i : Fin 3) (temperature : Int) (s : State), let x := s.inputs[i]
     let rms := epochRms i x
     let peak := epochPeak x
     (epochEnded i s = false → exec (.epochBoundary i temperature) s = .next s) ∧
     (epochEnded i s = true → s.convs[i].fgPending = none → ∃ t, exec (.epochBoundary i temperature) s = .next t ∧
       (∀ k : Fin 3, k ≠ i → t.inputs[k] = s.inputs[k] ∧ t.convs[k] = s.convs[k]) ∧ t.slots = s.slots ∧ t.mem = s.mem ∧
       t.convs[i].readings.head? = some temperature ∧ t.convs[i].state = s.convs[i].state ∧
       (s.convs[i].state = .cycle → t.convs[i].phaseLeft = s.convs[i].phaseLeft - 1) ∧
       (s.convs[i].state = .startup → t.convs[i].startupLeft = s.convs[i].startupLeft - 1 ∧
         t.inputs[i].frameTs = x.frameTs + 65536) ∧
       (s.convs[i].state = .foreground → t.convs[i].fgLeft = s.convs[i].fgLeft - 1 ∧
         ∀ g, foregroundGi i (2800 - (s.convs[i].fgLeft - 1)) = some g → t.inputs[i].gi = g) ∧
       (s.convs[i].state ≠ .startup → t.inputs[i].frameNo = 0 ∧ t.inputs[i].sumSq = 0 ∧ t.inputs[i].peakCode = 0) ∧
       (s.convs[i].state ≠ .startup → s.convs[i].state ≠ .foreground → x.state ≠ .off →
         t.inputs[i].rms = some rms ∧ t.inputs[i].peak = some peak ∧
         (x.state = .track → (cfgFor x x.frameTs).upper < rms → x.gi < (cfgFor x x.frameTs).giLow → x.stepped = false →
           stepsDiscarded i x.frameTs x = false → t.inputs[i].gi = x.gi + 1 ∧ t.inputs[i].gainSteps = x.gainSteps + 1) ∧
         (x.state = .track → rms ≤ (cfgFor x x.frameTs).upper → t.inputs[i].gi = x.gi) ∧
         (x.state = .acquire → x.acqEpochs = 1 →
           t.inputs[i].gi = acquireChoice i (cfgFor x x.frameTs) rms peak ∧ t.inputs[i].state = .acquire) ∧
         (x.state = .overload → x.epochWhole = true → x.epochClip = false →
           t.inputs[i].state = .recover ∧ t.inputs[i].recoverFrom = x.frameTs)))) ∧
  (∀ (i : Fin 3) (s : State), let x := s.inputs[i]
     (acquireDone x = true → ∃ t, exec (.bellowsAcquireDone i) s = .next t ∧ onlyInput s t i ∧
       t.inputs[i].state = .track ∧ t.inputs[i].gi = x.gi ∧ t.inputs[i].quietFrom = some x.frameTs) ∧
     (riseDue i x = true → ∃ t, exec (.bellowsRise i) s = .next t ∧ t.inputs[i].gi = x.gi - 1 ∧
       t.inputs[i].state = .track ∧ t.inputs[i].quietFrom = some x.frameTs ∧ t.inputs[i].gainSteps = x.gainSteps + 1 ∧
       (∀ k : Fin 3, k ≠ i → t.inputs[k] = s.inputs[k]) ∧ t.convs = s.convs ∧ t.slots = s.slots ∧ t.mem = s.mem) ∧
     (x.state = .recover → 25 * s.now < x.recoverFrom + 25 * (x.cfg.recoverMs * 24576) →
       exec (.bellowsRecoverExpiry i) s = .next s) ∧
     (x.state = .recover → x.recoverFrom + 25 * (x.cfg.recoverMs * 24576) ≤ 25 * s.now → ∃ t,
       exec (.bellowsRecoverExpiry i) s = .next t ∧ onlyInput s t i ∧ t.inputs[i].state = .track ∧ t.inputs[i].gi = x.gi) ∧
     (acquireDone x = false → exec (.bellowsAcquireDone i) s = .next s) ∧
     (riseDue i x = false → exec (.bellowsRise i) s = .next s) ∧
     (x.state ≠ .recover → exec (.bellowsRecoverExpiry i) s = .next s))

/-- Converter start-up and foreground calibration (R181 to R184, R190, R195, R198): with no valid corrections STARTUP
leads to a foreground calibration of 2,800 epochs with the Bellows OFF; restored values take force there; with all
units in service it leads to WAIT or straight to a cycle, and the Bellows enters ACQUIRE, or MANUAL; a foreground
calibration whose units all stand in range ends valid in WAIT with its event queued. -/
def Obligations.TemperStartAndForeground : Prop :=
  (∀ (i : Fin 3) (s : State), startupDone s.convs[i] = true → s.convs[i].valid = false →
    ∃ t, exec (.temperStartupDone i) s = .next t ∧ t.convs[i].state = .foreground ∧ t.convs[i].fgLeft = 2800 ∧
      t.inputs[i].state = .off ∧ t.inputs[i].frameNo = 0 ∧ t.inputs[i].frameTs = s.inputs[i].frameTs ∧
      (∀ k : Fin 3, k ≠ i → t.convs[k] = s.convs[k] ∧ t.inputs[k] = s.inputs[k]) ∧ t.slots = s.slots ∧ t.mem = s.mem) ∧
  (∀ (i : Fin 3) (s : State), startupDone s.convs[i] = true → s.convs[i].valid = true →
    requestIn s.convs[i].fgPending s.inputs[i].frameTs = false →
    (s.convs[i].restored = none → retiredUnits s.convs[i] = [] →
      ∃ t, exec (.temperStartupDone i) s = .next t ∧ (t.convs[i].state = .wait ∨ t.convs[i].state = .cycle) ∧
        t.inputs[i].state = (if s.inputs[i].cfg.manual then .manual else .acquire) ∧
        (∀ k : Fin 3, k ≠ i → t.convs[k] = s.convs[k] ∧ t.inputs[k] = s.inputs[k]) ∧ t.slots = s.slots ∧ t.evq = s.evq) ∧
    (∀ b, s.convs[i].restored = some b → ∃ t, exec (.temperStartupDone i) s = .next t ∧ t.convs[i].restored = none ∧
        t.convs[i].units = b.units ∧ t.convs[i].giComp = b.giComp ∧ t.convs[i].levels = b.levels ∧
        t.convs[i].tLast = b.tLast ∧ t.slots = s.slots ∧ t.mem = s.mem)) ∧
  (∀ (i : Fin 3) (units : List UnitValues) (gi : List (Int × Int)) (s : State), foregroundOver s.convs[i] = true →
    units.length = unitCount i → gi.length = giCount i → s.convs[i].units.length = unitCount i →
    (∀ u ∈ units, inService u = true) →
    ∃ t, exec (.foregroundDone i units gi) s = .next t ∧ t.convs[i].state = .wait ∧ t.convs[i].valid = true ∧
      t.convs[i].units.map activeSet = units ∧ t.convs[i].lastEnd = s.inputs[i].frameTs ∧
      t.inputs[i].state = (if s.inputs[i].cfg.manual then .manual else .acquire) ∧
      (∀ k : Fin 3, k ≠ i → t.convs[k] = s.convs[k] ∧ t.inputs[k] = s.inputs[k]) ∧
      ∃ e, t.evq = s.evq ++ [e] ∧ e.code = 3 ∧ e.object = BitVec.ofNat 16 i.val) ∧
  (∀ (i : Fin 3) (units : List UnitValues) (gi : List (Int × Int)) (s : State),
    (startupDone s.convs[i] = false → exec (.temperStartupDone i) s = .next s) ∧
    (foregroundOver s.convs[i] = false ∨ measuresAll i units gi = false → exec (.foregroundDone i units gi) s = .next s))

/-- The background cycle (R187, R188, R190, R191): a trigger met on an epoch boundary in WAIT starts it at position 0
with 64 epochs of measurement; a measured value out of the range in service retires the spare and ends the cycle, one
in range waits for its verify, or ends the cycle at the last measurement; a void verify is repeated, a pass swaps the
units at the position, the first and second failures measure again, and the third ends the cycle; the end of a cycle
is counted and reported. `TEMPER_SAVE` (R196) returns `stroke` and a 192-byte blob, or `ST_BAD_STATE`;
`TEMPER_LEVEL_TRACE` (R204) is accepted in WAIT with a MANUAL Bellows and no slot on the input; its end after 64
epochs writes the point and returns the trace loss, unless no tone was found, or it lay out of range. Model's choice,
not the spec's: level-trace points (notes/assumptions/20.md); a trace whose input is disabled
(notes/assumptions/122.md). -/
def Obligations.TemperCycle : Prop :=
  (∀ (i : Fin 3) (s : State), let v := s.convs[i]
     (cycleDue i s = true → ∃ t, exec (.temperCycleStart i) s = .next t ∧ onlyConv s t i ∧ t.convs[i].state = .cycle ∧
       t.convs[i].phase = .measure ∧ t.convs[i].step = 0 ∧ t.convs[i].phaseLeft = 64 ∧
       t.convs[i].lastStart = s.inputs[i].frameTs ∧ t.convs[i].bgPending = none) ∧
     (cycleDue i s = false → exec (.temperCycleStart i) s = .next s) ∧
     (∀ (u : UnitValues) (k : Nat), measureOver v = true → v.spare = some k → k < v.units.length →
       (inService u = false → ∃ t, exec (.temperMeasureDone i u) s = .next t ∧ onlyConv s t i ∧ t.convs[i].phase = .ended ∧
         t.convs[i].result = 2 ∧ t.convs[i].spare = none) ∧
       (inService u = true → v.phase = .measure → ∃ t n, exec (.temperMeasureDone i u) s = .next t ∧ onlyConv s t i ∧
         t.convs[i].phase = .verify ∧ t.convs[i].phaseLeft = 1 ∧ t.convs[i].units[k]? = some n ∧ n.pend = some u) ∧
       (inService u = true → v.phase = .lastMeasure → ∃ t n, exec (.temperMeasureDone i u) s = .next t ∧ onlyConv s t i ∧
         t.convs[i].phase = .ended ∧ t.convs[i].result = 0 ∧ t.convs[i].units[k]? = some n ∧ activeSet n = u)) ∧
     (∀ u, measureOver v = false → exec (.temperMeasureDone i u) s = .next s) ∧
     (∀ (o g k : Int), verifyOver v = true →
       (v.verifyVoid = true → ∃ t, exec (.temperVerify i o g k) s = .next t ∧ onlyConv s t i ∧
         t.convs[i].verifyVoid = false ∧ t.convs[i].phase = .verify ∧ t.convs[i].verifyRepeats = v.verifyRepeats + 1) ∧
       (∀ j, v.verifyVoid = false → -32 ≤ o → o ≤ 32 → -10000 ≤ g → g ≤ 10000 → -100 ≤ k → k ≤ 100 → v.spare = some j →
         v.step < v.map.length → ∃ t, exec (.temperVerify i o g k) s = .next t ∧ t.convs[i].map[v.step]? = some j ∧
         t.convs[i].spare = v.map[v.step]? ∧ t.counters.temperSwaps[i] = s.counters.temperSwaps[i] + 1 ∧
         (∀ c : Fin 3, c ≠ i → t.convs[c] = s.convs[c]) ∧ t.inputs = s.inputs ∧ t.mem = s.mem) ∧
       (v.verifyVoid = false → (o < -32 ∨ 32 < o ∨ g < -10000 ∨ 10000 < g ∨ k < -100 ∨ 100 < k) → ∃ t,
         exec (.temperVerify i o g k) s = .next t ∧ onlyConv s t i ∧
         t.convs[i].verifyFailures = v.verifyFailures + 1 ∧ t.convs[i].map = v.map ∧
         (if v.verifyFails < 2 then t.convs[i].phase = .measure ∧ t.convs[i].phaseLeft = 64
           else t.convs[i].phase = .ended ∧ t.convs[i].result = 1))) ∧
     (∀ o g k, verifyOver v = false → exec (.temperVerify i o g k) s = .next s) ∧
     (cycleOver v = false → exec (.temperCycleEnd i) s = .next s) ∧
     (cycleOver v = true → requestIn v.fgPending s.inputs[i].frameTs = false → retiredUnits v = [] → v.result ≠ 3 → ∃ t,
       exec (.temperCycleEnd i) s = .next t ∧ t.convs[i].state = .wait ∧ t.convs[i].cycleCount = v.cycleCount + 1 ∧
       t.convs[i].lastEnd = s.inputs[i].frameTs ∧ t.convs[i].tLast = v.cycleTemp ∧ t.inputs = s.inputs ∧ t.mem = s.mem ∧
       ∃ e, t.evq = s.evq ++ [e] ∧ e.code = 3 ∧ e.object = BitVec.ofNat 16 i.val)) ∧
  ((∀ (ch : Fin 4) (i : Fin 3) (s : State), serves s ch 0x0312 .read → body s ch = [BitVec.ofNat 8 i.val] →
     isLocal s = false →
     (saveRefused s.latch.convs[i] = true → exec (.temperSave ch) s = .next (respond ch .badState [] (takeOut s ch))) ∧
     (saveRefused s.latch.convs[i] = false → ∃ b, exec (.temperSave ch) s
       = .next (respond ch .ok (u64 s.latch.stroke ++ b) (takeOut s ch)) ∧ b.take 4 = u32 0x31504D54 ∧
         (s.latch.convs[i].units.length ≤ 9 → s.latch.convs[i].giComp.length ≤ 8 → s.latch.convs[i].levels.length ≤ 4 →
           b.length = 192))) ∧
   (∀ (ch : Fin 4) (i : Fin 3) (point freq : Nat) (level : Int) (s : State), serves s ch 0x0315 .long → wet s ch →
     parseLevelTrace (body s ch) = some (i, point, freq, level) →
     (levelTraceOk i s = true →
       exec (.temperLevelTrace ch) s = .next (keepsOp ch ⟨.levelTrace i point freq level (some (traceEpochs s.inputs[i])), false, s.now⟩ (takeOut s ch))) ∧
     (levelTraceOk i s = false → exec (.temperLevelTrace ch) s = .next (respond ch .badState [] (takeOut s ch)))) ∧
   (∀ (ch : Fin 4) (i : Fin 3) (point freq : Nat) (level : Int) (left : Option Nat) (at_ : Nat) (b : Bool) (r : ToneReading) (s : State),
     opOf s ch = some ⟨.levelTrace i point freq level left, b, at_⟩ →
     (∀ n, left = some n → 0 < n → exec (.temperLevelTraceDone ch r) s = .next s) ∧
     (left = none → abortLanded s ch = false → exec (.temperLevelTraceDone ch r) s = .next (respond ch .timeout [] s)) ∧ (left = some 0 →
     (abortLanded s ch = true → exec (.temperLevelTraceDone ch r) s = .next (respond ch .aborted [] s)) ∧
     (abortLanded s ch = false → r.found = true → -600 ≤ r.dbfs → r.dbfs ≤ -60 → -1000 ≤ level - r.cdbm →
       level - r.cdbm ≤ 1000 → exec (.temperLevelTraceDone ch r) s
         = .next (respond ch .ok (s16 (level - r.cdbm)) (noteMark ch (modConv s i (setLevel point ⟨freq, level - r.cdbm⟩))))) ∧
     (abortLanded s ch = false → r.found = true → -600 ≤ r.dbfs → -60 < r.dbfs ∨ 1000 < (level - r.cdbm).natAbs →
       exec (.temperLevelTraceDone ch r) s = .next (respond ch .badParam [] s)) ∧
     (abortLanded s ch = false → r.found = false → exec (.temperLevelTraceDone ch r) s = .next (respond ch .timeout [] s)))))

/-! ### Slots (R205 to R240) -/

/-- The state rules of a slot at a boundary (R213 to R217): a hold takes a LIVE or NO_SIGNAL slot to ACQUIRING; when
it may be judged, ten strokes in a row that met the detect condition lead to LIVE and fewer to NO_SIGNAL; loss leads
to NO_SIGNAL and recovery to LIVE. Each move queues its event and is counted, but for a slot that a census visit
holds. The state rules of an ensemble slot (R252): 24 strokes that met the detect condition lead to LIVE, and 500 ms
without them to NO_SIGNAL; 500 failed strokes lead to NO_SIGNAL; 24 met ones lead back to LIVE. Model's choice, not
the spec's: a row that is not due changes nothing (notes/assumptions/9.md). -/
def Obligations.SlotStates : Prop :=
  (∀ (i : Fin 48) (s : State), atBoundary s = true → isLocal s = false →
     (acquireDue s s.slots[i] = true → s.slots[i].visit = true → ∃ t, exec (.slotAcquisitionRule i) s = .next t ∧
       t.slots[i].state = (if 10 ≤ s.slots[i].metRun then .live else .noSignal) ∧ t.evq = s.evq ∧ t.counters = s.counters ∧
       (∀ k : Fin 48, k ≠ i → t.slots[k] = s.slots[k]) ∧ t.mem = s.mem) ∧ (s.slots[i].visit = false →
     (holdDue s s.slots[i] = true → ∃ t, exec (.slotHold i) s = .next t ∧ slotMoved s t i .acquiring reasonHold) ∧
     (acquireDue s s.slots[i] = true → 10 ≤ s.slots[i].metRun →
       ∃ t, exec (.slotAcquisitionRule i) s = .next t ∧ slotMoved s t i .live reasonDetect) ∧
     (acquireDue s s.slots[i] = true → s.slots[i].metRun < 10 →
       ∃ t, exec (.slotAcquisitionRule i) s = .next t ∧ slotMoved s t i .noSignal reasonLoss) ∧
     (lossDue s s.slots[i] = true → ∃ t, exec (.slotLoss i) s = .next t ∧ slotMoved s t i .noSignal reasonLoss) ∧
     (recoveryDue s s.slots[i] = true → ∃ t, exec (.slotRecovery i) s = .next t ∧ slotMoved s t i .live reasonDetect) ∧
     (holdDue s s.slots[i] = false → ∃ t, exec (.slotHold i) s = .next t ∧ onlySlot s t i ∧ t.slots = s.slots))) ∧
  (∀ (i : Fin 48) (s : State), atBoundary s = true → isLocal s = false → s.slots[i].visit = false →
     (dabAcquireDue s s.slots[i] = true → 24 ≤ s.slots[i].metRun →
       ∃ t, exec (.dabAcquisition i) s = .next t ∧ slotMoved s t i .live reasonDetect) ∧
     (dabAcquireDue s s.slots[i] = true → s.slots[i].metRun < 24 →
       ∃ t, exec (.dabAcquisition i) s = .next t ∧ slotMoved s t i .noSignal reasonLoss) ∧
     (s.slots[i].state = .live → dabRulesOpen s s.slots[i] = true → 500 ≤ s.slots[i].failRun →
       ∃ t, exec (.dabLoss i) s = .next t ∧ slotMoved s t i .noSignal reasonLoss) ∧
     (s.slots[i].state = .noSignal → dabRulesOpen s s.slots[i] = true → 24 ≤ s.slots[i].metRun →
       ∃ t, exec (.dabRecovery i) s = .next t ∧ slotMoved s t i .live reasonDetect))

/-- The receiver rules of an FM or AM slot (R220, R224, R227, R236): the settle span ends; the filter widens by one
step; an FM slot gains stereo when its pilot has held for 20 strokes, and loses it after 5 without or when the PLL
unlocks; synchronous detection takes over after 20 strokes of lock. Only that slot changes. A combining window of a
diversity slot (R172, R209) that has its 256 samples: the weights in force at its end go to the new ones, and those
are the maximum-ratio weights of the branches estimated over the window once an added branch has settled; before that,
and in an estimate without signal, they stay. The branch of an input in OVERLOAD has weight zero. Only that slot
changes. -/
def Obligations.SlotReceiver : Prop :=
  (∀ (i : Fin 48) (s : State), let x := s.slots[i]
     (x.settling = true → x.settleEnd ≤ s.now → ∃ t, exec (.settleEnd i) s = .next t ∧ onlySlot s t i ∧
       t.slots[i] = { x with settling := false, holdEnd := x.settleEnd }) ∧
     (atBoundary s = true → isLocal s = false →
       (widenDue x = true → ∃ t, exec (.fmBwWiden i) s = .next t ∧ onlySlot s t i ∧
         t.slots[i] = (if bwHeld s.now x then x else { setBw s.now (x.bwIndex - 1) x with bwHold := 0 })) ∧
       (isFm x.tune.type = true → x.state ≠ .free → x.stereo = false → x.pilotHigh = 20 → ∃ t,
         exec (.fmStereoAvailable i) s = .next t ∧ onlySlot s t i ∧ t.slots[i] = { x with stereo := true }) ∧
       (isFm x.tune.type = true → x.state ≠ .free → x.stereo = true → (x.pilotLow = 5 ∨ x.reading.pilotLocked = false) → ∃ t,
         exec (.fmStereoUnavailable i) s = .next t ∧ onlySlot s t i ∧
         t.slots[i] = { x with stereo := false, pilotHigh := 0 }) ∧
       (x.tune.type = .am → x.state ≠ .free → x.am.detector = 0 → x.syncDet = false → x.lockRun = 20 → ∃ t,
         exec (.amSyncLock i) s = .next t ∧ onlySlot s t i ∧ t.slots[i] = { x with syncDet := true, detectAt := s.now }))) ∧
  ((∀ (i : Fin 48) (s : State), let x := s.slots[i]
     let refs := x.div.windowAt.map (·.2.2)
     let a := estimateBranch (x.div.windowAt.map (·.1)) refs
     let b := estimateBranch (x.div.windowAt.map (·.2.1)) refs
     (windowOver x = false → exec (.diversityWindow i) s = .next s) ∧
     (windowOver x = true → ∃ t, exec (.diversityWindow i) s = .next t ∧ onlySlot s t i ∧
       t.slots[i] = { x with div := t.slots[i].div } ∧ (x.div.falling = true → t.slots[i].div = oneBranch x.div.keepB) ∧
       (x.div.falling = false → t.slots[i].div.windowAt = [] ∧ t.slots[i].div.fromA = x.div.toA ∧ t.slots[i].div.fromB = x.div.toB ∧
       (∀ w, x.div.fallDue = none → windowSettled x.div = true → mrcWeights a b = some w →
         t.slots[i].div.toA = w.1 ∧ t.slots[i].div.toB = w.2 ∧ t.slots[i].div.newUntil = none) ∧
       (x.div.fallDue ≠ none ∨ windowSettled x.div = false ∨ mrcWeights a b = none →
         t.slots[i].div.toA = x.div.toA ∧ t.slots[i].div.toB = x.div.toB)))) ∧
   (∀ (s : State) (x : Slot),
     (s.inputs[0].state = .overload → s.inputs[1].state ≠ .overload → (branchWeights s x).1 = ⟨0, 0⟩) ∧
     (s.inputs[1].state = .overload → s.inputs[0].state ≠ .overload → (branchWeights s x).2 = ⟨0, 0⟩) ∧
     (s.inputs[0].state = .overload → s.inputs[1].state = .overload →
       (branchWeights s x).1 = (branchWeights s x).2 ∧ shareOf (branchWeights s x) = 50)))

/-! ### DAB (R247 to R269) -/

/-- Synchronisation of an ensemble slot (R247 to R250): two null dips of at least 10 dB, 2,656 ± 64 samples long and
196,608 ± 8 apart, lead from SEARCH to COARSE; a peak of 12 dB at an offset within ±30 kHz leads to FINE; 3 frames in
COARSE or 4 in FINE without success lead back to SEARCH; a residual below 50 Hz that moved by at most 2 samples leads
to TRACK, at the CIF before the one received; the fourth frame in a row without its phase reference leads to SEARCH;
out of TRACK the flywheel counts a CIF every quarter of a frame, as an erasure. Only that slot changes. A transmission
frame in TRACK that has ended (R248, R249, R254): the CIF count and its time are those of the frame's last CIF, a
frame without its phase reference counts as one more failure in a row, one with it clears the count; the frequency
estimate stays within ±30 kHz, and the metrics are the frame's; no other slot changes and nothing is posted. Model's
choice, not the spec's: a row that is not due changes nothing (notes/assumptions/9.md); equality at a limit
(notes/assumptions/92.md); which gaps count as a frame period (notes/assumptions/116.md). -/
def Obligations.DabReception : Prop :=
  (∀ (i : Fin 48) (s : State), let d := s.slots[i].dab
     dabRuns s s.slots[i] = true →
     (∀ depth len gap : Nat, d.sync = .search → 10 ≤ depth → 2592 ≤ len → len ≤ 2720 → 196600 ≤ gap → gap ≤ 196616 → ∃ t,
       exec (.dabNullDetect i depth len gap) s = .next t ∧ onlySlot s t i ∧
       t.slots[i] = { s.slots[i] with dab := { d with sync := .coarse, framesIn := 0 } }) ∧
     (∀ depth len gap : Nat, (depth < 10 ∨ len < 2592 ∨ 2720 < len ∨ gap < 196600 ∨ 196616 < gap) →
       exec (.dabNullDetect i depth len gap) s = .next s) ∧
     (∀ peaks : List Nat, d.sync = .coarse → ∃ t, exec (.dabCoarseLock i peaks) s = .next t ∧ onlySlot s t i ∧
       (∀ k, coarseOffset d.coarseFrom peaks = some k → -30 ≤ k ∧ k ≤ 30 ∧ 120 ≤ peaks.getD (k + 30).toNat 0 ∧
         t.slots[i] = { s.slots[i] with dab := { d with sync := .fine, framesIn := 0, freqHz := some (1000 * k) } }) ∧
       (coarseOffset d.coarseFrom peaks = none → (∀ k : Int, -30 ≤ k → k ≤ 30 → peaks.getD (k + 30).toNat 0 < 120) ∧
         t.slots[i] = { s.slots[i] with dab := { d with framesIn := min 3 (d.framesIn + 1) } })) ∧
     (((d.sync = .coarse ∧ 3 ≤ d.framesIn) ∨ (d.sync = .fine ∧ 4 ≤ d.framesIn)) → ∃ t,
       exec (.dabSyncTimeout i) s = .next t ∧ onlySlot s t i ∧ t.slots[i].dab.sync = .search ∧
       t.slots[i].dab.framesIn = 0 ∧ t.slots[i].dab.subchs = d.subchs ∧ t.slots[i].dab.area = d.area ∧
       t.slots[i].dab.tracked = d.tracked ∧ t.slots[i].dab.coarseFrom = d.freqHz.getD d.coarseFrom) ∧
     (∀ err moved cif ts : Nat, d.sync = .fine → ∃ t,
       exec (.dabFineLock i err moved cif ts) s = .next t ∧ (∀ k : Fin 48, k ≠ i → t.slots[k] = s.slots[k]) ∧ t.mem = s.mem ∧
       t.slots[i].state = s.slots[i].state ∧
       (err < 50 → moved ≤ 2 → t.slots[i].dab.sync = .track ∧ t.slots[i].dab.tracked = true ∧
         t.slots[i].dab.cif = (cif + 4999) % 5000 ∧ t.slots[i].dab.cifAt = 25 * ts - t.slots[i].dab.period / 4 ∧
         (d.tracked = false → onlySlot s t i ∧ t.slots[i].dab.discDue = d.discDue)) ∧
       (50 ≤ err ∨ 2 < moved → t.slots[i].dab = { d with framesIn := min 4 (d.framesIn + 1) })) ∧
     (d.sync = .track → 4 ≤ d.prsFails → ∃ t, exec (.dabPrsFail i) s = .next t ∧ onlySlot s t i ∧
       t.slots[i].dab.sync = .search ∧ t.slots[i].dab.prsFails = 0 ∧ t.slots[i].dab.candidates = []) ∧
     (d.tracked = true → d.sync ≠ .track → d.cifAt + d.period / 2 ≤ 25 * s.now → ∃ t,
       exec (.dabFlywheelCif i) s = .next t ∧ (∀ k : Fin 48, k ≠ i → t.slots[k] = s.slots[k]) ∧
       t.slots[i].dab.cif = (d.cif + 1) % 5000 ∧ t.slots[i].dab.cifAt = d.cifAt + d.period / 4 ∧
       (∃ c, t.slots[i].dab.area.head? = some c ∧ c.erased = true ∧ c.soft = [] ∧ c.count = (d.cif + 1) % 5000) ∧
       (d.reconfAt = none → onlySlot s t i ∧ t.slots[i].dab.sync = d.sync))) ∧
  (∀ (i : Fin 48) (f : FrameRx) (s : State), dabRuns s s.slots[i] = true → s.slots[i].dab.sync = .track →
     (s.now < f.ts + 2359296 → exec (.dabFrame i f) s = .next s) ∧
     (f.ts + 2359296 ≤ s.now → ∃ t, exec (.dabFrame i f) s = .next t ∧
       (∀ k : Fin 48, k ≠ i → t.slots[k] = s.slots[k]) ∧ t.mem = s.mem ∧ t.evq = s.evq ∧
       t.slots[i].state = s.slots[i].state ∧
       (∀ c, countOf ((f.fic.flatMap fibsOf).flatMap figsOf) = some c → t.slots[i].dab.cif = (c + 3) % 5000) ∧
       t.slots[i].dab.cifAt = 25 * (f.ts + 3 * 589824) + f.fraction ∧
       t.slots[i].dab.area.length ≤ 16 ∧ t.slots[i].dab.area.head?.map (·.soft) = some (f.msc.getD 3 []) ∧
       t.slots[i].dab.snr = f.snr ∧ t.slots[i].dab.window = nextWindow s.slots[i].dab.window f.cir ∧
       t.slots[i].dab.freqHz = some (nextFrequency f s.slots[i].dab.freqHz) ∧
       (∀ z, t.slots[i].dab.freqHz = some z → -30000 ≤ z ∧ z ≤ 30000) ∧
       t.slots[i].dab.prsFails = (if 120 ≤ f.prsPeak then 0 else s.slots[i].dab.prsFails + 1)))

/-- Changes of an ensemble's organisation (R257, R267 to R269): at the announced CIF each subchannel of the next
configuration that differs takes its place and the announcement is over; an entry seen in two frames without
announcement takes its place; a subchannel not seen for 10 s goes; a discontinuity starts every subchannel anew, and
with another EId drops the component map. No other slot changes. `DAB_LOGICAL_FRAME_COMPLETE` (R251, R253, R258 to
R264): the oldest logical frame of the subchannel that waits is decoded once the generation that its unit names is
readable. Of a LIVE slot it becomes a unit at the CIF where its de-interleaving began, bad when a bit came from an
erased CIF or from beyond a change; with the four before it at the alignment of a subchannel in sync, a superframe
with its Reed-Solomon counts does. In a state other than LIVE no unit is made. Model's choice, not the spec's: the
units of a subchannel (notes/assumptions/127.md). -/
def Obligations.DabMultiplex : Prop :=
  (∀ (i : Fin 48) (s : State), let d := s.slots[i].dab
     dabRuns s s.slots[i] = true →
     (∀ ts, occurrenceTs d = some ts → d.tracked = true → ts ≤ s.now → discDue s s.slots[i] = false → ∃ t,
       exec (.dabReconfiguration i) s = .next t ∧ (∀ k : Fin 48, k ≠ i → t.slots[k] = s.slots[k]) ∧
       t.slots[i].dab.reconfAt = none ∧ t.slots[i].dab.nextFigs = [] ∧ t.mem = s.mem ∧
       ∀ e ∈ nextOrgs ts d.nextFigs, (∀ o ∈ d.subchs, o.id = e.id → sameOrg o e = false) →
         ∃ u ∈ t.slots[i].dab.subchs, u.id = e.id ∧ sameOrg u e = true) ∧
     (∀ e n, (e, n) ∈ d.candidates → 2 ≤ n → (∀ o ∈ d.subchs, o.id = e.id → sameOrg o e = false) → ∃ t,
       exec (.dabUnannouncedChange i) s = .next t ∧ (∀ k : Fin 48, k ≠ i → t.slots[k] = s.slots[k]) ∧ t.mem = s.mem ∧
       (∃ u ∈ t.slots[i].dab.subchs, u.id = e.id ∧ sameOrg u e = true) ∧
       (∀ c ∈ t.slots[i].dab.candidates, c.2 < 2)) ∧
     (∀ u ∈ d.subchs, u.lastSeen + 245760000 ≤ s.now → ∃ t,
       exec (.dabSubchAbsent i u.id) s = .next t ∧ (∀ k : Fin 48, k ≠ i → t.slots[k] = s.slots[k]) ∧ t.mem = s.mem ∧
       (∀ o ∈ t.slots[i].dab.subchs, o.id ≠ u.id) ∧ (∀ c ∈ t.slots[i].dab.comps, c.subch ≠ some u.id)) ∧
     (discDue s s.slots[i] = true → ∃ t, exec (.dabDiscontinuity i) s = .next t ∧
       (∀ k : Fin 48, k ≠ i → t.slots[k] = s.slots[k]) ∧ t.mem = s.mem ∧ t.slots[i].dab.reconfAt = none ∧
       t.slots[i].dab.discDue = false ∧ t.slots[i].dab.eidNew = none ∧ (∀ u ∈ t.slots[i].dab.subchs, u.first = true) ∧
       t.slots[i].dab.subchs.map (·.id) = d.subchs.map (·.id) ∧ (d.eidNew = none → t.slots[i].dab.comps = d.comps) ∧
       (∀ e n, d.eidNew = some (e, n) → 2 ≤ n → d.eid ≠ some e → t.slots[i].dab.eid = some e ∧ t.slots[i].dab.comps = []))) ∧
  (∀ (i : Fin 48) (id : Nat) (s : State), let d := s.slots[i].dab
     (nextReady d id = none → exec (.dabLogicalFrameComplete i id) s = .next s) ∧
     (∀ (r : ReadyFrame) (u : SubCh), nextReady d id = some (r, some u) → dabRuns s s.slots[i] = true →
       let m := (decodeReady u r).1
       let fs := keepLast 5 (u.frames ++ [m])
       let sf := superframeOf (u.bitrate / 8) fs
       let u2 := superframeSync (firePasses sf.1) (fs.headD m).count { u with frames := fs }
       (generationReadable d r.ts = false → exec (.dabLogicalFrameComplete i id) s = .next s) ∧
       (generationReadable d r.ts = true → ∃ t, exec (.dabLogicalFrameComplete i id) s = .next t ∧
         (∀ k : Fin 48, k ≠ i → t.slots[k] = s.slots[k]) ∧ t.mem = s.mem ∧ t.evq = s.evq ∧
         (isRemote s = false → onlySlot s t i) ∧ t.slots[i].state = s.slots[i].state ∧
         t.slots[i].dab.ready = d.ready.erase r ∧
         (s.slots[i].state = .live → u.kind ≠ 1 → ∃ w ∈ t.slots[i].dab.units, w.header.subch = u.id ∧
           w.header.timestamp = r.ts ∧ w.header.cifCount = r.count ∧ w.payload.length = unitLength u ∧
           w.header.flags.getLsbD 0 = (r.erased || r.crossed)) ∧
         (u.kind = 1 → fs.length = 5 → (u.synced = true → (fs.headD m).count % 5 = u.align) → (u.synced || u2.synced) = true →
           t.slots[i].dab.rsCorrected = bump d.rsCorrected sf.2.1 ∧ t.slots[i].dab.rsFailed = bump d.rsFailed sf.2.2.length ∧
           (s.slots[i].state = .live → u2.synced = true → ∃ w ∈ t.slots[i].dab.units, w.header.subch = u.id ∧
             w.header.timestamp = (fs.headD m).ts ∧ w.payload = sf.1)) ∧
         (s.slots[i].state ≠ .live → t.slots[i].dab.units = d.units))))

/-! ### RDS, PAD, the database and the census (R271 to R311) -/

/-- RDS blocks and groups (R273, R276 to R278) of a slot whose subcarrier is held: while synchronised a block with a
non-zero syndrome joins the group being received, and one of offset E changes nothing; before that, a third block in a
row with the next offset acquires synchronisation; a group of four without its block 2 is discarded, and counted when
its block 1 formed it; one of a slot that is not LIVE is discarded; no other slot changes. PAD (R285 to R290): a data
group of a selected running output with a failed CRC is counted and changes nothing else; a MOT directory is counted;
a label of one segment is in force; a DL remove command empties the label; an object not complete after 120 s is
abandoned and counted. Model's choice, not the spec's: a row that is not due changes nothing (notes/assumptions/9.md);
the RDS code (notes/assumptions/14.md). -/
def Obligations.RdsAndPad : Prop :=
  ((∀ (i : Fin 48) (bits : BitVec 26) (ts : Nat) (c : Int) (s : State), let r := s.slots[i].rds
     (isLocal s = true ∨ isFm s.slots[i].tune.type = false ∨ s.slots[i].state = .free ∨ s.slots[i].state = .linkLost ∨
       rdsCarrierHeld s.slots[i] c = false → exec (.rdsBlock i bits ts c) s = .next s) ∧
     (isLocal s = false → isFm s.slots[i].tune.type = true → s.slots[i].state ≠ .free → s.slots[i].state ≠ .linkLost →
       rdsCarrierHeld s.slots[i] c = true → r.group.length < 4 → ∃ t, exec (.rdsBlock i bits ts c) s = .next t ∧
       onlySlot s t i ∧
       (r.synced = false → blockPosition bits = none → t.slots[i].rds = r) ∧
       (∀ k, r.synced = false → blockPosition bits = some k →
         ((seekRuns ts k r.acquire).1 < 3 → t.slots[i].rds = { r with acquire := (seekRuns ts k r.acquire).2 }) ∧
         (3 ≤ (seekRuns ts k r.acquire).1 → t.slots[i].rds.synced = true ∧ t.slots[i].rds.group.length = k + 1 ∧
           t.slots[i].rds.groupTs = ts - rdsBlockTicks k)) ∧
       (r.synced = true → rdsRemainder bits = 0 → t.slots[i].rds = r) ∧
       (r.synced = true → rdsRemainder bits ≠ 0 → ∃ b, (r.group ++ [b]) <+: t.slots[i].rds.group ∧
         t.slots[i].rds.groupTs = (if r.group = [] then ts else r.groupTs)))) ∧
   (∀ (i : Fin 48) (s : State), s.slots[i].rds.group.length < 4 → exec (.rdsGroup i) s = .next s) ∧
   (∀ (i : Fin 48) (s : State) (b : RdsBlock), 4 ≤ s.slots[i].rds.group.length → s.slots[i].rds.group[1]? = some b →
     (5 < b.status.toNat → ∃ t, exec (.rdsGroup i) s = .next t ∧ onlySlot s t i ∧
       t.slots[i].rds = { s.slots[i].rds with group := [], groupsLost :=
         if (s.slots[i].rds.group.getD 0 notReceived).status.toNat ≤ 5 then s.slots[i].rds.groupsLost + 1
         else s.slots[i].rds.groupsLost }) ∧
     (b.status.toNat ≤ 5 → s.slots[i].state ≠ .live → ∃ t, exec (.rdsGroup i) s = .next t ∧ onlySlot s t i ∧
       t.slots[i].rds = { s.slots[i].rds with group := [] }) ∧
     (b.status.toNat ≤ 5 → s.slots[i].state = .live → ∃ t, exec (.rdsGroup i) s = .next t ∧ t.slots[i].rds.group = [] ∧
       (∀ k : Fin 48, k ≠ i → t.slots[k] = s.slots[k]) ∧ t.mem = s.mem ∧ t.slots[i].state = .live))) ∧
  ((∀ (o : Fin 8) (g : PadGroup) (s : State), (sideAt s g.ts).padOutputs.getLsbD o.val = true → s.outs[o].state = .running →
     g.legB = s.follow[o].activeB → g.fromStore = s.outs[o].cfg.cursor → g.frameBad = false →
     (g.crcOk = false → exec (.padDataGroup o g) s
       = .next { s with side := { s.side with padDgFailed := s.side.padDgFailed + 1 } }) ∧
     (g.crcOk = true → g.content = .motDirectory → ∃ t, exec (.padDataGroup o g) s = .next t ∧
       t.side.pad[o].directory = s.side.pad[o].directory + 1 ∧ (∀ k : Fin 8, k ≠ o → t.side.pad[k] = s.side.pad[k]) ∧
       t.mem = s.mem ∧ t.outs = s.outs) ∧
     (∀ toggle, g.crcOk = true → g.content = .dlRemove toggle → ∃ t, exec (.padDataGroup o g) s = .next t ∧
       t.side.pad[o].label = some (toggle, []) ∧ t.side.pad[o].dlText = [] ∧ t.mem = s.mem ∧ t.outs = s.outs) ∧
     (∀ toggle number charset text, g.crcOk = true → g.content = .dlSegment true true toggle number charset text →
       text.length ≤ 128 → ∃ t, exec (.padDataGroup o g) s = .next t ∧ t.side.pad[o].label = some (toggle, text) ∧
       t.mem = s.mem ∧ t.outs = s.outs)) ∧
   (∀ (o : Fin 8) (g : PadGroup) (s : State), g.frameBad = true → exec (.padDataGroup o g) s = .next s) ∧
   (∀ (o : Fin 8) (id : Nat) (s : State), s.side.pad[o].motId = some id → s.side.pad[o].motFrom + 120 * 24576000 ≤ s.now →
     ∃ t, exec (.motTimeout o) s = .next t ∧ t.side.pad[o].motId = none ∧ t.side.motAbandoned = s.side.motAbandoned + 1 ∧
       (∀ k : Fin 8, k ≠ o → t.side.pad[k] = s.side.pad[k]) ∧ t.db = s.db ∧ t.mem = s.mem))

/-- The database rows (R257, R289, R300, R301, R308): on a boundary that has come, a due change of RDS, of a FIC or of
a label makes every due change apply, so that none is left waiting; a record past its expiry goes; off a boundary
nothing changes; a generation step that no event has reported within `db_event_ms` is reported. The census (R303 to
R305): on a boundary where a visit is wanted, its frequency is no host slot's, a number is free and the load fits, the
highest free slot number becomes a visit in ACQUIRING; a visit that is over frees its slot and is dropped from the
visits; neither posts an event. Model's choice, not the spec's: a row that is not due changes nothing
(notes/assumptions/9.md); the number a visit takes (notes/assumptions/30.md); rows at a boundary
(notes/assumptions/56.md). -/
def Obligations.DatabaseAndCensus : Prop :=
  ((∀ (s : State) (c : DbChange) (i : Instr), atBoundary s = true → c ∈ s.db.pending → c.due ≤ s.latch.stroke →
     ((c.source = 0 ∧ i = .dbRdsApply) ∨ (c.source = 1 ∧ i = .dbFicApply) ∨
       (∃ o : Fin 8, c.source = 2 ∧ c.key = .service true (heardComponent s o).1 0 ∧ i = .dbDlApply o)) →
     ∃ t, exec i s = .next t ∧ (∀ e, e ∈ t.db.pending ↔ e ∈ s.db.pending ∧ s.latch.stroke < e.due) ∧
       t.slots = s.slots ∧ t.mem = s.mem) ∧
   (∀ (s : State) (r : DbRec), atBoundary s = true → s.db.pending = [] → r ∈ s.db.recs →
     (∀ q ∈ s.db.recs, q.index = r.index → q = r) → r.body ≠ .free → pinnedNow s (relink s.db.recs) r = false →
     s.side.cfg.expiryS ≠ 0 → r.confirmed + s.side.cfg.expiryS * 24576000 < s.latch.stroke * 24576 → r.pinned = false →
     ∃ t, exec (.dbRecordExpiry r.index) s = .next t ∧ t.slots = s.slots ∧ t.mem = s.mem ∧
       ∀ q ∈ t.db.recs, q.index = r.index → q.body = .free) ∧
   (∀ (s : State) (i : Instr), atBoundary s = false → (i = .dbRdsApply ∨ i = .dbFicApply ∨ i = .dbGenerationEvent ∨
     (∃ o, i = .dbDlApply o) ∨ (∃ k, i = .dbRecordExpiry k)) → exec i s = .next s) ∧
   (∀ s : State, atBoundary s = true → generationDue s = true → ∃ t e, exec .dbGenerationEvent s = .next t ∧
     t.evq = s.evq ++ [e] ∧ e.code = 5 ∧ e.timestamp = s.latch.stroke * 24576 ∧
     e.payload.take 8 = u32 s.db.generation.toNat ++ u32 s.db.stepsSince ∧ t.db.stepsSince = 0 ∧ t.db.recs = s.db.recs)) ∧
  ((∀ (s : State) (i : Fin 48), atBoundary s = true → visitWanted s = true → visitNumber s = some i →
     skipEntry s (planEntry s.census.cfg s.census.planPos) = false → 0 < planLength s.census.cfg →
     visitsFit (beginVisit i (planEntry s.census.cfg s.census.planPos) s) = true →
     ∃ t, exec .censusVisitStart s = .next t ∧ t.slots[i].visit = true ∧ t.slots[i].state = .acquiring ∧
       (∀ k : Fin 48, k ≠ i → t.slots[k] = s.slots[k]) ∧ t.census.visits.length = s.census.visits.length + 1 ∧
       t.evq = s.evq ∧ t.mem = s.mem ∧ t.counters = s.counters) ∧
   (∀ (s : State) (i : Fin 48), atBoundary s = true → visitEndDue s i = true → ∃ t,
     exec (.censusVisitEnd i) s = .next t ∧ t.slots[i].state = .free ∧ t.slots[i].visit = false ∧
     (∀ v ∈ t.census.visits, v.slot ≠ i.val) ∧ (∀ k : Fin 48, k ≠ i → t.slots[k] = s.slots[k]) ∧ t.evq = s.evq ∧
     t.mem = s.mem) ∧
   (∀ (s : State) (i : Fin 48), atBoundary s = false →
     exec .censusVisitStart s = .next s ∧ exec (.censusVisitEnd i) s = .next s))

/-- Snapshots (R309, R310): `DB_SNAPSHOT_OPEN` fixes the generation in the first free place, and with none free ends
with `ST_NO_RESOURCE`; a read of an open snapshot returns the record's 256 bytes as it stood; closing frees the place;
`DB_STREAM` maps the bulk window unless one is mapped; a snapshot that is not open is `ST_BAD_STATE`. -/
def Obligations.Snapshots : Prop :=
  (∀ (ch : Fin 4) (s : State), serves s ch 0x0501 .immediate → (reqOf s ch).length = 0 → wet s ch →
    (∀ k : Fin 2, s.db.snaps[k] = none → (k = 1 → s.db.snaps[0] ≠ none) →
      exec (.dbSnapshotOpen ch) s = .next (respond ch .ok (u8 (k.val + 1) ++ zeros 3 ++ u32 s.db.generation.toNat)
        { takeOut s ch with db := { s.db with snaps := s.db.snaps.set k (some ⟨s.db.generation, false⟩) } })) ∧
    (s.db.snaps[0] ≠ none → s.db.snaps[1] ≠ none →
      exec (.dbSnapshotOpen ch) s = .next (respond ch .noResource [] (takeOut s ch)))) ∧
  (∀ (ch : Fin 4) (k : Fin 2) (n : Nat) (s : State), serves s ch 0x0503 .read → parseDbRead (body s ch) = some (k, n) →
    (snapStatus s.db k = none → ∃ b, exec (.dbRead ch) s = .next (respond ch .ok b (takeOut s ch)) ∧
      b = dbBytes (snapRec s.db k n)) ∧
    (s.db.snaps[k] = none → exec (.dbRead ch) s = .next (respond ch .badState [] (takeOut s ch)))) ∧
  (∀ (ch : Fin 4) (k : Fin 2) (s : State), serves s ch 0x0502 .immediate → body s ch = [BitVec.ofNat 8 (k.val + 1)] → wet s ch →
    (s.db.snaps[k] ≠ none → ∃ t, exec (.dbSnapshotClose ch) s = .next (respond ch .ok [] t) ∧ t.db.snaps = s.db.snaps.set k none ∧
      t.db.recs = s.db.recs ∧ t.mem = s.mem ∧ t.bulk = s.bulk) ∧
    (s.db.snaps[k] = none → exec (.dbSnapshotClose ch) s = .next (respond ch .badState [] (takeOut s ch)))) ∧
  (∀ (ch : Fin 4) (k : Fin 2) (mask start : Nat) (since : Word) (s : State), serves s ch 0x0504 .read →
    parseDbChanges (body s ch) = some (k, mask, start, since) → snapStatus s.db k = none →
    ∃ p, exec (.dbChanges ch) s = .next (respond ch .ok p (takeOut s ch)) ∧ p.length ≤ 484 ∧ 4 ≤ p.length) ∧
  (∀ (ch : Fin 4) (k : Fin 2) (s : State), serves s ch 0x0505 .immediate → body s ch = [BitVec.ofNat 8 (k.val + 1)] → wet s ch →
    (s.bulk.mapped ≠ none → exec (.dbStream ch) s = .next (respond ch .busy [] (takeOut s ch))) ∧
    (s.bulk.mapped = none → snapStatus s.db k = none → ∃ t, exec (.dbStream ch) s = .next (respond ch .ok [] t) ∧
      t.bulk.mapped = some .dbStream ∧ t.bulk.hostOwned = 0 ∧ t.bulk.hostToDev = false ∧ t.mem = s.mem))

/-! ### Following (R312 to R336) -/

/-- The lag of a standby (R321 to R323): a measurement of the histories of two legs ends every 250 ms; a void one is
not counted, and the result of another waits for the first boundary at least 2 ms later; three results that agree lock
the lag at the newest, or exceed 3.0 s; one that has moved by more than 5 ms searches again; 20 s of SEARCHING lead to
NOT_FOUND. The standby, its delay and its trim (R320, R324, R325): a replacement that is due takes the best other
candidate and searches its lag anew; a walk that has reached its delay leaves the standby with none to wait for; a
level window over two audible legs sets the standby's trim within 12.00 dB, and over a silent one leaves it. Model's
choice, not the spec's: when measurements start (notes/assumptions/27.md). -/
def Obligations.FollowerLagAndStandby : Prop :=
  (∀ (o : Fin 8) (s : State), let f := s.follow[o]
     f.state ≠ .off → twoLegs f = true →
     (f.lastMeasure + 6144000 ≤ s.now → ∃ t, exec (.lagMeasurement o) s = .next t ∧ onlyFollower s t o ∧
       t.follow[o] = { f with
         lastMeasure := s.now - (s.now - f.lastMeasure) % 6144000
         lagDue := match (if lagVoid s o then none else measureLag s.audio[o].legA s.audio[o].legB) with
           | some r => some (strokeFrom (s.now + 49152), r)
           | none => f.lagDue }) ∧
     (s.now < f.lastMeasure + 6144000 → exec (.lagMeasurement o) s = .next s) ∧
     (∀ n r, f.lagDue = some (n, r) → n ≤ curStroke s → atBoundary s = true → ∃ t, exec (.lagResult o) s = .next t ∧
       (∀ k : Fin 8, k ≠ o → t.follow[k] = s.follow[k]) ∧ t.slots = s.slots ∧ t.outs = s.outs ∧ t.mem = s.mem ∧
       t.follow[o].lagDue = none ∧ t.follow[o].corr = r.corr ∧
       (f.lag = .searching → f.cfg.corrLock ≤ r.corr → 2 ≤ f.agreeing.length →
         (∀ v ∈ f.agreeing, (v - r.lag).natAbs ≤ 24576) →
         t.follow[o].lagTicks = some r.lag ∧ t.follow[o].lag = (if r.lag.natAbs ≤ 73728000 then .locked else .exceeded)) ∧
       (∀ v, f.lag = .locked → f.lagTicks = some v → 122880 < (v - r.lag).natAbs → t.follow[o].lag = .searching)) ∧
     (f.lag = .searching → f.searchFrom + 20000 ≤ curStroke s → atBoundary s = true → ∃ t,
       exec (.lagNotFound o) s = .next t ∧ t.follow[o].lag = .notFound ∧
       (∀ k : Fin 8, k ≠ o → t.follow[k] = s.follow[k]) ∧ t.slots = s.slots ∧ t.outs = s.outs ∧ t.mem = s.mem)) ∧
  (∀ (o : Fin 8) (s : State), let f := s.follow[o]
     atBoundary s = true → f.state ≠ .off → f.state ≠ .fading → f.state ≠ .dip →
     (∀ k r, f.cfg.mode = 2 → replaceDue s f = true →
       bestCandidate s f ((candidates s f).filter fun e => e.1 != standbyLeg f) = some (k, r) →
       ∃ t, exec (.followStandbyReplace o) s = .next t ∧ standbyLeg t.follow[o] = k ∧ activeLeg t.follow[o] = activeLeg f ∧
         t.follow[o].bMatch = r ∧ t.follow[o].lag = .searching ∧ t.follow[o].trimSet = false ∧
         (∀ j : Fin 8, j ≠ o → t.follow[j] = s.follow[j]) ∧ t.slots = s.slots ∧ t.outs = s.outs ∧ t.mem = s.mem) ∧
     (f.need = some (delayOf f f.activeB) → standbyLag f = some (delayOf f f.activeB : Int) → delayOf f f.activeB ≤ delayCap →
       ∃ t, exec (.delayWalkDone o) s = .next t ∧ t.follow[o].need = none ∧
         delayOf t.follow[o] f.activeB = delayOf f f.activeB ∧
         (f.lag = .locked → twoLegs f = true → delayOf t.follow[o] (!f.activeB) = 0) ∧
         (∀ j : Fin 8, j ≠ o → t.follow[j] = s.follow[j]) ∧ t.slots = s.slots ∧ t.outs = s.outs ∧ t.mem = s.mem) ∧
     (levelWindowDue s f = true → ∃ t, exec (.levelWindowEnd o) s = .next t ∧
       t.follow[o].levelFrom = some (curStroke s) ∧ trimOf t.follow[o] f.activeB = trimOf f f.activeB ∧
       (legLevels s o f.cfg.levelWindowMs = none → trimOf t.follow[o] (!f.activeB) = trimOf f (!f.activeB)) ∧
       (∀ ra rb : Int, legLevels s o f.cfg.levelWindowMs = some (ra, rb) →
         (ra < -5000 ∨ rb < -5000 → trimOf t.follow[o] (!f.activeB) = trimOf f (!f.activeB)) ∧
         (-5000 ≤ ra → -5000 ≤ rb → t.follow[o].trimSet = true ∧
           trimOf t.follow[o] (!f.activeB) = clampInt (-720000) 720000
             ((roundDiv (trimOf f f.activeB) 600 + (if f.activeB then rb - ra else ra - rb)) * 600))) ∧
       (∀ j : Fin 8, j ≠ o → t.follow[j] = s.follow[j]) ∧ t.slots = s.slots ∧ t.outs = s.outs ∧ t.mem = s.mem))

/-- Fades and dips (R324, R328, R331, R332, R334): a fade decided on an earlier boundary enters FADING, with its two
events; at its end the incoming leg is active; a dip enters DIP with the delays as they were, and leaves it with the
active delay it was decided for; a `mode` off of the meantime then ends following, and a `FOLLOW_SET` held till then
applies. `FOLLOW_SWITCH` (R333): busy in a fade or dip, and refused with no standby or, unless `unaligned`, with one
that is not ready; else it waits for its boundary, where the fade to the other leg is decided and answered with its
start. Model's choice, not the spec's: the order of switching rules (notes/assumptions/26.md); the lag of an event
(notes/assumptions/29.md). -/
def Obligations.FollowerFadesAndSwitch : Prop :=
  (∀ (o : Fin 8) (s : State) (w : Fade), let f := s.follow[o]
     atBoundary s = true → f.fade = some w →
     (w.dip = false → w.decided + 1 ≤ curStroke s → f.state ≠ .off → f.state ≠ .fading → ∃ t e₁ e₂,
       exec (.followFadeStart o) s = .next t ∧ t.follow = s.follow.set o { f with state := .fading } ∧
       t.evq = s.evq ++ [e₁, e₂] ∧ e₁.code = 9 ∧ e₂.code = 10 ∧ e₂.object = BitVec.ofNat 16 o.val ∧
       e₂.payload.take 2 = u8 0 ++ u8 w.reason ∧ t.slots = s.slots ∧ t.outs = s.outs ∧ t.mem = s.mem) ∧
     (w.dip = false → w.leave ≤ curStroke s → f.state = .fading → ∃ t,
       exec (.followFadeEnd o) s = .next t ∧ (∀ k : Fin 8, k ≠ o → t.follow[k] = s.follow[k]) ∧ t.mem = s.mem ∧
       t.follow[o].heldSet = none ∧ (∀ c, f.heldSet = some c → t.follow[o].cfg = c) ∧
       (f.heldSet = none → w.stopAfter = true → t.follow[o].state = .off) ∧
       (f.heldSet = none → w.stopAfter = false → t.follow[o].activeB = w.toB ∧ t.follow[o].onLegFrom = curStroke s ∧
         t.follow[o].lastFade = some w ∧ t.follow[o].state ≠ .fading ∧ t.follow[o].legA = f.legA ∧
         t.follow[o].legB = f.legB ∧ t.slots = s.slots ∧ t.outs = s.outs)) ∧
     (w.dip = true → w.decided + 1 ≤ curStroke s → f.state ≠ .off → f.state ≠ .dip → ∃ t e,
       exec (.followDipStart o) s = .next t ∧ t.follow[o].state = .dip ∧
       (s.now < w.mid → t.follow = s.follow.set o { f with state := .dip }) ∧
       t.evq = s.evq ++ [e] ∧ e.code = 9 ∧ t.slots = s.slots ∧ t.outs = s.outs ∧ t.mem = s.mem) ∧
     (w.dip = true → w.leave ≤ curStroke s → f.state = .dip → ∃ t,
       exec (.followDipEnd o) s = .next t ∧ (∀ k : Fin 8, k ≠ o → t.follow[k] = s.follow[k]) ∧ t.mem = s.mem ∧
       t.follow[o].heldSet = none ∧ (∀ c, f.heldSet = some c → t.follow[o].cfg = c) ∧
       (f.heldSet = none → w.stopAfter = true → t.follow[o].state = .off) ∧
       (f.heldSet = none → w.stopAfter = false → t.follow[o].state ≠ .dip ∧ t.follow[o].activeB = f.activeB ∧
         delayOf t.follow[o] f.activeB = (if w.dipped then delayOf f f.activeB else w.newActive) ∧
         t.follow[o].lastFade.isSome = true ∧ t.slots = s.slots ∧ t.outs = s.outs))) ∧
  ((∀ (ch : Fin 4) (o : Fin 8) (un : Bool) (s : State), serves s ch 0x0602 .long →
     parseFollowSwitch (body s ch) = some (o, un) → let f := s.follow[o]
     (f.state = .fading ∨ f.state = .dip ∨ f.fade.isSome = true →
       exec (.followSwitch ch) s = .next (respond ch .busy [] (takeOut s ch))) ∧
     (f.state ≠ .fading → f.state ≠ .dip → f.fade = none →
       (f.state = .off ∨ twoLegs f = false ∨ (followReady s f = false ∧ un = false) →
         exec (.followSwitch ch) s = .next (respond ch .badState [] (takeOut s ch))) ∧
       (f.state ≠ .off → twoLegs f = true → (followReady s f = true ∨ un = true) → wet s ch →
         exec (.followSwitch ch) s
           = .next (keepsOp ch ⟨.followSwitch o un (strokeFrom (s.now + 6144)), false, s.now⟩ (takeOut s ch))))) ∧
   (∀ (ch : Fin 4) (o : Fin 8) (un committed : Bool) (n since : Nat) (s : State), let f := s.follow[o]
     opOf s ch = some ⟨.followSwitch o un n, committed, since⟩ →
     (s.now < n * 24576 ∨ atBoundary s = false → exec (.followSwitchDecision ch) s = .next s) ∧
     (n * 24576 ≤ s.now → atBoundary s = true →
       (abortLanded s ch = true → exec (.followSwitchDecision ch) s = .next (respond ch .aborted [] s)) ∧
       (abortLanded s ch = false →
         (f.state = .off ∨ twoLegs f = false ∨ f.fade.isSome = true ∨ (followReady s f = false ∧ un = false) →
           exec (.followSwitchDecision ch) s = .next (respond ch .badState [] s)) ∧
         (f.state ≠ .off → twoLegs f = true → f.fade = none → (followReady s f = true ∨ un = true) → ∃ t w,
           exec (.followSwitchDecision ch) s = .next (respond ch .ok (u64 w.start) t) ∧
           t = { s with
             follow := s.follow.set o { f with switches := bump f.switches 1, fade := some w }
             trace := { s.trace with happened := t.trace.happened } } ∧
           w.dip = false ∧ w.reason = 4 ∧ w.toB = !f.activeB ∧ w.decided = curStroke s ∧
           w.unaligned = !followReady s f)))))

/-! ### Ports and outputs (R24, R266, R345 to R364) -/

/-- The clock of a port in target mode (R349, R352): 100 ms after STARTING it enters RUN after 100 ms of good frames
with the rate error within 500 ppm, and CLOCK_ERROR otherwise; in RUN two bad frames, no FSYNC for four frames or a
rate error beyond 500 ppm lead to CLOCK_ERROR, and its settling and running outputs to CLOCK_HOLD, or to STOPPED when
a stop was fading; FSYNC resuming leads back to STARTING. A frame of a port (R23, R24, R346 to R349): in RUN the
oldest frame of AUDQ leaves with its words and the frames that the resamplers bring by the occupancy before it enter
behind the others, at most 32 in all; with AUDQ empty the frame is zeros, the port fills up to 16 before it goes on,
and each of its running outputs counts one underrun; outside RUN the frame is zeros; an OFF port has none. In target
mode the edges of the last 1.024 s give the rate error, one bad frame is counted, and a second in a row or a rate
error beyond 500 ppm leads to CLOCK_ERROR. Model's choice, not the spec's: a row that is not due changes nothing
(notes/assumptions/9.md); the codecs are operands (notes/assumptions/15.md); the servo of AUDQ
(notes/assumptions/96.md); the first FSYNC edges (notes/assumptions/131.md). -/
def Obligations.Ports : Prop :=
  (∀ (p : Fin 2) (s : State), let x := s.ports[p]
     (x.state = .starting → x.cfg.target = true → x.since + 2457600 ≤ s.now →
       (∀ g, x.goodFrom = some g → g + 2457600 ≤ s.now → -500000 ≤ x.eps → x.eps ≤ 500000 → ∃ t,
         exec (.portTargetLock p) s = .next t ∧ t.ports[p].state = .run ∧ t.ports[p].eps = x.eps ∧
         (∀ k : Fin 2, k ≠ p → t.ports[k] = s.ports[k]) ∧ t.slots = s.slots ∧ t.follow = s.follow ∧ t.mem = s.mem) ∧
       (x.goodFrom = none ∨ x.eps < -500000 ∨ 500000 < x.eps → ∃ t,
         exec (.portTargetLock p) s = .next t ∧ t.ports[p].state = .clockError ∧
         (∀ k : Fin 2, k ≠ p → t.ports[k] = s.ports[k]) ∧ t.slots = s.slots ∧ t.follow = s.follow ∧ t.mem = s.mem)) ∧
     (∀ cause, x.cfg.target = true → x.state = .run →
       (cause = .badFrames ∨ (cause = .noFsync ∧ x.lastFsync + fourFrames s p ≤ s.now) ∨
         (cause = .rateError ∧ (x.eps < -500000 ∨ 500000 < x.eps))) → ∃ t,
       exec (.portClockError p cause) s = .next t ∧ t.ports[p].state = .clockError ∧
       (∀ o : Fin 8, s.outs[o].cfg.port = p → (s.outs[o].state = .settling ∨ s.outs[o].state = .running) →
         t.outs[o].state = if s.outs[o].stopAt.isSome then .stopped else .clockHold) ∧
       (∀ o : Fin 8, s.outs[o].cfg.port ≠ p → t.outs[o] = s.outs[o]) ∧
       (∀ k : Fin 2, k ≠ p → t.ports[k] = s.ports[k]) ∧ t.slots = s.slots ∧ t.follow = s.follow ∧ t.mem = s.mem) ∧
     (x.state = .clockError → ∃ t, exec (.portFsyncResume p) s = .next t ∧ t.ports[p].state = .starting ∧
       t.ports[p].since = s.now ∧ t.outs = s.outs ∧ (∀ k : Fin 2, k ≠ p → t.ports[k] = s.ports[k]) ∧ t.mem = s.mem) ∧
     (x.cfg.target = true → x.state = .starting → ∀ cause, exec (.portClockError p cause) s
       = .next { s with ports := s.ports.set p { x with goodFrom := none } }) ∧
     (x.state = .off ∨ x.state = .clockError ∨ x.cfg.target = false → ∀ cause, exec (.portClockError p cause) s = .next s) ∧
     (x.state ≠ .starting ∨ x.cfg.target = false ∨ s.now < x.since + 2457600 → exec (.portTargetLock p) s = .next s) ∧
     (x.state ≠ .clockError → exec (.portFsyncResume p) s = .next s)) ∧
  (∀ (p : Fin 2) (b : Nat) (s : State), let x := s.ports[p]
     let eps := (takeEdge s.now x).eps
     (x.state = .off ∨ frameBegun s p = false → exec (.tdmFrame p b) s = .next s) ∧
     (x.state ≠ .off → frameBegun s p = true → x.state ≠ .run → ∃ t, exec (.tdmFrame p b) s = .next t ∧
       t.ports[p].words = List.replicate x.cfg.slots 0 ∧ t.ports[p].state = x.state ∧
       t.ports[p].eps = (if x.cfg.target then eps else 0) ∧ t.outs = s.outs ∧ t.mem = s.mem) ∧
     (x.state = .run → frameBegun s p = true → x.cfg.target = true →
       (b ≠ x.cfg.slots * 32 → ∃ t, exec (.tdmFrame p b) s = .next t ∧
         t.counters.portBadFrames[p] = bump s.counters.portBadFrames[p] 1 ∧
         (1 ≤ x.badRun → t.ports[p].state = .clockError) ∧
         (x.badRun = 0 → -500000 ≤ eps → eps ≤ 500000 → t.ports[p].state = .run ∧ t.ports[p].badRun = 1)) ∧
       (eps < -500000 ∨ 500000 < eps → ∃ t, exec (.tdmFrame p b) s = .next t ∧ t.ports[p].state = .clockError)) ∧
     (x.state = .run → frameBegun s p = true →
       x.cfg.target = false ∨ (b = x.cfg.slots * 32 ∧ -500000 ≤ eps ∧ eps ≤ 500000) → x.audq.length ≤ 32 →
       ∃ t, exec (.tdmFrame p b) s = .next t ∧ t.ports[p].state = .run ∧ t.ports[p].frames = x.frames + 1 ∧
         (∀ k : Fin 2, k ≠ p → t.ports[k] = s.ports[k]) ∧ t.slots = s.slots ∧ t.follow = s.follow ∧ t.mem = s.mem ∧
         (∀ q rest, x.refill = false → x.audq = q :: rest →
           t.ports[p].words.length = q.words.length ∧
           (∀ (k : Nat) (v : Word), q.words[k]? = some (none, v) → t.ports[p].words[k]? = some v) ∧
           t.ports[p].sent = q.info ∧ t.ports[p].audq.take rest.length = rest ∧
           t.ports[p].audq.length = min 32 (rest.length + (framesDue x).1) ∧
           t.ports[p].refill = false ∧ t.counters = s.counters) ∧
         (x.refill = true → t.ports[p].words = List.replicate x.cfg.slots 0 ∧
           t.ports[p].audq.length = min 32 (x.audq.length + (framesDue x).1) ∧
           t.ports[p].refill = decide (t.ports[p].audq.length < 16) ∧ t.counters = s.counters) ∧
         (x.refill = false → x.audq = [] → t.ports[p].words = List.replicate x.cfg.slots 0 ∧ t.ports[p].refill = true ∧
           (∀ o : Fin 8, t.outs[o].underruns
             = if s.outs[o].cfg.port = p ∧ s.outs[o].state = .running then bump s.outs[o].underruns 1
               else s.outs[o].underruns))))

/-- The boundary rows of an output (R352, R358, R364): the first valid sample having left, SETTLING leads to RUNNING;
the fade-out of a stop done, the output is STOPPED; a held swap exchanges the banks it names; each 1 ms of drift is
one slip of 1 ms of input, forward for a fast source and back for a slow one. Only that output changes, and each
change of state has its event. A decoded frame of a path (R266, R353): a gap in the timestamps before it and a frame
that is bad are concealed, and noted with the time; a good one is played and ends the run of concealed ones; a frame
of another rate restarts a settling or running output once what is before it has been played; without a path, or
stopped, nothing is decoded. Model's choice, not the spec's: a row that is not due changes nothing
(notes/assumptions/9.md); the codecs are operands (notes/assumptions/15.md); banks of a restart
(notes/assumptions/19.md); rows at a boundary (notes/assumptions/56.md); when a gap is concealed
(notes/assumptions/129.md). -/
def Obligations.Outputs : Prop :=
  (∀ (o : Fin 8) (s : State), let x := s.outs[o]
     (atBoundary s = true →
       (∀ v, x.state = .settling → x.firstValid = some v → v < s.now → ∃ t e, exec (.outSettled o) s = .next t ∧
         t.outs = s.outs.set o { x with state := .running } ∧ t.evq = s.evq ++ [e] ∧ e.code = 12 ∧
         e.payload.take 3 = [1, 2, 2] ∧ t.ports = s.ports ∧ t.follow = s.follow ∧ t.mem = s.mem) ∧
       (∀ n, x.stopAt = some n → n ≤ curStroke s → x.state = .running → ∃ t e, exec (.outFadeOutDone o) s = .next t ∧
         t.outs = s.outs.set o { x with state := .stopped, stopAt := none, oldPath := none } ∧
         t.evq = s.evq ++ [e] ∧ e.code = 12 ∧ e.payload.take 3 = [2, 0, 1] ∧ t.ports = s.ports ∧ t.follow = s.follow ∧
         t.mem = s.mem) ∧
       (∀ st lg, x.heldSwap = some (st, lg) → followBusy s o (curStroke s) = false → restartBusy s o = false → ∃ t,
         exec (.outHeldSwap o) s = .next t ∧ t.outs[o].heldSwap = none ∧ (∀ k : Fin 8, k ≠ o → t.outs[k] = s.outs[k]) ∧
         t.ports = s.ports ∧ t.follow = s.follow ∧ t.mem = s.mem ∧
         ∀ k ∈ swapBanks st lg, x.shadow[k] ≠ 0xFE → t.outs[o].shadow[k] = x.active[k] ∧
           (k ≠ 2 → k ≠ 3 → t.outs[o].active[k] = x.shadow[k]))) ∧
     (atBoundary s = false → ∀ i, i = .outSettled o ∨ i = .outFadeOutDone o ∨ i = .outHeldSwap o → exec i s = .next s) ∧
     let a := s.audio[o].legA
     let b := s.audio[o].legB
     (1000000000 ≤ a.drift.natAbs → b.drift.natAbs < 1000000000 → ∃ t, exec (.rsmSlip o) s = .next t ∧
       t.outs = s.outs.set o { x with slips := bump x.slips 1 } ∧ t.audio[o].legB = b ∧
       (∀ k : Fin 8, k ≠ o → t.audio[k] = s.audio[k]) ∧ t.audio[o].legA.drift.natAbs = a.drift.natAbs - 1000000000 ∧
       t.audio[o].legA.position
         = a.position.map (· + (if 0 ≤ a.drift then 1 else -1) * ((rsmInput a.rate / 1000 * unitOne : Nat) : Int))) ∧
     (a.drift.natAbs < 1000000000 → b.drift.natAbs < 1000000000 → exec (.rsmSlip o) s = .next s)) ∧
  (∀ (o : Fin 8) (k : PathSel) (r : DecodeRx) (s : State), let x := s.outs[o]
     let path := fun (t : State) => match k with | .a => t.audio[o].legA | .b => t.audio[o].legB | .old => t.audio[o].old
     (pathOf s o k = none ∨ x.state = .stopped ∨ x.state = .clockHold → exec (.outDecodeFrame o k r) s = .next s) ∧
     (∀ (p : LegPath) (src : PathSource) (f : SrcFrame), pathOf s o k = some (p, src) →
       x.state = .settling ∨ x.state = .running → takesSlotAudio s src = false → (src.cursor = true → cursorPlays s o = true) →
       nextFrameOf p.lastEnd ((readyFrames s o p.rate src).filter fun f => decide (p.takeFrom ≤ 25 * (f.finish : Int))) = some f →
       (∀ e, conceals s src = true → p.lastEnd = some e → e < f.ts → ∃ t, exec (.outDecodeFrame o k r) s = .next t ∧
         (path t).badRun = p.badRun + 1 ∧ (path t).concealAt = some s.now ∧ t.outs = s.outs ∧ t.follow = s.follow ∧
         t.slots = s.slots ∧ t.mem = s.mem ∧ (∀ j : Fin 8, j ≠ o → t.audio[j] = s.audio[j])) ∧
       (conceals s src = false ∨ (∀ e, p.lastEnd = some e → f.ts ≤ e) →
         (f.rate = p.rate ∨ k = .old → ∃ t, exec (.outDecodeFrame o k r) s = .next t ∧
           (path t).lastEnd = some f.finish ∧
           (conceals s src = true → f.bad = true ∨ r.crcBad = true →
             (path t).badRun = p.badRun + 1 ∧ (path t).concealAt = some s.now) ∧
           (conceals s src = false ∨ (f.bad = false ∧ r.crcBad = false) → (path t).badRun = 0 ∧
             (path t).concealAt = p.concealAt ∧ (path t).good = fitFrame f.n r.pcm) ∧
           t.outs = s.outs ∧ t.follow = s.follow ∧ t.slots = s.slots ∧ t.mem = s.mem ∧
           (∀ j : Fin 8, j ≠ o → t.audio[j] = s.audio[j])) ∧
         (f.rate ≠ p.rate → k ≠ .old →
           (lineEnds p s.now (arrivalOf s o src) = false → exec (.outDecodeFrame o k r) s = .next s) ∧
           (lineEnds p s.now (arrivalOf s o src) = true → (k == .b) = heardB s o → x.stopAt = none → ∃ t,
             exec (.outDecodeFrame o k r) s = .next t ∧
             t.outs[o].state = (if s.ports[x.cfg.port].state = .clockError then .clockHold else .settling) ∧
             (∀ j : Fin 8, j ≠ o → t.outs[j] = s.outs[j]) ∧ t.mem = s.mem)))))

/-! ### The store (R377 to R425) -/

/-- Formatting and mounting (R390, R418, R420): `STORE_FORMAT` is taken in UNMOUNTED, `STORE_MOUNT` also in QUENCHED,
each with PD6 on and no boot write; a format of media that identify erases every block from 2 upwards without a
factory mark and writes the system page of an empty volume of this unit, and of other media ends with
`ST_MEDIA_FAULT`; a mount reads the volume from the cells, and a volume of this unit ends in MOUNTED with every rec
stopped, another back in UNMOUNTED; an abort that landed before the first erase, or before MOUNTED, ends either. Loss
of power (R380, R417, R422): a low of less than 1 µs is ignored, and so is any low outside MOUNTED and MOUNTING; in
MOUNTED it starts Quench and abandons the erases in progress, in MOUNTING it ends the mount with `ST_MEDIA_FAULT`;
Quench done, the store is QUENCHED and WP_N low, unless a boot write holds it: every record that was in staging is on
the media and the last checkpoint is committed, or a program failed and all stands as it was. Model's choice, not the
spec's: a row that is not due changes nothing (notes/assumptions/9.md); power failure in a mount
(notes/assumptions/66.md); what a mount cannot check and how it goes on (notes/assumptions/132.md). -/
def Obligations.StoreStates : Prop :=
  ((∀ (ch : Fin 4) (s : State), serves s ch 0x0801 .long → (reqOf s ch).length = 0 →
     (s.store.state ≠ .unmounted ∨ pd6Ready s = false ∨ s.store.bootWriting = true →
       exec (.storeFormat ch) s = .next (respond ch .badState [] (takeOut s ch))) ∧
     (s.store.state = .unmounted → pd6Ready s = true → s.store.bootWriting = false → wet s ch → ∃ t,
       exec (.storeFormat ch) s = .next (keepsOp ch ⟨.storeFormat, false, s.now⟩ t) ∧ t.chan[ch] = .active ∧
       t.store.state = .formatting ∧ t.store.wpHigh = true ∧ t.media = s.media ∧ t.mem = s.mem ∧ t.slots = s.slots)) ∧
   (∀ (ch : Fin 4) (c : Bool) (n : Nat) (r : FormatRx) (s : State), opOf s ch = some ⟨.storeFormat, c, n⟩ →
     s.store.state = .formatting →
     (abortLanded s ch = true → r.erased = false → ∃ t, exec (.storeFormatDone ch r) s = .next (respond ch .aborted [] t) ∧
       t.store.state = .unmounted ∧ t.media = s.media) ∧
     (abortLanded s ch = false ∨ r.erased = true →
       (identify s.media = none → ∃ t, exec (.storeFormatDone ch r) s = .next (respond ch .mediaFault [] t) ∧
         t.store.state = .unmounted ∧ t.media = s.media) ∧
       (∀ g, identify s.media = some g → let v := newVolume s g r
         (systemRefused s.media g r = true ∨ 1536 < v.slag.length → ∃ t,
           exec (.storeFormatDone ch r) s = .next (respond ch .mediaFault [] t) ∧ t.store.state = .unmounted ∧
           t.media = formatErase s.media) ∧
         (systemRefused s.media g r = false → v.slag.length ≤ 1536 → ∃ t,
           exec (.storeFormatDone ch r) s
             = .next (respond ch (if abortLanded s ch then .alreadyDone else .ok) (u32 v.ringBlocks) t) ∧
           t.store.state = .unmounted ∧ t.media = firstSystem s.otp v r (formatErase s.media) ∧
           v.serial = s.otp.serial ∧ v.volumeId = r.volumeId ∧ v.slag = formatSlag s.media g r.eraseFails ∧ v.stream = [] ∧
           v.committed = none ∧
           (∀ x : NandPage, x.block < 2 → (x ∈ t.media.pages ↔ x ∈ s.media.pages)) ∧
           (∀ x ∈ t.media.pages, 4 ≤ x.block → factoryMarked s.media x.ce x.block = true))))) ∧
   (∀ (ch : Fin 4) (r : FormatRx) (s : State), formatsOn s ch = false ∨ s.store.state ≠ .formatting →
     exec (.storeFormatDone ch r) s = .next s) ∧
   (∀ (ch : Fin 4) (a : Nat × Nat × Nat) (s : State), serves s ch 0x0802 .long → parseMount (body s ch) = some a →
     ((s.store.state ≠ .unmounted ∧ s.store.state ≠ .quenched) ∨ pd6Ready s = false ∨ s.store.bootWriting = true →
       exec (.storeMount ch) s = .next (respond ch .badState [] (takeOut s ch))) ∧
     (s.store.state = .unmounted ∨ s.store.state = .quenched → pd6Ready s = true → s.store.bootWriting = false → wet s ch → ∃ t,
       exec (.storeMount ch) s = .next (keepsOp ch ⟨.storeMount a.1 a.2.1 a.2.2, false, s.now⟩ t) ∧ t.chan[ch] = .active ∧
       t.store.state = .mounting ∧ t.media = s.media ∧ t.mem = s.mem ∧ t.slots = s.slots)) ∧
   (∀ (ch : Fin 4) (wrong : List MediaError) (s : State), mountsOn s ch = false ∨ s.store.state ≠ .mounting →
     exec (.storeMountDone ch wrong) s = .next s) ∧
   (∀ (ch : Fin 4) (wrong : List MediaError) (s : State), mountsOn s ch = true → s.store.state = .mounting →
     (abortLanded s ch = true → ∃ t, exec (.storeMountDone ch wrong) s = .next (respond ch .aborted [] t) ∧
       t.store.state = .unmounted ∧ t.media = s.media) ∧
     (abortLanded s ch = false → match mountVolume s.otp s.media wrong with
       | .inl st => ∃ t, exec (.storeMountDone ch wrong) s = .next (respond ch st [] t) ∧
         t.store.state = .unmounted ∧ t.media = s.media
       | .inr v => let keys := keyBytes (storeKeys s.otp v.volumeId)
         let ring := mountRing keys s.media wrong v
         ∃ t, exec (.storeMountDone ch wrong) s = .next (respond ch .ok (u32 (ringBlocks ring) ++ u64 (lastCommit ring)) t) ∧
         t.store.state = .mounted ∧ t.store.keys = keys ∧
         (∀ r ∈ t.store.recs, r.recording = false) ∧ (∀ k : Fin 8, t.store.cursors[k].set = false)))) ∧
  ((∀ (n : Nat) (s : State), n < 1000 ∨ (s.store.state ≠ .mounted ∧ s.store.state ≠ .mounting) ∨
     (s.store.state = .mounted ∧ s.store.quenching = true) → exec (.pwrfailNFall n) s = .next s) ∧
   (∀ (n : Nat) (s : State), 1000 ≤ n → s.store.state = .mounted → s.store.quenching = false → ∃ t,
     exec (.pwrfailNFall n) s = .next t ∧ t.store.state = .mounted ∧ t.store.quenching = true ∧
     (∀ a ∈ t.store.arrays, a.kind ≠ .erase) ∧ t.media = s.media ∧ t.slots = s.slots ∧ t.mem = s.mem) ∧
   (∀ (n : Nat) (ch : Fin 4) (s : State), 1000 ≤ n → s.store.state = .mounting → mountsOn s ch = true →
     (∀ c : Fin 4, c ≠ ch → mountsOn s c = false) → ∃ t,
     exec (.pwrfailNFall n) s = .next (respond ch .mediaFault [] t) ∧ t.store.state = .unmounted ∧ t.media = s.media) ∧
   (∀ (pass : Bool) (s : State), s.store.state ≠ .mounted ∨ s.store.quenching = false → exec (.quenchDone pass) s = .next s) ∧
   (∀ (pass : Bool) (s : State), s.store.state = .mounted → s.store.quenching = true → ∃ t,
     exec (.quenchDone pass) s = .next t ∧ t.store.state = .quenched ∧ t.store.quenching = false ∧
     t.store.wpHigh = s.store.bootWriting ∧
     (pass = true → (∀ c, s.store.ckpts.getLast? = some c → t.store.vol.committed = some c) ∧
       (∀ x ∈ t.store.vol.stream, x.stage < s.store.stageNext → x.written = true)) ∧
     (pass = false → t.media = s.media ∧ t.store.vol = s.store.vol) ∧ (∀ r ∈ t.store.recs, r.recording = false) ∧
     t.store.quenchCount = (if pass then bump s.store.quenchCount 1 else s.store.quenchCount) ∧ t.slots = s.slots ∧ t.mem = s.mem))

/-- The boot area (R416): `STORE_BOOT_WRITE` maps the bulk window in the host-to-device direction and drives WP_N
high; with the whole image received, an authentic one is written to both copies, one that fails authentication to
neither; a copy 1 that fails leaves copy 0, and a copy 0 that fails leaves copy 1; an abort that landed before the
erase of block 0 ends the write with copy 0 as it was. -/
def Obligations.BootArea : Prop :=
  (∀ (ch : Fin 4) (n : Nat) (s : State), serves s ch 0x080C .long → parseBootWrite (body s ch) = some n →
    (s.bulk.mapped ≠ none ∨ s.store.bootWriting = true →
      exec (.storeBootWrite ch) s = .next (respond ch .busy [] (takeOut s ch))) ∧
    (s.bulk.mapped = none → s.store.bootWriting = false →
      (pd6Ready s = false ∨ s.store.state = .formatting ∨ s.store.state = .mounting →
        exec (.storeBootWrite ch) s = .next (respond ch .badState [] (takeOut s ch))) ∧
      (pd6Ready s = true → s.store.state ≠ .formatting → s.store.state ≠ .mounting → wet s ch → ∃ t,
        exec (.storeBootWrite ch) s = .next (keepsOp ch ⟨.bootWrite n [], false, s.now⟩ t) ∧ t.chan[ch] = .active ∧
        t.bulk.mapped = some .bootImage ∧ t.bulk.hostToDev = true ∧ t.bulk.hostOwned = 3 ∧ t.store.bootWriting = true ∧
        t.store.wpHigh = true ∧ t.media = s.media ∧ t.mem = s.mem))) ∧
  (∀ (ch : Fin 4) (n : Nat) (img : List Byte) (r : BootWriteRx) (s : State), bootWriteOf s ch = some (n, img) →
    (abortLanded s ch = true → ∀ b : Bool, r = .stopped b → ∃ t,
      exec (.storeBootWriteDone ch r) s = .next (respond ch .aborted [] t) ∧ t.store.bootWriting = false ∧
      t.media = (if b then writeBoot 1 img s.media else s.media)) ∧
    (r = .copy1Failed → abortLanded s ch = true ∨ (n ≤ img.length ∧ imageOk s.otp s.rom img = true ∧ s.media.ce0 ≠ none) → ∃ t,
      exec (.storeBootWriteDone ch r) s = .next (respond ch (if abortLanded s ch then .aborted else .mediaFault) [] t) ∧
      t.store.bootWriting = false ∧ t.media = writeBoot 1 [] s.media) ∧
    (abortLanded s ch = false ∨ r = .copy0Failed ∨ r = .written →
      (img.length < n → exec (.storeBootWriteDone ch r) s = .next s) ∧
      (n ≤ img.length → imageOk s.otp s.rom img = false → ∃ t,
        exec (.storeBootWriteDone ch r) s = .next (respond ch .authFail [] t) ∧ t.media = s.media ∧ t.store.bootWriting = false) ∧
      (n ≤ img.length → imageOk s.otp s.rom img = true → s.media.ce0 = none → ∃ t,
        exec (.storeBootWriteDone ch r) s = .next (respond ch .mediaFault [] t) ∧ t.media = s.media ∧
        t.store.bootWriting = false) ∧
      (n ≤ img.length → imageOk s.otp s.rom img = true → s.media.ce0 ≠ none →
        (r = .written → ∃ t, exec (.storeBootWriteDone ch r) s
            = .next (respond ch (if abortLanded s ch then .alreadyDone else .ok) [] t) ∧
          t.media = writeBoot 0 img (writeBoot 1 img s.media) ∧ t.store.bootWriting = false) ∧
        (r = .copy0Failed → ∃ t, exec (.storeBootWriteDone ch r) s = .next (respond ch .mediaFault [] t) ∧
          t.media = writeBoot 0 [] (writeBoot 1 img s.media) ∧ t.store.bootWriting = false)))) ∧
  (∀ (ch : Fin 4) (r : BootWriteRx) (s : State), bootWriteOf s ch = none → exec (.storeBootWriteDone ch r) s = .next s) ∧
  (∀ (block : Nat) (img : List Byte) (m : Media) (g : Geometry), m.ce0 = some g → 0 < g.pageBytes →
    (∀ x : NandPage, x.ce ≠ 0 ∨ x.block ≠ block → (x ∈ (writeBoot block img m).pages ↔ x ∈ m.pages)) ∧
    (∀ j, j * g.pageBytes < img.length → cellsAt (writeBoot block img m) g ⟨0, block, j⟩
      = pageCells [] g ⟨0, block, j⟩ (fillTo g.pageBytes ((img.drop (j * g.pageBytes)).take g.pageBytes))))

/-- What enters the stream (R393, R395, R396, R398, R400, R442): a Billet within the tokens of its rec takes the rec's
next number and its tokens; one beyond them is dropped and counted, and the first dropped writes a gap with cause 3;
every 500th stroke appends a checkpoint of the index; a block that the tail has decided to erase is queued on the next
boundary, and one whose program failed, or a weak one, leaves the ring without an erase and is retired. Model's
choice, not the spec's: a row that is not due changes nothing (notes/assumptions/9.md); rows at a boundary
(notes/assumptions/56.md); a full staging region (notes/assumptions/111.md). -/
def Obligations.StoreStream : Prop :=
  (∀ (n : Fin 256) (ts : Nat) (aus : List (List Byte)) (b : Billet) (s : State), let r := recOf s.store n.val
    let size := 32 + (billetPayload b.kind b.units).length
    s.store.state = .mounted → s.store.quenching = false → stagedBillet s r ts aus = some b →
    (size * tokenUnit ≤ tokensNow s.now r → stagingFull s size = false → ∃ t, exec (.billetStaged n ts aus) s = .next t ∧
      (∃ x ∈ t.store.vol.stream, x.recNo = n.val ∧ x.seq = r.nextSeq ∧ x.kind = b.kind ∧ x.timestamp = ts ∧
        x.payload = billetPayload b.kind b.units ∧ x.written = false) ∧
      (recOf t.store n.val).nextSeq = r.nextSeq + 1 ∧
      (recOf t.store n.val).tokens = tokensNow s.now r - size * tokenUnit ∧ t.slots = s.slots ∧ t.mem = s.mem) ∧
    (tokensNow s.now r < size * tokenUnit →
      (r.dropping = true → ∃ t, exec (.billetStaged n ts aus) s = .next t ∧ t.store.vol = s.store.vol ∧
        (recOf t.store n.val).policedBillets = bump r.policedBillets 1 ∧
        (recOf t.store n.val).policedBytes = bump r.policedBytes size ∧
        (recOf t.store n.val).tokens = tokensNow s.now r ∧ t.slots = s.slots ∧ t.mem = s.mem) ∧
      (r.dropping = false → ∃ t, exec (.billetStaged n ts aus) s = .next t ∧
        (∃ x ∈ t.store.vol.stream, x.recNo = n.val ∧ x.kind = 0x0E ∧ x.cause = 3 ∧ x.seq = r.nextSeq ∧
          x.timestamp = ts) ∧
        (recOf t.store n.val).dropping = true ∧ t.slots = s.slots ∧ t.mem = s.mem))) ∧
  (∀ (n : Fin 256) (ts : Nat) (aus : List (List Byte)) (s : State), s.store.state ≠ .mounted ∨ s.store.quenching = true ∨
    stagedBillet s (recOf s.store n.val) ts aus = none → exec (.billetStaged n ts aus) s = .next s) ∧
  (∀ s : State, atBoundary s = true → s.store.state = .mounted → s.store.quenching = false → s.latch.stroke % 500 = 0 →
    s.store.ckptStroke ≠ some s.latch.stroke → (∀ r ∈ s.store.recs, r.recNo < 256) → ∃ t c, exec .checkpoint s = .next t ∧
    t.store.ckpts = s.store.ckpts ++ [c] ∧ c.stroke = s.latch.stroke ∧ c.recs = indexOf s.store ∧
    t.store.ckptStroke = some s.latch.stroke ∧ t.slots = s.slots ∧ t.mem = s.mem) ∧
  (∀ (q : Nat) (b : RingBlock) (s : State), atBoundary s = true → s.store.state = .mounted → s.store.expiring = [q] →
    (s.store.vol.blocks.find? fun x => x.seq == q) = some b →
    (b.failed = false → b.weak = false → ∃ t,
      exec .tailExpiry s = .next t ∧ t.store.erasing = s.store.erasing ++ [q] ∧ t.store.expiring = [] ∧
      t.store.vol = s.store.vol ∧ t.slots = s.slots ∧ t.mem = s.mem) ∧
    (b.failed = true ∨ b.weak = true → s.store.vol.slag.length < 1536 → ∃ t,
      exec .tailExpiry s = .next t ∧ t.store.erasing = s.store.erasing.filter (· != q) ∧ t.store.expiring = [] ∧
      t.store.vol.retired = s.store.vol.retired ++ [b.pos] ∧ (∀ x ∈ t.store.vol.blocks, x.seq ≠ q) ∧ t.slots = s.slots ∧
      t.mem = s.mem)) ∧
  (∀ s : State, atBoundary s = false → exec .checkpoint s = .next s) ∧
  (∀ s : State, s.store.expiring = [] ∨ atBoundary s = false → exec .tailExpiry s = .next s)

/-- NAND operations (R382, R395, R398, R400, R417, R428, R429, R437): a grant starts the first NW page on an idle bus,
with the ring's bytes of that page; its data across, it runs in its array, and a data-out across counts as a page
read; READ STATUS of a LUN ends the operation in its array on a poll: a program that passes puts its records on the
media and commits its checkpoint, and the third in a row that fails moves the store to FAULT, as a status poll beyond
its limit does; an erase that passes takes its block out of the ring, and one that fails also retires its position; an
array read leaves its page in the data register for its queue. Housekeeping and playback reads (R403 to R405, R414): a
patrol or a check that has read its block marks it checked, and one with `scrub_bits` or more in a codeword is to be
relocated; a cursor's Billet sends a gap where a codeword was uncorrectable, and a late one is counted. Model's
choice, not the spec's: a row that is not due changes nothing (notes/assumptions/9.md); positions in the store
(notes/assumptions/64.md); when a status poll falls (notes/assumptions/126.md). -/
def Obligations.NandAndReads : Prop :=
  ((∀ (p : Packet) (rest : List Packet) (s : State), s.store.state = .mounted → s.store.op = none → s.store.arrays = [] →
     (queueOf s.dispatch 0).items = p :: rest → p.tag = tagPage → ∃ t, exec .nandGrant s = .next t ∧
     t.store.op = some ⟨0, .program, { p with bytes := ringPage s.store.vol p.total p.page }, s.now,
       commandsOf s.store.vol.geometry .program⟩ ∧
     (queueOf t.dispatch 0).items = rest ∧ t.store.vol = s.store.vol ∧ t.slots = s.slots ∧ t.mem = s.mem) ∧
   (∀ s : State, s.store.state ≠ .mounted ∨ s.store.op ≠ none → exec .nandGrant s = .next s) ∧
   (∀ (o : NandOp) (s : State), s.store.op = some o → s.store.state = .mounted → ∃ t, exec .nandTransferEnd s = .next t ∧
     t.store.op = none ∧ t.slots = s.slots ∧ t.mem = s.mem ∧
     (o.kind ≠ .read → t.store.arrays = s.store.arrays ++ [{ o with startedAt := s.now }] ∧ t.store.vol = s.store.vol) ∧
     (o.kind = .read → t.counters.nandPagesRead = bump s.counters.nandPagesRead 1 ∧
       (o.queue ≠ 0x1F → t.store.vol = s.store.vol))) ∧
   (∀ s : State, s.store.op = none ∨ s.store.state ≠ .mounted → exec .nandTransferEnd s = .next s) ∧
   (∀ (r : OpRx) (s : State), arrayOn s r.ce r.lun = none → exec (.nandOpComplete r) s = .next s) ∧
   (∀ (o : NandOp) (k : Nat) (r : OpRx) (s : State), arrayOn s r.ce r.lun = some k → s.store.arrays[k]? = some o →
     pollsNow s.now o = false → exec (.nandOpComplete r) s = .next s) ∧
   (∀ (o : NandOp) (k : Nat) (r : OpRx) (s : State), arrayOn s r.ce r.lun = some k → s.store.arrays[k]? = some o →
     pollsNow s.now o = true → ∃ t, exec (.nandOpComplete r) s = .next t ∧ t.slots = s.slots ∧ t.mem = s.mem ∧
     (o.kind = .program → r.pass = true → o.packet.tag ≠ tagSystem →
       (o.packet.tag ≠ tagCheckpoint → t.store.tries = 0 ∧
         (∃ reads, t.store.arrays = s.store.arrays.eraseIdx k ++ reads ∧ ∀ x ∈ reads, x.kind = .read) ∧
         t.counters.nandPagesProgrammed = bump s.counters.nandPagesProgrammed 1 ∧
         ∀ x ∈ t.store.vol.stream, x.stage ≤ o.packet.offset → x.written = true) ∧
       (∀ c cs, o.packet.tag = tagCheckpoint → s.store.ckpts = c :: cs → s.store.unmounting = false →
         t.store.vol.committed = some c ∧ t.store.ckpts = cs)) ∧
     (o.kind = .program → r.pass = false → s.store.quenching = false → 2 ≤ s.store.tries → t.store.state = .fault) ∧
     (o.kind = .erase → o.packet.tag = tagSysErase → r.pass = false → 2 ≤ s.store.tries → t.store.state = .fault) ∧
     (o.kind = .erase → o.packet.tag ≠ tagSysErase → r.pass = true → ∀ b ∈ t.store.vol.blocks, b.seq ≠ o.packet.total) ∧
     (∀ b, o.kind = .erase → o.packet.tag ≠ tagSysErase → r.pass = false →
       (s.store.vol.blocks.find? fun x => x.seq == o.packet.total) = some b →
       s.store.vol.slag.length < 1536 → t.store.vol.retired = s.store.vol.retired ++ [b.pos] ∧
         t.store.eraseFails = bump s.store.eraseFails 1) ∧
     (∀ rest, o.kind = .read → (queueOf s.dispatch o.queue).items = o.packet :: rest →
       (queueOf t.dispatch o.queue).items = { o.packet with fetched := some r.read.wrong } :: rest ∧
       t.store.vol = s.store.vol)) ∧
   (∀ s : State,
     (s.store.state = .mounted → s.store.arrays.any (pollOver s) = true → s.faults = [] → ∃ t f,
       exec .nandStatusPollLimit s = .next t ∧
       t.store.state = .fault ∧ t.faults = [f] ∧ f.code = 2 ∧ t.slots = s.slots ∧ t.mem = s.mem) ∧
     (s.store.state ≠ .mounted ∨ s.store.arrays.any (pollOver s) = false → exec .nandStatusPollLimit s = .next s))) ∧
  ((∀ (w : NhWork) (s : State), s.store.nh = some w → s.store.state = .mounted → w.left = 0 →
     (w.kind = 0 → ∃ t, exec .patrolRead s = .next t ∧ t.store.nh = none ∧ t.store.patrolPos = w.block ∧
       t.store.checkQueue = s.store.checkQueue ∧ t.slots = s.slots ∧ t.mem = s.mem ∧
       (∀ b ∈ t.store.vol.blocks, b.seq = w.block → b.checked = true) ∧
       (w.worst < s.store.maint.scrubBits → w.worst < s.store.maint.retireBits →
         t.store.relocWait = s.store.relocWait ∧ t.store.vol = { s.store.vol with
           blocks := s.store.vol.blocks.map fun x => if x.seq = w.block then { x with checked := true } else x }) ∧
       (s.store.maint.scrubBits ≤ w.worst → (∀ e ∈ s.store.reloc, e.1 ≠ w.block) → w.block ∉ s.store.relocWait →
         t.store.relocWait = s.store.relocWait ++ [w.block])) ∧
     (w.kind = 1 → ∃ t, exec .readDisturbCheck s = .next t ∧ t.store.nh = none ∧
       t.store.checkQueue = s.store.checkQueue.filter (· != w.block) ∧ t.store.patrolPos = s.store.patrolPos ∧
       (∀ b ∈ t.store.vol.blocks, b.seq = w.block → b.checked = true) ∧ t.slots = s.slots ∧ t.mem = s.mem)) ∧
   (∀ s : State, s.store.nh = none ∨ s.store.state ≠ .mounted ∨ (∃ w, s.store.nh = some w ∧ w.left ≠ 0) →
     exec .patrolRead s = .next s ∧ exec .readDisturbCheck s = .next s) ∧
   (∀ (c : Fin 8) (s : State), let x := s.store.cursors[c]
     s.store.state = .mounted → s.store.quenching = false → x.set = true → x.run = true →
     (x.ready = true → exec (.cursorRead c .billet) s = .next { s with store := { s.store with
       cursors := s.store.cursors.set c { x with ready := false, gap := x.spoiled, spoiled := false } } }) ∧
     (x.ready = false → exec (.cursorRead c .billet) s = .next s) ∧
     (nextBillet s.store x = none → exec (.cursorRead c .inTime) s = .next { s with store := { s.store with
       cursors := s.store.cursors.set c { x with gap := true } } }) ∧
     (∀ b, nextBillet s.store x = some b → exec (.cursorRead c .inTime) s
       = .next (if b.written then s else { s with store := { s.store with cursors := s.store.cursors.set c { x with gap := false } } })) ∧
     (exec (.cursorRead c .late) s = .next { s with store := { s.store with
       cursors := s.store.cursors.set c { x with ready := false, gap := true }, late := bump s.store.late 1 } })) ∧
   (∀ (c : Fin 8) (r : CursorRx) (s : State), s.store.state ≠ .mounted ∨ s.store.quenching = true ∨
     s.store.cursors[c].set = false ∨ s.store.cursors[c].run = false → exec (.cursorRead c r) s = .next s))

/-! ### The bulk window and the link (R106, R434 to R436, R449 to R511, R563) -/

/-- The bulk window (R106, R434, R563): a grant writes the record that Dispatch selects where the half being filled
stands and nothing else of the window; a half that is closed goes to the host with its rest zero; an idle half of a
host-to-device stream is given to the host; the half that ends a stream, returned, ends the mapping, and a returned
half of an image is drained; the return of a half that the host does not own is rejected. -/
def Obligations.BulkWindow : Prop :=
  (∀ (s : State) (id : Nat), deviceFills (accrue s) = true → hostPick (accrue s) = some id →
    s.bulk.fillUsed + headBytes (accrue s) id ≤ halfBytes → ∃ t, exec .hostRecordGrant s = .next t ∧
    let bytes := (takeRecord (accrue s) id).1
    let at_ := halfBase s.bulk.fillHalf + s.bulk.fillUsed
    memBytes t.mem at_ bytes.length = bytes ∧ (∀ a, a < at_ ∨ at_ + bytes.length ≤ a → memRead t.mem a = memRead s.mem a) ∧
    t.bulk.fillUsed = s.bulk.fillUsed + bytes.length ∧ t.bulk.hostOwned = s.bulk.hostOwned ∧ t.chan = s.chan ∧
    (∀ r rest, id = 0x70 → s.side.staging = r :: rest → bytes = sideBytes r ∧ t.side.staging = rest)) ∧
  (∀ s : State, s.bulk.mapped ≠ none → s.bulk.hostToDev = false → halfClosed (accrue s) = true →
    hostOwns s s.bulk.fillHalf = false → ∃ t, exec .bulkHalfReady s = .next t ∧ hostOwns t s.bulk.fillHalf = true ∧
    t.bulk.fillHalf = !s.bulk.fillHalf ∧ t.bulk.fillUsed = 0 ∧ t.bulk.mapped = s.bulk.mapped ∧
    (∀ a, halfBase s.bulk.fillHalf + s.bulk.fillUsed ≤ a → a < halfBase s.bulk.fillHalf + halfBytes → memRead t.mem a = 0) ∧
    (∀ a, a < halfBase s.bulk.fillHalf + s.bulk.fillUsed ∨ halfBase s.bulk.fillHalf + halfBytes ≤ a →
      s.bulk.fillUsed ≤ halfBytes → memRead t.mem a = memRead s.mem a)) ∧
  (∀ s : State, s.bulk.mapped ≠ none → s.bulk.hostToDev = true → hostOwns s s.bulk.fillHalf = false → ∃ t,
    exec .bulkHalfReady s = .next t ∧ hostOwns t s.bulk.fillHalf = true ∧ t.bulk.fillHalf = s.bulk.fillHalf ∧ t.mem = s.mem) ∧
  (∀ s : State, s.bulk.mapped ≠ none → s.bulk.hostToDev = true → hostOwns s s.bulk.fillHalf = true →
    hostOwns s (!s.bulk.fillHalf) = false → s.bulk.fillUsed = 0 → ∃ t,
    exec .bulkHalfReady s = .next t ∧ hostOwns t (!s.bulk.fillHalf) = true ∧ t.bulk.fillHalf = s.bulk.fillHalf ∧ t.mem = s.mem) ∧
  (∀ (s : State) (h : Fin 2), hostActive s = true → let s0 := landAll (finishHold s)
    s0.bulk.hostOwned.getLsbD h.val = false → exec (.bulkDone h) s = .next (setWriteRejected s0)) ∧
  (∀ (s : State) (h : Fin 2), hostActive s = true → let s0 := landAll (finishHold s)
    s0.bulk.hostOwned.getLsbD h.val = true → s0.bulk.hostToDev = false → s0.bulk.finalHalf = some (h == 1) →
    s0.bulk.mapped ≠ some .exportStream → ∃ t, exec (.bulkDone h) s = .next t ∧ t.bulk = BulkWin.reset ∧ t.mem = s0.mem) ∧
  (∀ (s : State) (h : Fin 2) (ch : Fin 4) (n : Nat) (img : List Byte), hostActive s = true → let s0 := landAll (finishHold s)
    s0.bulk.hostOwned.getLsbD h.val = true → s0.bulk.hostToDev = true → s0.bulk.fillHalf = (h == 1) →
    s0.bulk.fillUsed = 0 → bootWriter s0 = some ch → bootWriteOf s0 ch = some (n, img) → ∃ t,
    exec (.bulkDone h) s = .next t ∧
    bootWriteOf t ch = some (n, (img ++ memBytes s0.mem (halfBase (h == 1)) halfBytes).take n) ∧ t.mem = s0.mem)

/-- Frames on the link (R434, R495 to R497): a window sends the head frame of the queue that Dispatch selects, whose
bytes join the superframe being filled, and a new control frame waits for its acknowledgement; one not acknowledged
within 4 superframes goes out again; a received frame that does not stand is counted and discarded; a control frame
out of order is not taken, though it acknowledges, and one in order is the last received. Bit-swaps (R456, R457,
R501): a tone with 100 superframes in a row of low margin makes the receiver propose a table for the superframe 16
later; at its superframe the transmitter takes the table, and the receiver takes it only when it has been
acknowledged. Model's choice, not the spec's: a row that is not due changes nothing (notes/assumptions/9.md); the
bit-swap message and its superframe (notes/assumptions/40.md); sequence numbers (notes/assumptions/45.md). -/
def Obligations.LinkLayer : Prop :=
  ((∀ (w : Window) (s : State), s.link.state = .run →
     let s1 := accrue (feedWaiting (if w = .control then feedImage s else s))
     let left := s1.link.winLeft[windowIndex w]
     (∀ (id : Nat) (p : Packet) (rest : List Packet), s1.link.fillLast = none →
       pickQueue s1.dispatch.lastLink (windowCandidates s1 w) = some id → (queueOf s1.dispatch id).items = p :: rest →
       p.length ≤ left → ∃ t,
       exec (.linkFrameGrant w) s = .next t ∧ (queueOf t.dispatch id).items = rest ∧
       t.link.winLeft[windowIndex w] = left - p.length ∧ t.link.lastTx = frameBytes s1 p ∧
       t.phy.txFill[windowIndex w] = s1.phy.txFill[windowIndex w] ++ frameBytes s1 p ∧
       (p.retx = false → p.ftype = 1 → t.link.ctlSeqTx = s1.link.ctlSeqTx + 1 ∧
         t.link.unacked = s1.link.unacked ++ [⟨s1.link.ctlSeqTx + 1, superframe s, { p with seq := s1.link.ctlSeqTx + 1 }⟩]) ∧
       (p.ftype ≠ 1 → t.link.unacked = s1.link.unacked) ∧ t.slots = s.slots ∧ t.mem = s.mem) ∧
     (∀ fl, s1.link.fillLast = some fl → (∀ id ∈ windowCandidates s1 w, left < headLength s1 id) → ∃ t,
       exec (.linkFrameGrant w) s = .next t ∧ t.link.winLeft[windowIndex w] = 0 ∧ t.phy.txFill = s1.phy.txFill ∧
       t.slots = s.slots ∧ t.mem = s.mem)) ∧
   (∀ (w : Window) (s : State), s.link.state ≠ .run → exec (.linkFrameGrant w) s = .next s) ∧
   (∀ (f : CtrlFrame) (s : State), s.link.state = .run → s.link.unacked.find? (resendDue s) = some f → ∃ t,
     exec .ctrlRetransmit s = .next t ∧ (∀ q, queueOf s.dispatch 0x20 = q → q ≠ DQueue.reset →
       (queueOf t.dispatch 0x20).items = { f.packet with retx := true } :: q.items) ∧
     t.link.retransmissions = bump s.link.retransmissions 1 ∧ t.slots = s.slots ∧ t.mem = s.mem) ∧
   (∀ s : State, s.link.unacked.find? (resendDue s) = none ∨ s.link.state ≠ .run → exec .ctrlRetransmit s = .next s) ∧
   (∀ s : State, linkUp s = false → exec .linkFrameRx s = .next s) ∧
   (∀ s : State, linkUp s = true →
     (nextFrame s 4 s.phy.rxAt = none → exec .linkFrameRx s = .next { s with phy := { s.phy with rxWords := [], rxAt := 0 } }) ∧
     (∀ f at_, nextFrame s 4 s.phy.rxAt = some (f, at_) →
       let s1 : State := { s with phy := { s.phy with rxAt := at_ } }
       let seq := BitVec.ofNat 16 (getU 2 6 f.bytes)
       let left := s.link.unacked.filter fun u => 32768 ≤ (BitVec.ofNat 16 (getU 2 18 f.bytes) - u.seq).toNat
       (frameStands f = false → ∃ t, exec .linkFrameRx s = .next t ∧ t = { s1 with
         link := { s.link with framesLost := bump s.link.framesLost 1 }
         counters := { s.counters with linkFramesLost := bump s.counters.linkFramesLost 1 }
         trace := { s.trace with happened := t.trace.happened } }) ∧
       (frameStands f = true → getU 1 1 f.bytes = 1 →
         (seq ≠ s.link.ctlSeqRx + 1 → exec .linkFrameRx s = .next { s1 with link := { s.link with unacked := left } }) ∧
         (seq = s.link.ctlSeqRx + 1 →
           (joinSegment f { s1 with link := { s.link with unacked := left, ctlSeqRx := seq } }).2 = none → ∃ t,
           exec .linkFrameRx s = .next t ∧ t.link.ctlSeqRx = seq ∧ t.link.unacked = left ∧ t.slots = s.slots ∧ t.mem = s.mem))))) ∧
  ((∀ s : State, s.link.state = .run → s.phy.lowRuns.any (100 ≤ ·) = true → s.link.swapRx = none →
     layoutFits s s.phy.bTx (proposal s.phy) = true →
     roomFor s 0x20 (framesOf (frameMax s 0x20) 7 0x0500 59 (swapRequest ⟨proposal s.phy, superframe s + 16, false⟩)) = true →
     ∃ t, exec .bitswapPropose s = .next t ∧ t.link.swapRx = some ⟨proposal s.phy, superframe s + 16, false⟩ ∧
     t.phy = { s.phy with lowRuns := List.replicate 102 0 } ∧ t.slots = s.slots ∧ t.mem = s.mem) ∧
   (∀ s : State, s.link.state ≠ .run ∨ s.phy.lowRuns.any (100 ≤ ·) = false ∨ s.link.swapRx.isSome = true ∨
     layoutFits s s.phy.bTx (proposal s.phy) = false → exec .bitswapPropose s = .next s) ∧
   (∀ (sw : Swap) (s : State), s.link.state = .run → sw.atSf ≤ superframe s →
     (s.link.swapTx = some sw → ∃ t, exec (.bitswapApply true) s = .next t ∧ t.phy = { s.phy with bTx := sw.table } ∧
       t.link.swapTx = none ∧ t.link.bitswaps = bump s.link.bitswaps 1 ∧ t.slots = s.slots ∧ t.mem = s.mem) ∧
     (s.link.swapRx = some sw → ∃ t, exec (.bitswapApply false) s = .next t ∧ t.link.swapRx = none ∧
       t.phy = (if sw.acked then { s.phy with bRx := sw.table } else s.phy) ∧ t.slots = s.slots ∧ t.mem = s.mem)) ∧
   (∀ (b : Bool) (s : State), s.link.state ≠ .run ∨ (if b then s.link.swapTx else s.link.swapRx).all (superframe s < ·.atSf) = true →
     exec (.bitswapApply b) s = .next s))

/-- The synthesiser (R477, R480, R481): 200 µs of calibration and 40 µs of settling lead to LOCKED; a lost lock
settles again, and a transmission in progress is abandoned, with its ramp down, and counted; a request held for 1 ms
is dropped and counted. Bursts (R143, R144, R470 to R476): a beacon of a LOCKED local goes out with the device's
serial and the next `burst_seq`, after every 8 with one launch entry less; a remote's answer goes out once; a preamble
that stands out begins reception, and one 6 dB above it restarts it; a header whose CRC fails is counted, and so is a
burst of the receiver's own role; an answer within 800 ns leads the local to HANDSHAKE. There a certificate that the
CA key verifies, of the device that sends it and of the one pinned, is taken and the transcript signed; a signature
that verifies is answered with the verdict; a failed verdict, or any check that fails, leads back with the reason
AUTH; and both verdicts passed lead to ECHO_TRAIN, or to HALF_DUPLEX. Model's choice, not the spec's: a row that is
not due changes nothing (notes/assumptions/9.md); the bit-swap message and its superframe (notes/assumptions/40.md);
the first beacon (notes/assumptions/42.md); where a failed training leads (notes/assumptions/43.md); equality at a
limit (notes/assumptions/92.md). -/
def Obligations.LinkPhy : Prop :=
  (∀ s : State,
     (s.phy.synth = .cal → usPassed s s.phy.synthSince 200 = true →
       exec .synthCalDone s = .next { s with phy := { s.phy with synth := .settle, synthSince := s.now } }) ∧
     (s.phy.synth = .settle → usPassed s s.phy.synthSince 40 = true →
       exec .synthLocked s = .next { s with phy := { s.phy with synth := .locked, synthSince := s.now } }) ∧
     (s.phy.synth = .locked → exec .synthUnlock s = .next { s with phy := { s.phy with
       synth := .settle, synthSince := s.now
       txUntil := if transmittingNow s then rampEnd s.now else s.phy.txUntil
       txPayload := if transmittingNow s then [] else s.phy.txPayload
       txAborted := if transmittingNow s then bump s.phy.txAborted 1 else s.phy.txAborted } }) ∧
     (∀ h, s.phy.txHeld = some h → s.phy.synth ≠ .locked → h + 24576 ≤ s.now → exec .txRequestTimeout s
       = .next { s with phy := { s.phy with txHeld := none, answerDue := none, txNotLocked := bump s.phy.txNotLocked 1 } }) ∧
     (s.phy.synth ≠ .cal ∨ usPassed s s.phy.synthSince 200 = false → exec .synthCalDone s = .next s) ∧
     (s.phy.synth ≠ .settle ∨ usPassed s s.phy.synthSince 40 = false → exec .synthLocked s = .next s) ∧
     (s.phy.synth ≠ .locked → exec .synthUnlock s = .next s) ∧
     (s.phy.synth = .locked ∨ s.phy.txHeld.all (s.now < · + 24576) = true → exec .txRequestTimeout s = .next s)) ∧
  (let authDown (s t : State) : Prop :=
     t.link.state = (if s.link.cfg.autoRetrain || remoteEnd s then .beacon else .off) ∧ t.link.lastReason = 3 ∧
     t.slots = s.slots ∧ t.mem = s.mem
   (∀ s : State, s.link.state = .beacon → remoteEnd s = false → atSuperframe s = true → beaconOrigin s ≤ superframe s →
     (superframe s - beaconOrigin s) % s.phy.cfg.beaconPeriod = 0 →
     (s.phy.synth ≠ .locked → exec .beaconTx s
       = .next { s with phy := { s.phy with txHeld := some (s.phy.txHeld.getD s.now) } }) ∧
     (s.phy.synth = .locked → ∃ t, exec .beaconTx s = .next t ∧ t.phy.burstSeq = s.phy.burstSeq + 1 ∧
       t.phy.sentHeader = burstHeader 1 false s.phy.powerNow s.phy.remoteCfg.powerIndex s.otp.serial s.phy.burstSeq 0
         s.phy.rxLevel (superframe s) ∧
       t.phy.beaconsSent = (s.phy.beaconsSent + 1) % 8 ∧
       (s.phy.beaconsSent = 7 → s.phy.cfg.powerIndex < s.phy.powerNow → t.phy.powerNow = s.phy.powerNow - 1) ∧
       (s.phy.beaconsSent < 7 → t.phy.powerNow = s.phy.powerNow) ∧ t = { s with phy := t.phy })) ∧
   (∀ s : State, s.link.state ≠ .beacon ∨ remoteEnd s = true ∨ atSuperframe s = false → exec .beaconTx s = .next s) ∧
   (∀ (due power sf : Nat) (s : State), s.phy.answerDue = some (due, power, sf) → s.link.state = .beacon → remoteEnd s = true →
     due ≤ s.now →
     (s.phy.synth ≠ .locked → exec .beaconAnswerTx s
       = .next { s with phy := { s.phy with txHeld := some (s.phy.txHeld.getD due) } }) ∧
     (s.phy.synth = .locked → ∃ t, exec .beaconAnswerTx s = .next t ∧ t.phy.answerDue = none ∧
       t.phy.burstSeq = s.phy.burstSeq + 1 ∧ t.phy.sentHeader = burstHeader 2 true power 0xFF s.otp.serial s.phy.burstSeq 0
         s.phy.rxLevel sf ∧ t = { s with phy := t.phy })) ∧
   (∀ (samples : List Int) (s : State), burstState s = true → transmittingNow s = false → s.phy.synth ≠ .off →
     match preamblePeak samples with
     | none => exec (.preambleDetect samples) s = .next s
     | some peak =>
       (s.now < s.phy.commitEnd → exec (.preambleDetect samples) s
         = .next { s with phy := { s.phy with
           captureLost := if s.phy.commitPeak < peak then bump s.phy.captureLost 1 else s.phy.captureLost } }) ∧
       (s.phy.commitEnd ≤ s.now →
         (s.phy.reception = none → exec (.preambleDetect samples) s
           = .next { s with phy := { s.phy with armed := true, reception := some peak } }) ∧
         (∀ q, s.phy.reception = some q → exec (.preambleDetect samples) s
           = .next { s with phy := { s.phy with
               reception := some (if q + 60 ≤ peak then peak else max q peak)
               captureRestarts := if q + 60 ≤ peak then bump s.phy.captureRestarts 1 else s.phy.captureRestarts } }))) ∧
   (∀ (samples : List Int) (s : State), burstState s = false ∨ transmittingNow s = true ∨ s.phy.synth = .off →
     exec (.preambleDetect samples) s = .next s) ∧
   (∀ (b : BurstRx) (peak : Int) (s : State), s.phy.reception = some peak → burstState s = true → s.phy.commitEnd ≤ s.now →
     (headerCrcOk b.header = false → exec (.burstRx b) s
       = .next { s with phy := { s.phy with reception := none, preambleFalse := bump s.phy.preambleFalse 1 } }) ∧
     (headerCrcOk b.header = true → (getU 1 1 b.header == 1) = remoteEnd s → ∃ t, exec (.burstRx b) s = .next t ∧
       t.phy.foreignBursts = bump s.phy.foreignBursts 1 ∧ t.phy.reception = none ∧ t = { s with phy := t.phy }) ∧
     (headerCrcOk b.header = true → remoteEnd s = false → getU 1 1 b.header = 1 → getU 1 0 b.header = 2 →
       s.link.state = .beacon →
       (b.roundTripNs ≤ 800 → ∃ t, exec (.burstRx b) s = .next t ∧
         t.link.state = .handshake ∧ t.phy.cableDelayNs = some (b.roundTripNs / 2) ∧ t.slots = s.slots ∧ t.mem = s.mem) ∧
       (800 < b.roundTripNs → ∃ t, exec (.burstRx b) s = .next t ∧ t.link.lastReason = 5 ∧
         t.link.state = (if s.link.cfg.autoRetrain then .beacon else .off) ∧ t.slots = s.slots ∧ t.mem = s.mem)) ∧
     (headerCrcOk b.header = true → (getU 1 1 b.header == 1) = !remoteEnd s → getU 1 0 b.header = 3 →
       s.link.state = .handshake → ∀ bytes, burstBytes (getU 2 14 b.header) b.bits = some bytes →
       (∀ h, readMessage bytes = .verdict false h → ∃ t, exec (.burstRx b) s = .next t ∧ authDown s t) ∧
       (∀ h, readMessage bytes = .verdict true h → s.link.pair.sigOk = true → s.link.pair.outbox = [] → ∃ t,
         exec (.burstRx b) s = .next t ∧
         t.link.state = (if (if remoteEnd s then h else s.phy.cfg.duplex == 2) then .halfDuplex else .echoTrain) ∧
         t.slots = s.slots ∧ t.mem = s.mem) ∧
       (∀ w nonce der, readMessage bytes = .certificate w nonce der →
         let far := getU 8 4 b.header
         (∀ c, readCert der = some c → certVerifies s.rom c = true → c.serial = far → nonce.length = 32 →
           remoteEnd s = true ∨ s.link.cfg.pinned.toNat = 0 ∨ s.link.cfg.pinned.toNat = far → ∃ t sig,
           exec (.burstRx b) s = .next t ∧ t.link.state = .handshake ∧ t.link.remoteSerial = BitVec.ofNat 64 far ∧
           t.link.pair = { s.link.pair with
             farNonce := nonce, farKey := c.key, certOk := true, outbox := s.link.pair.outbox ++ [.signature sig] } ∧
           t.slots = s.slots ∧ t.mem = s.mem) ∧
         (readCert der = none ∨ (∃ c, readCert der = some c ∧ (certVerifies s.rom c = false ∨ c.serial ≠ far)) ∨
           nonce.length ≠ 32 ∨ (remoteEnd s = false ∧ s.link.cfg.pinned.toNat ≠ 0 ∧ s.link.cfg.pinned.toNat ≠ far) → ∃ t,
           exec (.burstRx b) s = .next t ∧ authDown s t)) ∧
       (∀ sig, readMessage bytes = .signature sig → s.link.pair.certOk = true →
         (ecdsaVerify s.link.pair.farKey (sha256 (pairTranscript s)) sig = true → ∃ t, exec (.burstRx b) s = .next t ∧
           t.link.state = .handshake ∧ t.link.pair = { s.link.pair with
             sigOk := true, outbox := s.link.pair.outbox ++ [.verdict true (s.phy.cfg.duplex == 2)] } ∧
           t.slots = s.slots ∧ t.mem = s.mem) ∧
         (ecdsaVerify s.link.pair.farKey (sha256 (pairTranscript s)) sig = false → ∃ t, exec (.burstRx b) s = .next t ∧
           authDown s t)))) ∧
   (∀ (b : BurstRx) (s : State), s.phy.reception = none ∨ burstState s = false → exec (.burstRx b) s = .next s))

/-- Training (R455, R464 to R467, R479, R489, R491): each superframe counts towards its state, held while the
synthesiser is not LOCKED, and in MEASURE gives the SNR of its tones; 32 failed syncs in a row report a sync loss;
echo training runs its phases and, converged at both ends, leads to MEASURE, as 8 half-duplex superframes at each end
do; 64 measured superframes lead to LOAD, and the named superframe to RUN when the layout fits; a state past its limit
leads back. Model's choice, not the spec's: the superframe of RUN (notes/assumptions/41.md); where a failed training
leads (notes/assumptions/43.md). -/
def Obligations.Training : Prop :=
  (∀ (r : SuperframeRx) (s : State), s.link.state ≠ .off → s.link.state ≠ .beacon → atSuperframe s = true →
    s.link.sfCount ≠ superframe s ∨ s.now ≤ s.link.since →
    (s.phy.synth ≠ .locked → exec (.linkSuperframe r) s
      = .next { s with phy := { s.phy with txHeld := some (s.phy.txHeld.getD s.now) } }) ∧
    (s.phy.synth = .locked → ∃ t, exec (.linkSuperframe r) s = .next t ∧
      (s.link.state ≠ .run → t.link.sfCount = superframe s ∧ t.slots = s.slots ∧ t.mem = s.mem) ∧
      (s.link.state = .measure → t.link.state = .measure ∧ t.phy.measured = s.phy.measured + 1 ∧
        t.phy.tonePower = ((takeSymbols r s).power :: s.phy.tonePower).take 64 ∧ t.phy.snr = trackedSnr t.phy ∧
        t.link.syncFails = (if syncHeld s.phy.cfg (syncRow r s) then 0 else s.link.syncFails + 1)))) ∧
  (∀ (r : SuperframeRx) (s : State), s.link.state = .off ∨ s.link.state = .beacon ∨ atSuperframe s = false →
    exec (.linkSuperframe r) s = .next s) ∧
  (∀ s : State, syncState s = true → 32 ≤ s.link.syncFails → s.link.syncLost = false → ∃ t, exec .syncLoss s = .next t ∧
    t.link = { s.link with syncLost := true, outageDue := some 8 } ∧ t.slots = s.slots ∧ t.mem = s.mem) ∧
  (∀ s : State, syncState s = false ∨ s.link.syncFails < 32 ∨ s.link.syncLost = true → exec .syncLoss s = .next s) ∧
  (∀ (n : Nat) (s : State), s.link.state = .echoTrain → echoPhaseOver s.phy = true →
    let lim (k : Nat) : Nat := if 4 ≤ s.phy.echoOk then 0 else min 102 k
    let own := lim (noisyTones s.phy.cfg s.phy.quietNoise s.phy.residual).length
    let mine := if remoteEnd s then own else s.phy.echoLimited
    let far := if remoteEnd s then s.phy.farEchoLimited else lim n
    (s.phy.echo = .quiet → ∃ t, exec (.echoPhaseEnd n) s = .next t ∧ t.phy.echo = .localPhase ∧ t.link = s.link) ∧
    (s.phy.echo = .localPhase → ∃ t, exec (.echoPhaseEnd n) s = .next t ∧ t.phy.echo = .remotePhase ∧ t.link = s.link ∧
      (remoteEnd s = true → t.phy.farEchoLimited = lim n) ∧ (remoteEnd s = false → t.phy.echoLimited = own)) ∧
    (s.phy.echo = .remotePhase → ∃ t, exec (.echoPhaseEnd n) s = .next t ∧ t.slots = s.slots ∧ t.mem = s.mem ∧
      t.link.state = (if mine ≤ 10 ∧ far ≤ 10 then .measure
        else if s.phy.cfg.duplex = 0 ∧ s.phy.cfg.trGpio.isSome then .halfDuplex
        else if s.link.cfg.autoRetrain || remoteEnd s then .beacon else .off))) ∧
  (∀ (n : Nat) (s : State), s.link.state ≠ .echoTrain ∨ echoPhaseOver s.phy = false → exec (.echoPhaseEnd n) s = .next s) ∧
  (∀ s : State, s.link.state = .halfDuplex →
    (8 ≤ s.link.hdLocal → 8 ≤ s.link.hdRemote → ∃ t, exec .halfDuplexSync s = .next t ∧ t.link.state = .measure ∧
      t.slots = s.slots ∧ t.mem = s.mem) ∧
    (s.link.hdLocal < 8 ∨ s.link.hdRemote < 8 → exec .halfDuplexSync s = .next s)) ∧
  (∀ (far : List Nat) (s : State), s.link.state = .measure →
    (64 ≤ s.phy.measured → ∃ t, exec (.measureDone far) s = .next t ∧ t.link.state = .load ∧
      t.phy.nextRx = loadTable s.phy.cfg s.phy.snr ∧ (remoteEnd s = false → t.link.runAt = some (superframe s + 8)) ∧
      t.link.downCtl = s.link.cfg.downCtl ∧ t.link.upCtl = s.link.cfg.upCtl ∧ t.slots = s.slots ∧ t.mem = s.mem) ∧
    (s.phy.measured < 64 → exec (.measureDone far) s = .next s)) ∧
  (∀ (named n : Nat) (s : State), s.link.state = .load →
    (layoutFits s s.phy.nextTx s.phy.nextRx = true → remoteEnd s = false → s.link.runAt = some n → n ≤ superframe s → ∃ t,
      exec (.linkRunStart named) s = .next t ∧ t.link.state = .run ∧ t.phy.bTx = s.phy.nextTx ∧ t.phy.bRx = s.phy.nextRx ∧
      t.link.resync = true ∧ t.slots = s.slots ∧ t.mem = s.mem) ∧
    (layoutFits s s.phy.nextTx s.phy.nextRx = true → remoteEnd s = true → atSuperframe s = true → 0 < named → ∃ t,
      exec (.linkRunStart named) s = .next t ∧ t.link.state = .run ∧ t.now = named * 24576 ∧ t.latch.stroke = named - 1 ∧
      (∀ i : Fin 48, t.slots[i].state = s.slots[i].state ∧ t.slots[i].tune = s.slots[i].tune) ∧ t.mem = s.mem) ∧
    (layoutFits s s.phy.nextTx s.phy.nextRx = false → ∃ t, exec (.linkRunStart named) s = .next t ∧
      t.link.state = (if s.link.cfg.autoRetrain || remoteEnd s then .beacon else .off) ∧ t.link.lastReason = 7 ∧
      t.slots = s.slots ∧ t.mem = s.mem)) ∧
  (∀ (ms : Nat) (s : State), trainingLimit s.link.state = some ms →
    (s.link.since + ticksOfMs ms ≤ s.now → ∃ t, exec .linkTrainingTimeout s = .next t ∧
      t.link.state = (if s.link.cfg.autoRetrain || remoteEnd s then .beacon else .off) ∧ t.link.lastReason = 6 ∧
      t.slots = s.slots ∧ t.mem = s.mem) ∧
    (s.now < s.link.since + ticksOfMs ms → exec .linkTrainingTimeout s = .next s))

/-- Outages and the return of the remote (R57, R503, R507, R508): at the boundary of an outage every slot of a local
in RUN that is not FREE is LINK_LOST and the link has left RUN, and a remote keeps its slots; a bundle of the mirror
applies from the fourth boundary on and counts as late after it, and brings no lost slot back; the resynchronisation
steps the database generation by one and brings every lost slot back to ACQUIRING. Requests to the remote and split
transactions (R38, R94, R502, R505, R513): a read of `device` 1 in the local role goes to the remote and its channel
stays ACTIVE, or ends with `ST_BAD_STATE` while the link is not in RUN, and in another role `device` 1 is out of
range; a remote holds a part that it may apply, and one with no command cancels it; with no reply by 6,144 ticks
before the stroke the commit ends with `ST_TIMEOUT`, or with `ST_ABORTED` when an abort has landed. Model's choice,
not the spec's: a row that is not due changes nothing (notes/assumptions/9.md); answers to forwarded requests
(notes/assumptions/44.md); contents of the mirror (notes/assumptions/46.md); messages of split transactions
(notes/assumptions/50.md); rows at a boundary (notes/assumptions/56.md). -/
def Obligations.SplitOperation : Prop :=
  ((∀ (r : Nat) (s : State), s.link.outageDue = some r → ∃ t, exec .linkOutage s = .next t ∧
     t.link.state = (if s.link.cfg.autoRetrain || remoteEnd s then .beacon else .off) ∧ t.link.lastReason = r ∧
     t.outs = s.outs ∧ t.store = s.store ∧ ((∀ ch : Fin 4, waitsForRemote s ch = false) → t.mem = s.mem) ∧
     (isLocal s = true → linkUp s = true → t.link.outages = bump s.link.outages 1 ∧
       ∀ i : Fin 48, t.slots[i].state = if s.slots[i].state = .free then .free else .linkLost) ∧
     (isLocal s = false ∨ linkUp s = false → t.slots = s.slots)) ∧
   (∀ s : State, s.link.outageDue = none → exec .linkOutage s = .next s) ∧
   (∀ (m : List Byte) (s : State), isLocal s = true → linkUp s = true → s.link.resync = false → s.link.bundles = [m] →
     let r := bundleOf m
     (r.stroke + 4 ≤ s.latch.stroke + 1 → ∃ t, exec .mirrorBundleApply s = .next t ∧ t.link.mirror.stroke = r.stroke ∧
       t.link.bundles = [] ∧
       t.link.mirrorLate = (if r.stroke + 4 < strokeOf (toBoundary s).now then bump s.link.mirrorLate 1 else s.link.mirrorLate) ∧
       (∀ i b, r.slots = [(i, b)] → (∀ k : Fin 48, k ≠ i → t.slots[k] = s.slots[k]) ∧
         ((∀ e ∈ s.link.returning, e.1 ≠ i.val) →
           (s.slots[i].state ≠ .linkLost → t.slots[i].state = slotStateOf (getU 1 1 b)) ∧
           (s.slots[i].state = .linkLost → slotStateOf (getU 1 1 b) ≠ .free → t.slots[i].state = .linkLost))) ∧
       t.mem = s.mem)) ∧
   (∀ s : State, isLocal s = false ∨ linkUp s = false ∨ s.link.resync = true ∨
       (∀ m ∈ s.link.bundles, s.latch.stroke + 1 < (bundleOf m).stroke + 4) →
     exec .mirrorBundleApply s = .next s) ∧
   (∀ s : State, isLocal s = true → linkUp s = true →
     (resyncReady (s.latch.stroke + 1) s = true → ∃ t, exec .resyncComplete s = .next t ∧ t.link.resync = false ∧
       t.link.resyncIn = [] ∧
       (s.db.steppedAt ≠ some (strokeOf (toBoundary s).now) → t.db.generation = s.db.generation + 1) ∧
       (∀ i : Fin 48, s.slots[i].state = .linkLost → t.slots[i].state = .acquiring) ∧ t.mem = s.mem) ∧
     (resyncReady (s.latch.stroke + 1) s = false → exec .resyncComplete s = .next s)) ∧
   (∀ s : State, isLocal s = false → linkUp s = true →
     (∀ rbds correct, s.link.rdsHeld = some (rbds, correct) → ∃ t, exec .resyncComplete s = .next t ∧
       t.link.rdsHeld = none ∧ t.side.cfg.rbds = rbds ∧ t.side.cfg.correct = correct ∧ t.mem = s.mem) ∧
     (s.link.rdsHeld = none → exec .resyncComplete s = .next s)) ∧
   (∀ s : State, linkUp s = false → exec .resyncComplete s = .next s)) ∧
  ((∀ (ch : Fin 4) (i : Instr) (op : Nat) (s : State),
     (i = .linkStatusGet ch ∧ op = 0x0A05) ∨ (i = .linkPhyStatusGet ch ∧ op = 0x0A11) ∨ (i = .linkToneGet ch ∧ op = 0x0A12) ∨
       (i = .auxStatusGet ch ∧ op = 0x0B03) ∨ (i = .gpioGet ch ∧ op = 0x0B11) ∨ (i = .obsCountersGet ch ∧ op = 0x0D02) →
     serves s ch op .read → body s ch = [1] → let ps := controlFrames s (requestBytes (reqOf s ch))
     (isLocal s = false → exec i s = .next (respond ch .badParam [] (takeOut s ch))) ∧
     (isLocal s = true → linkUp s = false → exec i s = .next (respond ch .badState [] (takeOut s ch))) ∧
     (isLocal s = true → linkUp s = true → roomFor s 0x20 ps = true → exec i s
       = .next (keepsOp ch ⟨.forwarded (BitVec.ofNat 16 op) [1], true, s.now⟩ (enqueueAll (takeOut s ch) 0x20 ps)))) ∧
   (∀ (m : List Byte) (rest : List (List Byte)) (s : State), isRemote s = true → linkUp s = true → s.link.partsIn = m :: rest →
     let v := judgePart m s
     let ps := partReply m v s
     (roomFor s 0x20 ps = true →
       (v = none → getU 2 6 m % 2 = 0 → ∃ t, exec .remoteTxnPart s = .next t ∧ t.link.partsIn = rest ∧
         t.link.parts = s.link.parts ++
           [⟨BitVec.ofNat 32 (getU 4 8 m), getU 8 16 m, (partCfgs m s).filterMap id⟩] ∧
         t.dispatch = (enqueueAll s 0x20 ps).dispatch ∧ t.slots = s.slots ∧ t.mem = s.mem) ∧
       (v ≠ none ∨ getU 2 6 m % 2 = 1 → ∃ t, exec .remoteTxnPart s = .next t ∧ t.link.partsIn = rest ∧
         t.link.parts = s.link.parts ∧ t.dispatch = (enqueueAll s 0x20 ps).dispatch ∧ t.slots = s.slots ∧ t.mem = s.mem)) ∧
     (roomFor s 0x20 ps = false → exec .remoteTxnPart s = .next s)) ∧
   (∀ (m : List Byte) (s : State), m.length ≤ 24 → (takePart m s).link.parts
     = s.link.parts.filter fun h => h.id.toNat != getU 4 8 m || h.stroke != getU 8 16 m) ∧
   (∀ s : State, isRemote s = false ∨ linkUp s = false ∨ s.link.partsIn = [] → exec .remoteTxnPart s = .next s) ∧
   (∀ (ch : Fin 4) (id : Word) (p : Nat) (cmds : List Cfg) (s : State), splitOp s ch = some (id, p, cmds) →
     (p * 24576 ≤ s.now + 6144 →
       (abortLanded s ch = true → ∃ t, exec (.remoteReplyTimeout ch) s
         = .next (respond ch .aborted (splitAnswer s ch 0 cmds.length none) t) ∧
         t.txns = s.txns ∧ t.accepted = s.accepted ∧ t.slots = s.slots) ∧
       (abortLanded s ch = false → ∃ t, exec (.remoteReplyTimeout ch) s
         = .next (respond ch .timeout (splitAnswer s ch 0 cmds.length none) t) ∧
         t.txns = (if isCommit s ch ∧ (reqOf s ch).dry = false then s.txns.set ch none else s.txns) ∧
         t.accepted = s.accepted ∧ t.slots = s.slots)) ∧
     (s.now + 6144 < p * 24576 → exec (.remoteReplyTimeout ch) s = .next s)) ∧
   (∀ (ch : Fin 4) (s : State), splitOp s ch = none → exec (.remoteReplyTimeout ch) s = .next s))

/-! ### Aux bus, GPIO, trace and the stroke boundary (R28, R49, R105, R512 to R546) -/

/-- A transfer of the aux bus (R513, R516, R523, R526 to R529): with a transfer in progress a request ends with
`ST_BUSY`, with the controller disabled with `ST_BAD_STATE`; on a free bus it starts at once, which is its commit
point, else it waits for the bus, at most 1 s; it completes, or meets a NACK of an address or a written byte, or loses
arbitration and tries again until no attempt is left. Timeouts, bus clear and settings of the aux bus (R516, R524,
R525): an SCL timeout ends the transfer and releases the lines, a STOP follows once SCL is high if SDA is high, else a
bus clear; a clear that works places a STOP, and one that fails ends the transfer; settings that wait take effect with
no transfer on the bus, and with `enable` 0 end one that has placed no START. Model's choice, not the spec's: a row
that is not due changes nothing (notes/assumptions/9.md); results of the aux bus (notes/assumptions/49.md). -/
def Obligations.AuxBus : Prop :=
  ((∀ (ch : Fin 4) (addr : Nat) (segs : List (Bool × Nat)) (data : List Byte) (s : State), serves s ch 0x0B02 .long →
     (parseAuxXfer (body s ch) = some (true, addr, segs, data) →
       (isLocal s = false → exec (.auxXfer ch) s = .next (respond ch .badParam [] (takeOut s ch))) ∧
       (isLocal s = true → linkUp s = false → exec (.auxXfer ch) s = .next (respond ch .badState [] (takeOut s ch)))) ∧
     (parseAuxXfer (body s ch) = some (false, addr, segs, data) →
       let x : AuxXfer := { AuxXfer.reset with
         ch := ch, addr := addr, segs := segs, data := data, attemptsLeft := auxRetries s.aux.regs, waitFrom := s.now }
       (s.aux.xfer ≠ none →
         exec (.auxXfer ch) s = .next (respond ch .busy (auxResult { x with cause := 5 }) (takeOut s ch))) ∧
       (s.aux.xfer = none → auxEnable s.aux.regs = false →
         exec (.auxXfer ch) s = .next (respond ch .badState [] (takeOut s ch))) ∧
       (s.aux.xfer = none → auxEnable s.aux.regs = true → wet s ch →
         (auxBusReady s = true → exec (.auxXfer ch) s = .next (keepsOp ch ⟨.auxXfer, true, s.now⟩
           { noteMark ch (takeOut s ch) with aux := { s.aux with
             xfer := some { x with started := true, phase := .transferring }, busBusy := true
             transfers := bump s.aux.transfers 1 } })) ∧
         (auxBusReady s = false → exec (.auxXfer ch) s = .next (keepsOp ch ⟨.auxXfer, false, s.now⟩
           { takeOut s ch with aux := { s.aux with
             xfer := some x, clearRunning := s.aux.clearRunning || s.aux.clearFailing } }))))) ∧
   (∀ (x : AuxXfer) (s : State), s.aux.xfer = some x →
     let regs := s.aux.pending.getD s.aux.regs
     let upTo (at_ : Nat) (bs : List Byte) : AuxXfer :=
       { x with written := bytesBefore .write x at_, readBytes := readsOf (bytesBefore .read x at_) bs }
     let bytes := auxBytes x.segs
     let st (k : Status) : Status := if abortLanded s x.ch then .alreadyDone else k
     (x.phase = .waitBus → s.aux.clearRunning = false → s.aux.clearFailing = false → s.aux.afterTimeout = false →
       s.aux.busBusy = true ∨ auxBusReady s = true → s.aux.pending = none ∨ auxEnable regs = true →
       (abortLanded s x.ch = false → ∃ t, exec .auxBusFree s = .next t ∧
         t.aux.xfer = some { x with started := true, phase := .transferring, attemptsLeft := auxRetries regs } ∧
         t.aux.regs = regs ∧ t.aux.busBusy = true ∧ t.aux.transfers = bump s.aux.transfers 1 ∧ t.chan = s.chan ∧ t.mem = s.mem) ∧
       (abortLanded s x.ch = true → x.started = false → ∃ t,
         exec .auxBusFree s = .next (respond x.ch .aborted [] t) ∧ t.aux.xfer = none ∧ t.aux.transfers = s.aux.transfers)) ∧
     (x.phase ≠ .waitBus → exec .auxBusFree s = .next s) ∧
     (x.phase = .arbLost → exec .auxRetry s = .next { s with aux := { s.aux with
       busBusy := true
       xfer := some { x with
         phase := .transferring, attemptsLeft := x.attemptsLeft - 1, written := 0, readBytes := [], nackAt := none } } }) ∧
     (x.phase ≠ .arbLost → exec .auxRetry s = .next s) ∧
     (x.phase = .waitBus ∨ x.phase = .arbLost → x.waitFrom + 24576000 < s.now →
       (abortLanded s x.ch = false ∨ x.started = true → ∃ t, exec .auxBusyTimeout s
         = .next (respond x.ch (st .timeout) (auxResult { x with cause := 5 }) t) ∧ t.aux.xfer = none ∧ t.mem = s.mem) ∧
       (abortLanded s x.ch = true → x.started = false → ∃ t, exec .auxBusyTimeout s = .next (respond x.ch .aborted [] t) ∧
         t.aux.xfer = none ∧ t.mem = s.mem)) ∧
     (x.phase = .transferring ∨ s.now ≤ x.waitFrom + 24576000 → exec .auxBusyTimeout s = .next s) ∧
     (x.phase = .transferring → abortLanded s x.ch = false ∨ x.started = true →
       (∀ bs : List Byte, ∃ t, exec (.auxXferDone (.complete bs)) s
         = .next (respond x.ch (st .ok) (auxResult { upTo bytes.length bs with cause := 0 }) t) ∧
         t.aux.xfer = none ∧ t.aux.busBusy = false ∧ t.aux.lastStop = some s.now ∧ t.mem = s.mem) ∧
       (∀ (k : Nat) (bs : List Byte), bytes.getD k .read ≠ .read → ∃ t, exec (.auxXferDone (.nack k bs)) s
         = .next (respond x.ch (st .nack) (auxResult { upTo k bs with nackAt := some k, cause := 1 }) t) ∧
         t.aux.xfer = none ∧ t.aux.nacks = bump s.aux.nacks 1 ∧ t.aux.lastStop = some s.now ∧ t.mem = s.mem) ∧
       (∀ (byte bit : Nat) (bs : List Byte), byte < bytes.length → bit ≤ 8 →
         let y := { upTo byte bs with
           arbLost := x.arbLost + 1, arbBit := some bit, arbByte := some byte, cause := 2, waitFrom := s.now }
         (0 < x.attemptsLeft → ∃ t, exec (.auxXferDone (.arbitration byte bit bs)) s = .next t ∧
           t.aux.xfer = some { y with phase := .arbLost } ∧ t.aux.arbLosses = bump s.aux.arbLosses 1 ∧ t.chan = s.chan ∧
           t.mem = s.mem) ∧
         (x.attemptsLeft = 0 → ∃ t, exec (.auxXferDone (.arbitration byte bit bs)) s
           = .next (respond x.ch (st .busy) (auxResult y) t) ∧ t.aux.xfer = none ∧
           t.aux.arbLosses = bump s.aux.arbLosses 1 ∧ t.mem = s.mem))) ∧
     (x.phase ≠ .transferring → ∀ r, exec (.auxXferDone r) s = .next s)) ∧
   (∀ (r : AuxBusRx) (s : State), s.aux.xfer = none → exec (.auxXferDone r) s = .next s ∧ exec .auxBusFree s = .next s ∧
     exec .auxRetry s = .next s ∧ exec .auxBusyTimeout s = .next s)) ∧
  (∀ s : State,
     (auxEnable s.aux.regs = true → auxSclLimit s.aux.regs ≠ 0 → s.aux.afterTimeout = false →
       (s.aux.xfer = none → exec .auxSclTimeout s = .next { s with aux := { s.aux with
         sclTimeouts := bump s.aux.sclTimeouts 1, afterTimeout := true, busBusy := true, clearRunning := false } }) ∧
       (∀ x, s.aux.xfer = some x → abortLanded s x.ch = false → ∃ t, exec .auxSclTimeout s
         = .next (respond x.ch .timeout (auxResult { x with cause := 3 }) t) ∧ t.aux.xfer = none ∧
         t.aux.afterTimeout = true ∧ t.aux.sclTimeouts = bump s.aux.sclTimeouts 1)) ∧
     (auxSclLimit s.aux.regs = 0 ∨ auxEnable s.aux.regs = false ∨ s.aux.afterTimeout = true → exec .auxSclTimeout s = .next s) ∧
     (s.aux.afterTimeout = true →
       exec (.auxSclHighAfterTimeout true) s
         = .next { s with aux := { s.aux with afterTimeout := false, busBusy := false, lastStop := some s.now } } ∧
       exec (.auxSclHighAfterTimeout false) s
         = .next { s with aux := { s.aux with afterTimeout := false, clearRunning := true } }) ∧
     (∀ b, s.aux.afterTimeout = false → exec (.auxSclHighAfterTimeout b) s = .next s) ∧
     (auxEnable s.aux.regs = true → s.aux.clearRunning = true ∨ auxSdaLimit s.aux.regs ≠ 0 →
       let timeouts := if s.aux.clearRunning then s.aux.sdaTimeouts else bump s.aux.sdaTimeouts 1
       (∀ n, exec (.auxBusClear (some n)) s = .next { s with aux := { s.aux with
         clearRunning := false, clearFailing := false, busClears := bump s.aux.busClears 1, sdaTimeouts := timeouts
         busBusy := false, lastStop := some s.now } }) ∧
       (s.aux.xfer = none → exec (.auxBusClear none) s = .next { s with aux := { s.aux with
         clearRunning := false, clearFailing := true, busClears := bump s.aux.busClears 1, sdaTimeouts := timeouts } }) ∧
       (∀ x, s.aux.xfer = some x → abortLanded s x.ch = false → ∃ t, exec (.auxBusClear none) s
         = .next (respond x.ch .timeout (auxResult { x with cause := 4 }) t) ∧ t.aux.xfer = none ∧
         t.aux.clearFailing = true ∧ t.aux.busClears = bump s.aux.busClears 1 ∧ t.aux.sdaTimeouts = timeouts)) ∧
     (∀ n, auxEnable s.aux.regs = false ∨ (s.aux.clearRunning = false ∧ auxSdaLimit s.aux.regs = 0) →
       exec (.auxBusClear n) s = .next s) ∧
     (∀ r, s.aux.pending = some r →
       (s.aux.xfer = none → exec .auxCfgApply s
         = .next { s with aux := { s.aux with regs := r, pending := none, busBusy := false } }) ∧
       (∀ x, s.aux.xfer = some x → x.started = false →
         (auxEnable r = true → exec .auxCfgApply s
           = .next { s with aux := { s.aux with regs := r, pending := none, busBusy := false } }) ∧
         (auxEnable r = false → abortLanded s x.ch = false → exec .auxCfgApply s = .next (respond x.ch .badState []
           { s with aux := { s.aux with regs := r, pending := none, busBusy := false, xfer := none } })))) ∧
     (s.aux.pending = none ∨ auxOnBus s = true → exec .auxCfgApply s = .next s))

/-- GPIO inputs, the rows GPIO_EDGE and GPIO_DEBOUNCE_DONE (R536): a transition on an event input starts its debounce;
a level that has held for `debounce_us` is taken, and counted when its edge is one of those chosen; with no time left
to wait the level of a transition is taken at once; on any other GPIO only the pin changes. The trace queue (R22, R25,
R540 to R544): a happening makes its packet while the port is enabled and the filters let it pass, and so does a
packet of the firmware; a packet enters TRCQ whole, behind what has left by its time, when it has room, and else is
dropped whole and its words counted; after a drop, room for two words brings an OVERFLOW packet, and a SYNC packet
follows it into what room is left; a restart of the clock sends a SYNC packet ahead of the rest. Model's choice, not
the spec's: a row that is not due changes nothing (notes/assumptions/9.md); trace packets are operands
(notes/assumptions/68.md); the detail of packets that the spec leaves open (notes/assumptions/133.md). -/
def Obligations.GpioAndTrace : Prop :=
  (∀ (i : Fin 8) (level : Bool) (s : State), let g := s.gpio[i]
     let counts (lv : Bool) : Nat := if g.cfg.edge = 2 ∨ (g.cfg.edge = 0 ∧ lv = true) ∨ (g.cfg.edge = 1 ∧ lv = false) then 1 else 0
     let held (n : Nat) : Bool := usPassed s n g.cfg.debounceUs
     (g.pin = level → exec (.gpioEdge i level) s = .next s) ∧
     (g.pin ≠ level → gpioFunction s i ≠ 5 →
       exec (.gpioEdge i level) s = .next { s with gpio := s.gpio.set i { g with pin := level } }) ∧
     (g.pin ≠ level → gpioFunction s i = 5 → ∃ t, exec (.gpioEdge i level) s = .next t ∧ t = { s with gpio := t.gpio } ∧
       (∀ k : Fin 8, k ≠ i → t.gpio[k] = s.gpio[k]) ∧ t.gpio[i].pin = level ∧ t.gpio[i].cfg = g.cfg ∧
       (held s.now = false →
         (g.candidate.all (fun e => !held e.2) = true → t.gpio[i].taken = g.taken ∧ t.gpio[i].edges = g.edges ∧
           t.gpio[i].candidate = if level = g.taken then none else some (level, s.now)) ∧
         (∀ lv n, g.candidate = some (lv, n) → held n = true → t.gpio[i].taken = lv ∧
           t.gpio[i].edges = g.edges + counts lv ∧ t.gpio[i].candidate = if level = lv then none else some (level, s.now))) ∧
       (held s.now = true → t.gpio[i].taken = level ∧ t.gpio[i].candidate = none ∧
         (g.candidate = none → t.gpio[i].edges = g.edges + if level = g.taken then 0 else counts level))) ∧
     (gpioFunction s i ≠ 5 ∨ g.candidate.all (fun e => !held e.2) = true → exec (.gpioDebounceDone i) s = .next s) ∧
     (∀ lv n, gpioFunction s i = 5 → g.candidate = some (lv, n) → held n = true →
       ∃ t, exec (.gpioDebounceDone i) s = .next t ∧ t = { s with gpio := t.gpio } ∧
         (∀ k : Fin 8, k ≠ i → t.gpio[k] = s.gpio[k]) ∧ t.gpio[i].taken = lv ∧ t.gpio[i].candidate = none ∧
         t.gpio[i].pin = g.pin ∧ t.gpio[i].edges = g.edges + counts lv ∧
         (counts lv = 1 → t.gpio[i].firstEdge = if g.edges = 0 then n else g.firstEdge))) ∧
  ((∀ (e : Event) (s : State), let ws : List Word := [traceHeader 2 2 s.now,
       BitVec.ofNat 32 (e.code.toNat * 65536 + e.object.toNat), BitVec.ofNat 32 s.evSeq.toNat]
     s.host.evtHead - s.host.evtTail ≠ 64 → s.trace.cfg.enable = true → traceWanted s.trace.cfg ws = true →
     (postEvent s e).trace.happened = s.trace.happened ++ [(s.now, ws)]) ∧
   (∀ (i : Fin 48) (ts : Nat) (new : SlotState) (reason : Nat) (s : State),
     let ws : List Word := [traceHeader 3 1 ts, traceWord 0 i.val (slotCode s.slots[i].state) (slotCode new)]
     s.slots[i].visit = false → s.slots[i].state ≠ new → s.trace.cfg.enable = true → traceWanted s.trace.cfg ws = true →
     (setSlotStateAt ts i new reason s).trace.happened = s.trace.happened ++ [(ts, ws)]) ∧
   (∀ (p : List Word) (s : State), s.trace.happened = [] → let ws := traceHeader 4 p.length s.now :: p
     let s1 := overflowRule (drainTo s.now s)
     (s.trace.cfg.enable = true → fwStands p = true → traceWanted s.trace.cfg ws = true →
       (ws.length ≤ traceRoom s1.trace → exec (.tracePacket p) s
         = .next (drainTo s.now { s1 with trace := { s1.trace with queue := s1.trace.queue ++ [ws] } })) ∧
       (traceRoom s1.trace < ws.length → exec (.tracePacket p) s = .next (drainTo s.now { s1 with
         trace := { s1.trace with dropped := s1.trace.dropped + ws.length }
         counters := { s1.counters with traceWordsDropped := bump s1.counters.traceWordsDropped ws.length } }))) ∧
     (s.trace.cfg.enable = false ∨ fwStands p = false ∨ traceWanted s.trace.cfg ws = false →
       exec (.tracePacket p) s = .next (drainTo s.now s))) ∧
   (∀ s : State, s.trace.cfg.enable = true → let s1 := drainTrace s
     (s1.trace.dropped ≠ 0 → 6 ≤ traceRoom s1.trace → ∃ t, exec .traceOverflowPacket s = .next t ∧ t.trace.dropped = 0 ∧
       t.trace.queue = s1.trace.queue ++ [overflowPacket s.now s1.trace.dropped, syncPacket s.now] ∧ t.mem = s.mem ∧
       t.slots = s.slots) ∧
     (s1.trace.dropped ≠ 0 → 2 ≤ traceRoom s1.trace → traceRoom s1.trace < 6 → ∃ t, exec .traceOverflowPacket s = .next t ∧
       t.trace.queue = s1.trace.queue ++ [overflowPacket s.now s1.trace.dropped] ∧ t.trace.dropped = 4) ∧
     (s1.trace.dropped = 0 ∨ traceRoom s1.trace < 2 → exec .traceOverflowPacket s = .next s1)) ∧
   (∀ s : State, s.trace.cfg.enable = false → exec .traceOverflowPacket s = .next s) ∧
   (∀ (n : Nat) (s : State), s.trace.restartAt = some n →
     (n ≤ s.now → exec .traceClkRestart s = .next { s with trace := { s.trace with
       own := syncPacket s.now, clockFrom := s.now, wordsDone := 0, word := 0xFFFFFFFF, restartAt := none } }) ∧
     (s.now < n → exec .traceClkRestart s = .next s)) ∧
   (∀ s : State, s.trace.restartAt = none → exec .traceClkRestart s = .next s))

/-- A stroke boundary at which nothing is due to change (R28, R49, R55, R105): device time has come to it, its number
and every status record are latched, and the counters are latched with what happened before it; while PD1 is in reset
there is none. Model's choice, not the spec's: rows at a boundary (notes/assumptions/56.md); when events are posted
(notes/assumptions/57.md); slots without a sample (notes/assumptions/58.md). -/
def Obligations.StrokeBoundary : Prop :=
  (∀ s : State, s.pd1 = false → exec .strokeBoundary s = .next s) ∧
  (∀ s : State, s.pd1 = true → s.resetAt = none → s.accepted = [] →
    s.link.parts = [] → s.link.outageDue = none → s.link.returning = [] → bootEnding s = none → ∃ t,
    exec .strokeBoundary s = .next t ∧ t.latch.stroke = s.latch.stroke + 1 ∧
    t.now = max s.now ((s.latch.stroke + 1) * 24576) ∧ t.counterLatch.latchStroke = s.latch.stroke + 1 ∧
    t.latch.slots = t.slots ∧ t.latch.inputs = t.inputs ∧ t.latch.convs = t.convs ∧ t.latch.outs = t.outs ∧
    t.latch.ports = t.ports ∧ t.latch.store = t.store ∧ t.latch.db = t.db ∧ t.latch.gpio = t.gpio ∧
    t.latch.faults = t.faults ∧ t.pd1 = true ∧
    (s.evq = [] → s.trace.cfg.enable = false → s.trace.happened = [] → t.counterLatch = { s.counters with latchStroke := s.latch.stroke + 1 }))

/-! ### What applied settings set -/

/-- A transaction of one command, applied on a device that is no local and has no census visit, sets what the command
sets: the parameters of an input, a converter, a slot, the side data, the census, a port, an output, the store, a rec,
the queues, the link, a GPIO, the trace port and the aux controller; an assigned slot is ACQUIRING with its tuning, a
released one FREE, and no other slot is touched. Model's choice, not the spec's: shadow loads
(notes/assumptions/31.md); edge cases of GPIO_SET (notes/assumptions/71.md). -/
def Obligations.AppliedSettings : Prop :=
  ∀ s : State, isLocal s = false → s.census.visits = [] →
    (∀ i v, (applyTxn [.feBellowsSet i v] s).inputs[i].cfg = v) ∧
    (∀ i v, (applyTxn [.temperSet i v] s).convs[i].cfg = v) ∧
    (∀ i v, s.slots[i].state = .free → s.slots[i].visit = false → let t := applyTxn [.slotAssign i v] s
      t.slots[i].tune = v ∧ t.slots[i].state = .acquiring ∧ ∀ k : Fin 48, k ≠ i → t.slots[k] = s.slots[k]) ∧
    (∀ i, s.slots[i].visit = false → let t := applyTxn [.slotRelease i] s
      t.slots[i].state = .free ∧ ∀ k : Fin 48, k ≠ i → t.slots[k] = s.slots[k]) ∧
    (∀ i v, (applyTxn [.slotFmSet i v] s).slots[i].fm = v) ∧ (∀ i v, (applyTxn [.slotAmSet i v] s).slots[i].am = v) ∧
    (∀ v, isRemote s = false → (applyTxn [.sideSet v] s).side.cfg = v) ∧
    (∀ v, (applyTxn [.sideStreamSet v] s).side.stream = v) ∧ (∀ v, (applyTxn [.censusSet v] s).census.cfg = v) ∧
    (∀ p v, (applyTxn [.portSet p v] s).ports[p].cfg = v) ∧
    (∀ p k v, (applyTxn [.outMapSet p k v] s).ports[p].map[k] = v) ∧
    (∀ o st legB r, (applyTxn [.outFilterSet o st legB r] s).outs[o].shadow[bankOf st legB] = r) ∧
    (∀ o v clear, (applyTxn [.outDetectSet o v clear] s).outs[o].detect = v) ∧
    (∀ v, (applyTxn [.storeMaintSet v] s).store.maint = v) ∧
    (∀ n kbps burst, let t := applyTxn [.policeSet n kbps burst] s
      (recOf t.store n).policeKbps = kbps ∧ (recOf t.store n).policeBurst = burst) ∧
    (∀ v, ∀ e ∈ (applyTxn [.dispatchSet false v] s).dispatch.queues, v.first ≤ e.1 → e.1 ≤ v.last →
      e.2.rate = v.rate ∧ e.2.burst = v.burst ∧ e.2.overhead = v.overhead) ∧
    (∀ v, (applyTxn [.linkSet v] s).link.cfg = v) ∧
    (∀ i fn v, let t := applyTxn [.gpioSet false i fn v] s
      t.gpio[i].cfg = v ∧ t.gpio[i].function = fn ∧ t.gpio[i].edges = 0) ∧
    (∀ v, (applyTxn [.traceSet false v] s).trace.cfg = v) ∧
    (∀ v, s.aux.xfer = none → s.aux.busBusy = false → (applyTxn [.auxCfgSet false v] s).aux.regs = v)
end

