-- ==== Sys2Proof/Laws/Bytes.lean ====
section
/-! SUPPORT. Lengths of the byte forms of numbers (R12, R591). -/

namespace Sys2Proof.Laws

open Sys2Proof.Machine

@[simp] theorem leBytes_length (k n : Nat) : (leBytes k n).length = k := by
  induction k generalizing n with
  | zero => rfl
  | succ k ih => simp [leBytes, ih]

@[simp] theorem u8_length (n : Nat) : (u8 n).length = 1 := leBytes_length 1 n
@[simp] theorem u16_length (n : Nat) : (u16 n).length = 2 := leBytes_length 2 n
@[simp] theorem u32_length (n : Nat) : (u32 n).length = 4 := leBytes_length 4 n
@[simp] theorem u64_length (n : Nat) : (u64 n).length = 8 := leBytes_length 8 n
@[simp] theorem sBytes_length (k : Nat) (i : Int) : (sBytes k i).length = k := leBytes_length k _
@[simp] theorem s8_length (i : Int) : (s8 i).length = 1 := sBytes_length 1 i
@[simp] theorem s16_length (i : Int) : (s16 i).length = 2 := sBytes_length 2 i
@[simp] theorem s32_length (i : Int) : (s32 i).length = 4 := sBytes_length 4 i
@[simp] theorem uBool_length (b : Bool) : (uBool b).length = 1 := u8_length _
@[simp] theorem opt8_length (o : Option Nat) : (opt8 o).length = 1 := u8_length _
@[simp] theorem opt16_length (o : Option Nat) : (opt16 o).length = 2 := u16_length _
@[simp] theorem opt32_length (o : Option Nat) : (opt32 o).length = 4 := u32_length _
@[simp] theorem opt64_length (o : Option Nat) : (opt64 o).length = 8 := u64_length _
@[simp] theorem optS16_length (o : Option Int) : (optS16 o).length = 2 := s16_length _
@[simp] theorem optS32_length (o : Option Int) : (optS32 o).length = 4 := s32_length _
@[simp] theorem zeros_length (k : Nat) : (zeros k).length = k := List.length_replicate
@[simp] theorem wordBytes_length (w : Word) : (wordBytes w).length = 4 := leBytes_length 4 _

/-- Entries of one size joined. -/
theorem flatMap_length_const {α : Type} (l : List α) (f : α → List Byte) (k : Nat) (h : ∀ x ∈ l, (f x).length = k) :
    (l.flatMap f).length = k * l.length := by
  induction l with
  | nil => rfl
  | cons x xs ih =>
    simp only [List.flatMap_cons, List.length_append, List.length_cons, h x (by simp)]
    rw [ih fun y hy => h y (by simp [hy])]
    rw [Nat.mul_succ]; omega

/-- The first bytes of a record that begins with a 64-bit number. -/
@[simp] theorem take_u64_append (n : Nat) (l : List Byte) : (u64 n ++ l).take 8 = u64 n := by
  rw [List.take_append_of_le_length (by simp)]
  exact List.take_of_length_le (by simp)

/-! ### The window memory (log entry 5) -/

theorem memRead_nil (a : Nat) : memRead [] a = 0 := rfl

end Sys2Proof.Laws
end

