-- ==== Sys2Proof/Laws/Mailbox.lean ====
section
/-! SUPPORT. What the mailbox's shared operations can do: one lemma for each outcome of `serveWith` (R553), and the
response operation's effect on every field it touches (R86, R88). -/

namespace Sys2Proof.Laws

open Sys2Proof.Machine Sys2Proof.Safety

variable {α : Type} {ch : Fin 4} {opcode : Nat} {k : Kind} {owns : Bool} {err : List Byte}
  {parse : List Byte → Option α} {run : α → Req → State → Served} {s : State}

/-- A request that is not the one S0 takes next, or has another opcode, changes nothing. -/
theorem serveWith_untaken (h : taken s ch opcode = false) : serveWith ch opcode k owns err parse run s = s := by
  simp [serveWith, h]

/-- A request refused by the checks ahead of its payload. -/
theorem serveWith_refused {st : Status} (h : taken s ch opcode = true) (hp : preCheck s ch k owns (reqOf s ch) = some st) :
    serveWith ch opcode k owns err parse run s = respond ch st err (takeOut s ch) := by
  simp [serveWith, h, hp]

/-- A payload out of range ends with `ST_BAD_PARAM`. -/
theorem serveWith_badPayload (h : taken s ch opcode = true) (hp : preCheck s ch k owns (reqOf s ch) = none)
    (hr : parse (reqOf s ch).payload = none) :
    serveWith ch opcode k owns err parse run s = respond ch .badParam err (takeOut s ch) := by
  simp [serveWith, h, hp, hr]

/-- A request that passes its checks is served. -/
theorem serveWith_served {a : α} (h : taken s ch opcode = true) (hp : preCheck s ch k owns (reqOf s ch) = none)
    (hr : parse (reqOf s ch).payload = some a) :
    serveWith ch opcode k owns err parse run s
      = settle ch (reqOf s ch).dry (takeOut s ch) (run a (reqOf s ch) (takeOut s ch)) := by
  simp [serveWith, h, hp, hr]

/-! ### Answers -/

@[simp] theorem settle_answer_read (dry : Bool) (s0 : State) (st : Status) (p : List Byte) :
    settle ch dry s0 (.answer st p s0) = respond ch st p s0 := by
  simp [settle]

@[simp] theorem settle_refuse (dry : Bool) (s0 : State) (st : Status) :
    settle ch dry s0 (refuse st s0) = respond ch st [] s0 := by
  simp [refuse]

@[simp] theorem settle_answer_wet (s0 s1 : State) (st : Status) (p : List Byte) :
    settle ch false s0 (.answer st p s1) = respond ch st p s1 := rfl

@[simp] theorem settle_wait_wet (s0 s1 : State) (op : ActiveOp) (d : Status × List Byte) :
    settle ch false s0 (.wait op d s1) = { s1 with ops := s1.ops.set ch (some op) } := rfl

@[simp] theorem settle_hold (dry : Bool) (s0 s1 : State) (op : ActiveOp) :
    settle ch dry s0 (.hold op s1) = { s1 with ops := s1.ops.set ch (some op) } := rfl

/-! ### `respond`, field by field -/

@[simp] theorem respond_chan (st : Status) (p : List Byte) (s : State) : (respond ch st p s).chan = s.chan.set ch .done := rfl
@[simp] theorem respond_ringOrder (st : Status) (p : List Byte) (s : State) :
    (respond ch st p s).ringOrder = s.ringOrder.filter (· != ch) := rfl
@[simp] theorem respond_txns (st : Status) (p : List Byte) (s : State) : (respond ch st p s).txns = s.txns := rfl
@[simp] theorem respond_accepted (st : Status) (p : List Byte) (s : State) : (respond ch st p s).accepted = s.accepted := rfl
@[simp] theorem respond_slots (st : Status) (p : List Byte) (s : State) : (respond ch st p s).slots = s.slots := rfl
@[simp] theorem respond_now (st : Status) (p : List Byte) (s : State) : (respond ch st p s).now = s.now := rfl
@[simp] theorem respond_evq (st : Status) (p : List Byte) (s : State) : (respond ch st p s).evq = s.evq := rfl
@[simp] theorem respond_mem (st : Status) (p : List Byte) (s : State) :
    (respond ch st p s).mem = memWrite s.mem (respBase ch) (responseBytes (reqOf s ch) st (p.take 496)) := rfl
@[simp] theorem respond_irqStatus (st : Status) (p : List Byte) (s : State) :
    (respond ch st p s).host.irqStatus = s.host.irqStatus ||| BitVec.ofNat 10 (2 ^ ch.val) := rfl

@[simp] theorem takeOut_mem (s : State) : (takeOut s ch).mem = s.mem := rfl
@[simp] theorem takeOut_txns (s : State) : (takeOut s ch).txns = s.txns := rfl
@[simp] theorem takeOut_now (s : State) : (takeOut s ch).now = s.now := rfl
@[simp] theorem takeOut_latch (s : State) : (takeOut s ch).latch = s.latch := rfl
@[simp] theorem takeOut_host (s : State) : (takeOut s ch).host = s.host := rfl
@[simp] theorem reqOf_takeOut (s : State) (c : Fin 4) : reqOf (takeOut s ch) c = reqOf s c := rfl

end Sys2Proof.Laws
end

