-- ==== Sys2Proof/Laws/Memory.lean ====
section
/-! SUPPORT. The window memory: its one operation keeps the canonical form, a read after a write gives the bytes
written, and every other address reads as before (log entry 5). -/

namespace Sys2Proof.Laws

open Sys2Proof.Machine

/-- The canonical form as a proposition. -/
theorem memWf_iff (m : List Host.Cell) :
    memWf m = true ↔ m.Pairwise (fun x y => x.1 < y.1) ∧ ∀ c ∈ m, c.2 ≠ 0 := by
  simp [memWf]

/-- The cells of a run lie in the run and hold no zero. -/
theorem mem_cellsOf {bs : List Byte} {a : Nat} {c : Host.Cell} (h : c ∈ cellsOf a bs) :
    a ≤ c.1 ∧ c.1 < a + bs.length ∧ c.2 ≠ 0 := by
  induction bs generalizing a with
  | nil => simp [cellsOf] at h
  | cons b bs ih =>
    unfold cellsOf at h
    split at h
    · obtain ⟨h1, h2, h3⟩ := ih h
      exact ⟨by omega, by simp; omega, h3⟩
    · next hb =>
      rcases List.mem_cons.mp h with rfl | h
      · exact ⟨Nat.le_refl _, by simp, hb⟩
      · obtain ⟨h1, h2, h3⟩ := ih h
        exact ⟨by omega, by simp; omega, h3⟩

theorem cellsOf_pairwise (bs : List Byte) (a : Nat) : (cellsOf a bs).Pairwise (fun x y => x.1 < y.1) := by
  induction bs generalizing a with
  | nil => simp [cellsOf]
  | cons b bs ih =>
    unfold cellsOf
    split
    · exact ih _
    · refine List.pairwise_cons.mpr ⟨fun c hc => ?_, ih _⟩
      have := (mem_cellsOf hc).1
      simp only
      omega

/-- Every write keeps the canonical form. -/
theorem memWf_memWrite {m : List Host.Cell} (h : memWf m = true) (a : Nat) (bs : List Byte) :
    memWf (memWrite m a bs) = true := by
  rw [memWf_iff] at h ⊢
  obtain ⟨hp, hz⟩ := h
  refine ⟨?_, fun c hc => ?_⟩
  · simp only [memWrite, List.pairwise_append, List.mem_append, List.mem_filter, decide_eq_true_eq]
    refine ⟨⟨hp.filter _, cellsOf_pairwise bs a, fun x hx y hy => ?_⟩, hp.filter _, fun x hx y hy => ?_⟩
    · have := (mem_cellsOf hy).1
      omega
    · rcases hx with hx | hx
      · omega
      · have := (mem_cellsOf hx).2.1
        omega
  · simp only [memWrite, List.mem_append, List.mem_filter] at hc
    rcases hc with (hc | hc) | hc
    · exact hz c hc.1
    · exact (mem_cellsOf hc).2.2
    · exact hz c hc.1

/-- The empty memory is canonical. -/
theorem memWf_nil : memWf [] = true := rfl

/-- The cell a run gives an address. -/
theorem find_cellsOf_outside {bs : List Byte} {a x : Nat} (h : x < a ∨ a + bs.length ≤ x) :
    (cellsOf a bs).find? (fun c => c.1 == x) = none := by
  rw [List.find?_eq_none]
  intro c hc
  have := mem_cellsOf hc
  simp only [beq_iff_eq]
  omega

theorem memRead_cellsOf {bs : List Byte} {a i : Nat} (h : i < bs.length) :
    memRead (cellsOf a bs) (a + i) = bs[i] := by
  induction bs generalizing a i with
  | nil => simp at h
  | cons b bs ih =>
    unfold cellsOf
    cases i with
    | zero =>
      split
      · next hb =>
        have hn : (cellsOf (a + 1) bs).find? (fun c => c.1 == a) = none := find_cellsOf_outside (by omega)
        simp [memRead, hn, hb]
      · simp [memRead]
    | succ i =>
      have hi : i < bs.length := by simpa using h
      have := ih (a := a + 1) hi
      rw [show a + 1 + i = a + (i + 1) by omega] at this
      split
      · simpa using this
      · have hne : (a == a + (i + 1)) = false := by simp
        simp only [memRead, List.find?_cons, hne] at this ⊢
        simpa using this

theorem find_filter_of {m : List Host.Cell} {x : Nat} {p : Host.Cell → Bool} (h : ∀ c ∈ m, c.1 = x → p c = true) :
    (m.filter p).find? (fun c => c.1 == x) = m.find? (fun c => c.1 == x) := by
  rw [List.find?_filter]
  induction m with
  | nil => rfl
  | cons c m ih =>
    have := ih fun d hd => h d (by simp [hd])
    by_cases hc : c.1 = x
    · have hp := h c (by simp) hc
      simp [hc, hp]
    · simpa [List.find?_cons, hc] using this

theorem find_filter_none {m : List Host.Cell} {x : Nat} {p : Host.Cell → Bool} (h : ∀ c ∈ m, c.1 = x → p c = false) :
    (m.filter p).find? (fun c => c.1 == x) = none := by
  rw [List.find?_eq_none]
  intro c hc
  obtain ⟨hm, hp⟩ := List.mem_filter.mp hc
  intro hx
  simp [h c hm (by simpa using hx)] at hp

/-- An address outside the run reads as before. -/
theorem memRead_memWrite_outside (m : List Host.Cell) {a x : Nat} {bs : List Byte} (h : x < a ∨ a + bs.length ≤ x) :
    memRead (memWrite m a bs) x = memRead m x := by
  unfold memRead memWrite
  rw [List.find?_append, List.find?_append, find_cellsOf_outside h]
  rcases h with h | h
  · rw [find_filter_of (p := fun c => decide (c.1 < a)) (by intro c _ hc; simp; omega),
      find_filter_none (p := fun c => decide (a + bs.length ≤ c.1)) (by intro c _ hc; simp; omega)]
    simp
  · rw [find_filter_none (p := fun c => decide (c.1 < a)) (by intro c _ hc; simp; omega),
      find_filter_of (p := fun c => decide (a + bs.length ≤ c.1)) (by intro c _ hc; simp; omega)]
    simp

/-- An address in the run reads the byte written. -/
theorem memRead_memWrite_inside (m : List Host.Cell) {a i : Nat} {bs : List Byte} (h : i < bs.length) :
    memRead (memWrite m a bs) (a + i) = bs[i] := by
  have hc := memRead_cellsOf (a := a) h
  unfold memRead memWrite at *
  rw [List.find?_append, List.find?_append,
    find_filter_none (p := fun c => decide (c.1 < a)) (by intro c _ hc; simp; omega),
    find_filter_none (p := fun c => decide (a + bs.length ≤ c.1)) (by intro c _ hc; simp; omega)]
  simpa using hc

/-- The bytes of a run just written. -/
theorem memBytes_memWrite (m : List Host.Cell) (a : Nat) (bs : List Byte) :
    memBytes (memWrite m a bs) a bs.length = bs := by
  apply List.ext_getElem
  · simp [memBytes]
  · intro i _ h
    simp [memBytes, memRead_memWrite_inside m h]

/-- A run disjoint from the one written reads as before. -/
theorem memBytes_memWrite_outside (m : List Host.Cell) {a x k : Nat} {bs : List Byte}
    (h : x + k ≤ a ∨ a + bs.length ≤ x) : memBytes (memWrite m a bs) x k = memBytes m x k := by
  refine List.map_congr_left fun i hi => memRead_memWrite_outside m ?_
  have := List.mem_range.mp hi
  omega

end Sys2Proof.Laws
end

