-- ==== Sys2Proof/Laws/Window.lean ====
section
/-! SUPPORT. Which operations leave the host window alone: the window memory and the event ring's two indices (R101,
R103, R104) are as they were. One lemma per operation; the invariants over every step rest on them. -/
namespace Sys2Proof.Laws
open Sys2Proof.Machine

@[simp] theorem foldl_mem {α : Type} (f : State → α → State) (h : ∀ s x, (f s x).mem = s.mem) (l : List α) (s : State) :
    (l.foldl f s).mem = s.mem := by
  induction l generalizing s with
  | nil => rfl
  | cons x xs ih => simp [ih, h]
@[simp] theorem foldl_evtHead {α : Type} (f : State → α → State) (h : ∀ s x, (f s x).host.evtHead = s.host.evtHead) (l : List α) (s : State) :
    (l.foldl f s).host.evtHead = s.host.evtHead := by
  induction l generalizing s with
  | nil => rfl
  | cons x xs ih => simp [ih, h]
@[simp] theorem foldl_evtTail {α : Type} (f : State → α → State) (h : ∀ s x, (f s x).host.evtTail = s.host.evtTail) (l : List α) (s : State) :
    (l.foldl f s).host.evtTail = s.host.evtTail := by
  induction l generalizing s with
  | nil => rfl
  | cons x xs ih => simp [ih, h]

theorem foldl_window {α : Type} (f : State → α → State)
    (h : ∀ s x, (f s x).mem = s.mem ∧ (f s x).host.evtHead = s.host.evtHead ∧ (f s x).host.evtTail = s.host.evtTail)
    (l : List α) (s : State) :
    (l.foldl f s).mem = s.mem ∧ (l.foldl f s).host.evtHead = s.host.evtHead ∧ (l.foldl f s).host.evtTail = s.host.evtTail :=
  ⟨foldl_mem f (fun s x => (h s x).1) l s, foldl_evtHead f (fun s x => (h s x).2.1) l s,
    foldl_evtTail f (fun s x => (h s x).2.2) l s⟩

theorem foldl_window' {α : Type} (f : State → α → State) (r s : State)
    (hs : s.mem = r.mem ∧ s.host.evtHead = r.host.evtHead ∧ s.host.evtTail = r.host.evtTail)
    (h : ∀ s x, (f s x).mem = s.mem ∧ (f s x).host.evtHead = s.host.evtHead ∧ (f s x).host.evtTail = s.host.evtTail)
    (l : List α) :
    (l.foldl f s).mem = r.mem ∧ (l.foldl f s).host.evtHead = r.host.evtHead ∧ (l.foldl f s).host.evtTail = r.host.evtTail := by
  obtain ⟨a, b, c⟩ := foldl_window f h l s
  exact ⟨a.trans hs.1, b.trans hs.2.1, c.trans hs.2.2⟩

@[simp] theorem raiseIrq_window (s : State) (a1 : BitVec 10) :
    (raiseIrq s a1).mem = s.mem ∧ (raiseIrq s a1).host.evtHead = s.host.evtHead ∧ (raiseIrq s a1).host.evtTail = s.host.evtTail := by
  exact ⟨rfl, rfl, rfl⟩

@[simp] theorem setWriteRejected_window (s : State) :
    (setWriteRejected s).mem = s.mem ∧ (setWriteRejected s).host.evtHead = s.host.evtHead ∧ (setWriteRejected s).host.evtTail = s.host.evtTail := by
  unfold setWriteRejected
  (try dsimp only)
  (repeat' split) <;> simp

@[simp] theorem setWrDropped_window (s : State) :
    (setWrDropped s).mem = s.mem ∧ (setWrDropped s).host.evtHead = s.host.evtHead ∧ (setWrDropped s).host.evtTail = s.host.evtTail := by
  unfold setWrDropped
  (try dsimp only)
  (repeat' split) <;> simp

@[simp] theorem setPartialWord_window (s : State) :
    (setPartialWord s).mem = s.mem ∧ (setPartialWord s).host.evtHead = s.host.evtHead ∧ (setPartialWord s).host.evtTail = s.host.evtTail := by
  unfold setPartialWord
  (try dsimp only)
  (repeat' split) <;> simp

@[simp] theorem setAddrError_window (s : State) :
    (setAddrError s).mem = s.mem ∧ (setAddrError s).host.evtHead = s.host.evtHead ∧ (setAddrError s).host.evtTail = s.host.evtTail := by
  unfold setAddrError
  (try dsimp only)
  (repeat' split) <;> simp

@[simp] theorem setRstartInAck_window (s : State) :
    (setRstartInAck s).mem = s.mem ∧ (setRstartInAck s).host.evtHead = s.host.evtHead ∧ (setRstartInAck s).host.evtTail = s.host.evtTail := by
  unfold setRstartInAck
  (try dsimp only)
  (repeat' split) <;> simp

@[simp] theorem setSclTimeout_window (s : State) :
    (setSclTimeout s).mem = s.mem ∧ (setSclTimeout s).host.evtHead = s.host.evtHead ∧ (setSclTimeout s).host.evtTail = s.host.evtTail := by
  unfold setSclTimeout
  (try dsimp only)
  (repeat' split) <;> simp

@[simp] theorem setSdaTimeout_window (s : State) :
    (setSdaTimeout s).mem = s.mem ∧ (setSdaTimeout s).host.evtHead = s.host.evtHead ∧ (setSdaTimeout s).host.evtTail = s.host.evtTail := by
  unfold setSdaTimeout
  (try dsimp only)
  (repeat' split) <;> simp

@[simp] theorem setFwStage_window (s : State) (a1 : Byte) :
    (setFwStage s a1).mem = s.mem ∧ (setFwStage s a1).host.evtHead = s.host.evtHead ∧ (setFwStage s a1).host.evtTail = s.host.evtTail := by
  unfold setFwStage
  (try dsimp only)
  (repeat' split) <;> simp

@[simp] theorem queueEventAt_window (s : State) (a1 : Nat) (a2 : Nat) (a3 : Nat) (a4 : List Byte) :
    (queueEventAt s a1 a2 a3 a4).mem = s.mem ∧ (queueEventAt s a1 a2 a3 a4).host.evtHead = s.host.evtHead ∧ (queueEventAt s a1 a2 a3 a4).host.evtTail = s.host.evtTail := by
  exact ⟨rfl, rfl, rfl⟩

@[simp] theorem queueEvent_window (s : State) (a1 : Nat) (a2 : Nat) (a3 : List Byte) :
    (queueEvent s a1 a2 a3).mem = s.mem ∧ (queueEvent s a1 a2 a3).host.evtHead = s.host.evtHead ∧ (queueEvent s a1 a2 a3).host.evtTail = s.host.evtTail := by
  exact ⟨rfl, rfl, rfl⟩

@[simp] theorem noteTrace_window (a0 : Nat) (a1 : Nat) (a2 : List Word) (s : State) :
    (noteTrace a0 a1 a2 s).mem = s.mem ∧ (noteTrace a0 a1 a2 s).host.evtHead = s.host.evtHead ∧ (noteTrace a0 a1 a2 s).host.evtTail = s.host.evtTail := by
  exact ⟨rfl, rfl, rfl⟩

@[simp] theorem noteState_window (a0 : Nat) (a1 : Nat) (a2 : Nat) (a3 : Nat) (a4 : Nat) (s : State) :
    (noteState a0 a1 a2 a3 a4 s).mem = s.mem ∧ (noteState a0 a1 a2 a3 a4 s).host.evtHead = s.host.evtHead ∧ (noteState a0 a1 a2 a3 a4 s).host.evtTail = s.host.evtTail := by
  exact ⟨rfl, rfl, rfl⟩

@[simp] theorem raiseFault_window (s : State) (a1 : Nat) (a2 : Nat) (a3 : Nat) :
    (raiseFault s a1 a2 a3).mem = s.mem ∧ (raiseFault s a1 a2 a3).host.evtHead = s.host.evtHead ∧ (raiseFault s a1 a2 a3).host.evtTail = s.host.evtTail := by
  unfold raiseFault
  (try dsimp only)
  (repeat' split) <;> simp

@[simp] theorem noteMail_window (a0 : Fin 4) (a1 : Nat) (a2 : Nat) (s : State) :
    (noteMail a0 a1 a2 s).mem = s.mem ∧ (noteMail a0 a1 a2 s).host.evtHead = s.host.evtHead ∧ (noteMail a0 a1 a2 s).host.evtTail = s.host.evtTail := by
  exact ⟨rfl, rfl, rfl⟩

@[simp] theorem noteMark_window (a0 : Fin 4) (s : State) :
    (noteMark a0 s).mem = s.mem ∧ (noteMark a0 s).host.evtHead = s.host.evtHead ∧ (noteMark a0 s).host.evtTail = s.host.evtTail := by
  exact ⟨rfl, rfl, rfl⟩

@[simp] theorem takeOut_window (s : State) (a1 : Fin 4) :
    (takeOut s a1).mem = s.mem ∧ (takeOut s a1).host.evtHead = s.host.evtHead ∧ (takeOut s a1).host.evtTail = s.host.evtTail := by
  exact ⟨rfl, rfl, rfl⟩

@[simp] theorem markCommitted_window (s : State) (a1 : Fin 4) :
    (markCommitted s a1).mem = s.mem ∧ (markCommitted s a1).host.evtHead = s.host.evtHead ∧ (markCommitted s a1).host.evtTail = s.host.evtTail := by
  unfold markCommitted
  (try dsimp only)
  (repeat' split) <;> simp

@[simp] theorem accrue_window (s : State) :
    (accrue s).mem = s.mem ∧ (accrue s).host.evtHead = s.host.evtHead ∧ (accrue s).host.evtTail = s.host.evtTail := by
  exact ⟨rfl, rfl, rfl⟩

@[simp] theorem refreshQueues_window (s : State) :
    (refreshQueues s).mem = s.mem ∧ (refreshQueues s).host.evtHead = s.host.evtHead ∧ (refreshQueues s).host.evtTail = s.host.evtTail := by
  exact ⟨rfl, rfl, rfl⟩

@[simp] theorem noteGrantOf_window (a0 : Nat) (a1 : Packet) (s : State) :
    (noteGrantOf a0 a1 s).mem = s.mem ∧ (noteGrantOf a0 a1 s).host.evtHead = s.host.evtHead ∧ (noteGrantOf a0 a1 s).host.evtTail = s.host.evtTail := by
  exact ⟨rfl, rfl, rfl⟩

@[simp] theorem applyDispatchSet_window (a0 : ShaperCfg) (s : State) :
    (applyDispatchSet a0 s).mem = s.mem ∧ (applyDispatchSet a0 s).host.evtHead = s.host.evtHead ∧ (applyDispatchSet a0 s).host.evtTail = s.host.evtTail := by
  exact ⟨rfl, rfl, rfl⟩

@[simp] theorem strokeDispatch_window (s : State) :
    (strokeDispatch s).mem = s.mem ∧ (strokeDispatch s).host.evtHead = s.host.evtHead ∧ (strokeDispatch s).host.evtTail = s.host.evtTail := by
  exact ⟨rfl, rfl, rfl⟩

@[simp] theorem enqueueAll_window (s : State) (a1 : Nat) (a2 : List Packet) :
    (enqueueAll s a1 a2).mem = s.mem ∧ (enqueueAll s a1 a2).host.evtHead = s.host.evtHead ∧ (enqueueAll s a1 a2).host.evtTail = s.host.evtTail := by
  unfold enqueueAll
  (try dsimp only)
  (repeat' split) <;> simp

@[simp] theorem noteInput_window (a0 : Fin 3) (a1 : FeInput) (a2 : FeInput) (s : State) :
    (noteInput a0 a1 a2 s).mem = s.mem ∧ (noteInput a0 a1 a2 s).host.evtHead = s.host.evtHead ∧ (noteInput a0 a1 a2 s).host.evtTail = s.host.evtTail := by
  unfold noteInput
  (try dsimp only)
  (repeat' split) <;> simp

@[simp] theorem modInput_window (s : State) (a1 : Fin 3) (a2 : FeInput → FeInput) :
    (modInput s a1 a2).mem = s.mem ∧ (modInput s a1 a2).host.evtHead = s.host.evtHead ∧ (modInput s a1 a2).host.evtTail = s.host.evtTail := by
  exact ⟨rfl, rfl, rfl⟩

@[simp] theorem stepInput_window (s : State) (a1 : Fin 3) (a2 : FeInput → FeInput) :
    (stepInput s a1 a2).mem = s.mem ∧ (stepInput s a1 a2).host.evtHead = s.host.evtHead ∧ (stepInput s a1 a2).host.evtTail = s.host.evtTail := by
  exact ⟨rfl, rfl, rfl⟩

@[simp] theorem applyBellows_window (a0 : Fin 3) (a1 : BellowsCfg) (s : State) :
    (applyBellows a0 a1 s).mem = s.mem ∧ (applyBellows a0 a1 s).host.evtHead = s.host.evtHead ∧ (applyBellows a0 a1 s).host.evtTail = s.host.evtTail := by
  exact ⟨rfl, rfl, rfl⟩

@[simp] theorem strokeFrontEnd_window (s : State) :
    (strokeFrontEnd s).mem = s.mem ∧ (strokeFrontEnd s).host.evtHead = s.host.evtHead ∧ (strokeFrontEnd s).host.evtTail = s.host.evtTail := by
  unfold strokeFrontEnd
  (try dsimp only)
  (repeat' split) <;> (first | (simp; done) | (refine foldl_window' _ _ _ (by simp) (fun s x => ?_) _ <;> (try dsimp only) <;> (repeat' split) <;> simp))

@[simp] theorem startForeground_window (a0 : Fin 3) (s : State) :
    (startForeground a0 s).mem = s.mem ∧ (startForeground a0 s).host.evtHead = s.host.evtHead ∧ (startForeground a0 s).host.evtTail = s.host.evtTail := by
  exact ⟨rfl, rfl, rfl⟩

@[simp] theorem temperDone_window (a0 : Fin 3) (a1 : Nat) (a2 : Nat) (s : State) :
    (temperDone a0 a1 a2 s).mem = s.mem ∧ (temperDone a0 a1 a2 s).host.evtHead = s.host.evtHead ∧ (temperDone a0 a1 a2 s).host.evtTail = s.host.evtTail := by
  unfold temperDone
  (try dsimp only)
  (repeat' split) <;> simp

@[simp] theorem foregroundGain_window (a0 : Fin 3) (s : State) :
    (foregroundGain a0 s).mem = s.mem ∧ (foregroundGain a0 s).host.evtHead = s.host.evtHead ∧ (foregroundGain a0 s).host.evtTail = s.host.evtTail := by
  unfold foregroundGain
  (try dsimp only)
  (repeat' split) <;> simp

@[simp] theorem beginFrames_window (a0 : Fin 3) (s : State) :
    (beginFrames a0 s).mem = s.mem ∧ (beginFrames a0 s).host.evtHead = s.host.evtHead ∧ (beginFrames a0 s).host.evtTail = s.host.evtTail := by
  exact ⟨rfl, rfl, rfl⟩

@[simp] theorem noteSwap_window (a0 : Fin 3) (a1 : TemperConv) (s : State) :
    (noteSwap a0 a1 s).mem = s.mem ∧ (noteSwap a0 a1 s).host.evtHead = s.host.evtHead ∧ (noteSwap a0 a1 s).host.evtTail = s.host.evtTail := by
  exact ⟨rfl, rfl, rfl⟩

@[simp] theorem enableInput_window (a0 : Fin 3) (s : State) :
    (enableInput a0 s).mem = s.mem ∧ (enableInput a0 s).host.evtHead = s.host.evtHead ∧ (enableInput a0 s).host.evtTail = s.host.evtTail := by
  exact ⟨rfl, rfl, rfl⟩

@[simp] theorem applyTemperSet_window (a0 : Fin 3) (a1 : TemperCfg) (s : State) :
    (applyTemperSet a0 a1 s).mem = s.mem ∧ (applyTemperSet a0 a1 s).host.evtHead = s.host.evtHead ∧ (applyTemperSet a0 a1 s).host.evtTail = s.host.evtTail := by
  exact ⟨rfl, rfl, rfl⟩

@[simp] theorem applyTemperRun_window (a0 : Fin 3) (a1 : Bool) (s : State) :
    (applyTemperRun a0 a1 s).mem = s.mem ∧ (applyTemperRun a0 a1 s).host.evtHead = s.host.evtHead ∧ (applyTemperRun a0 a1 s).host.evtTail = s.host.evtTail := by
  exact ⟨rfl, rfl, rfl⟩

@[simp] theorem applyTemperRestore_window (a0 : Fin 3) (a1 : TemperBlob) (s : State) :
    (applyTemperRestore a0 a1 s).mem = s.mem ∧ (applyTemperRestore a0 a1 s).host.evtHead = s.host.evtHead ∧ (applyTemperRestore a0 a1 s).host.evtTail = s.host.evtTail := by
  exact ⟨rfl, rfl, rfl⟩

@[simp] theorem modSlot_window (s : State) (a1 : Fin 48) (a2 : Slot → Slot) :
    (modSlot s a1 a2).mem = s.mem ∧ (modSlot s a1 a2).host.evtHead = s.host.evtHead ∧ (modSlot s a1 a2).host.evtTail = s.host.evtTail := by
  exact ⟨rfl, rfl, rfl⟩

@[simp] theorem setSlotStateAt_window (a0 : Nat) (a1 : Fin 48) (a2 : SlotState) (a3 : Nat) (s : State) :
    (setSlotStateAt a0 a1 a2 a3 s).mem = s.mem ∧ (setSlotStateAt a0 a1 a2 a3 s).host.evtHead = s.host.evtHead ∧ (setSlotStateAt a0 a1 a2 a3 s).host.evtTail = s.host.evtTail := by
  unfold setSlotStateAt
  (try dsimp only)
  (repeat' split) <;> simp

@[simp] theorem applyAssign_window (a0 : Fin 48) (a1 : SlotTune) (s : State) :
    (applyAssign a0 a1 s).mem = s.mem ∧ (applyAssign a0 a1 s).host.evtHead = s.host.evtHead ∧ (applyAssign a0 a1 s).host.evtTail = s.host.evtTail := by
  unfold applyAssign
  (try dsimp only)
  (repeat' split) <;> simp

@[simp] theorem applyTune_window (a0 : Fin 48) (a1 : SlotTune) (s : State) :
    (applyTune a0 a1 s).mem = s.mem ∧ (applyTune a0 a1 s).host.evtHead = s.host.evtHead ∧ (applyTune a0 a1 s).host.evtTail = s.host.evtTail := by
  unfold applyTune
  (try dsimp only)
  (repeat' split) <;> simp

@[simp] theorem applyStep_window (a0 : Fin 48) (a1 : Int) (s : State) :
    (applyStep a0 a1 s).mem = s.mem ∧ (applyStep a0 a1 s).host.evtHead = s.host.evtHead ∧ (applyStep a0 a1 s).host.evtTail = s.host.evtTail := by
  unfold applyStep
  (try dsimp only)
  (repeat' split) <;> simp

@[simp] theorem applyRelease_window (a0 : Fin 48) (s : State) :
    (applyRelease a0 s).mem = s.mem ∧ (applyRelease a0 s).host.evtHead = s.host.evtHead ∧ (applyRelease a0 s).host.evtTail = s.host.evtTail := by
  unfold applyRelease
  (try dsimp only)
  (repeat' split) <;> simp

@[simp] theorem applyFmSet_window (a0 : Fin 48) (a1 : FmCfg) (s : State) :
    (applyFmSet a0 a1 s).mem = s.mem ∧ (applyFmSet a0 a1 s).host.evtHead = s.host.evtHead ∧ (applyFmSet a0 a1 s).host.evtTail = s.host.evtTail := by
  exact ⟨rfl, rfl, rfl⟩

@[simp] theorem applyAmSet_window (a0 : Fin 48) (a1 : AmCfg) (s : State) :
    (applyAmSet a0 a1 s).mem = s.mem ∧ (applyAmSet a0 a1 s).host.evtHead = s.host.evtHead ∧ (applyAmSet a0 a1 s).host.evtTail = s.host.evtTail := by
  exact ⟨rfl, rfl, rfl⟩

@[simp] theorem slotHoldRule_window (a0 : Fin 48) (s : State) :
    (slotHoldRule a0 s).mem = s.mem ∧ (slotHoldRule a0 s).host.evtHead = s.host.evtHead ∧ (slotHoldRule a0 s).host.evtTail = s.host.evtTail := by
  unfold slotHoldRule
  (try dsimp only)
  (repeat' split) <;> simp

@[simp] theorem slotAcquisitionRule_window (a0 : Fin 48) (s : State) :
    (slotAcquisitionRule a0 s).mem = s.mem ∧ (slotAcquisitionRule a0 s).host.evtHead = s.host.evtHead ∧ (slotAcquisitionRule a0 s).host.evtTail = s.host.evtTail := by
  unfold slotAcquisitionRule
  (try dsimp only)
  (repeat' split) <;> simp

@[simp] theorem slotLossRule_window (a0 : Fin 48) (s : State) :
    (slotLossRule a0 s).mem = s.mem ∧ (slotLossRule a0 s).host.evtHead = s.host.evtHead ∧ (slotLossRule a0 s).host.evtTail = s.host.evtTail := by
  unfold slotLossRule
  (try dsimp only)
  (repeat' split) <;> simp

@[simp] theorem slotRecoveryRule_window (a0 : Fin 48) (s : State) :
    (slotRecoveryRule a0 s).mem = s.mem ∧ (slotRecoveryRule a0 s).host.evtHead = s.host.evtHead ∧ (slotRecoveryRule a0 s).host.evtTail = s.host.evtTail := by
  unfold slotRecoveryRule
  (try dsimp only)
  (repeat' split) <;> simp

@[simp] theorem slotFaultRule_window (a0 : Fin 48) (s : State) :
    (slotFaultRule a0 s).mem = s.mem ∧ (slotFaultRule a0 s).host.evtHead = s.host.evtHead ∧ (slotFaultRule a0 s).host.evtTail = s.host.evtTail := by
  unfold slotFaultRule
  (try dsimp only)
  (repeat' split) <;> simp

@[simp] theorem settleRule_window (a0 : Fin 48) (s : State) :
    (settleRule a0 s).mem = s.mem ∧ (settleRule a0 s).host.evtHead = s.host.evtHead ∧ (settleRule a0 s).host.evtTail = s.host.evtTail := by
  unfold settleRule
  (try dsimp only)
  (repeat' split) <;> simp

@[simp] theorem relatchSlot_window (a0 : Fin 48) (s : State) :
    (relatchSlot a0 s).mem = s.mem ∧ (relatchSlot a0 s).host.evtHead = s.host.evtHead ∧ (relatchSlot a0 s).host.evtTail = s.host.evtTail := by
  exact ⟨rfl, rfl, rfl⟩

@[simp] theorem dbBoundary_window (s : State) :
    (dbBoundary s).mem = s.mem ∧ (dbBoundary s).host.evtHead = s.host.evtHead ∧ (dbBoundary s).host.evtTail = s.host.evtTail := by
  exact ⟨rfl, rfl, rfl⟩

@[simp] theorem generationRule_window (s : State) :
    (generationRule s).mem = s.mem ∧ (generationRule s).host.evtHead = s.host.evtHead ∧ (generationRule s).host.evtTail = s.host.evtTail := by
  unfold generationRule
  (try dsimp only)
  (repeat' split) <;> simp

@[simp] theorem relatchDb_window (s : State) :
    (relatchDb s).mem = s.mem ∧ (relatchDb s).host.evtHead = s.host.evtHead ∧ (relatchDb s).host.evtTail = s.host.evtTail := by
  exact ⟨rfl, rfl, rfl⟩

@[simp] theorem dbRow_window (a0 : State → Bool) (s : State) :
    (dbRow a0 s).mem = s.mem ∧ (dbRow a0 s).host.evtHead = s.host.evtHead ∧ (dbRow a0 s).host.evtTail = s.host.evtTail := by
  unfold dbRow
  (try dsimp only)
  (repeat' split) <;> simp

@[simp] theorem queueChange_window (a0 : DbChange) (s : State) :
    (queueChange a0 s).mem = s.mem ∧ (queueChange a0 s).host.evtHead = s.host.evtHead ∧ (queueChange a0 s).host.evtTail = s.host.evtTail := by
  exact ⟨rfl, rfl, rfl⟩

@[simp] theorem mapStream_window (a0 : Stream) (a1 : Bool) (s : State) :
    (mapStream a0 a1 s).mem = s.mem ∧ (mapStream a0 a1 s).host.evtHead = s.host.evtHead ∧ (mapStream a0 a1 s).host.evtTail = s.host.evtTail := by
  exact ⟨rfl, rfl, rfl⟩

@[simp] theorem feedDb_window (s : State) :
    (feedDb s).mem = s.mem ∧ (feedDb s).host.evtHead = s.host.evtHead ∧ (feedDb s).host.evtTail = s.host.evtTail := by
  unfold feedDb
  (try dsimp only)
  (repeat' split) <;> simp

@[simp] theorem applySideSet_window (a0 : SideCfg) (s : State) :
    (applySideSet a0 s).mem = s.mem ∧ (applySideSet a0 s).host.evtHead = s.host.evtHead ∧ (applySideSet a0 s).host.evtTail = s.host.evtTail := by
  exact ⟨rfl, rfl, rfl⟩

@[simp] theorem applySideStream_window (a0 : SideStreamCfg) (s : State) :
    (applySideStream a0 s).mem = s.mem ∧ (applySideStream a0 s).host.evtHead = s.host.evtHead ∧ (applySideStream a0 s).host.evtTail = s.host.evtTail := by
  exact ⟨rfl, rfl, rfl⟩

@[simp] theorem sideAppend_window (a0 : List SideRec) (s : State) :
    (sideAppend a0 s).mem = s.mem ∧ (sideAppend a0 s).host.evtHead = s.host.evtHead ∧ (sideAppend a0 s).host.evtTail = s.host.evtTail := by
  unfold sideAppend
  (try dsimp only)
  (repeat' split) <;> simp

@[simp] theorem sideOut_window (a0 : Bool) (a1 : SideRec) (s : State) :
    (sideOut a0 a1 s).mem = s.mem ∧ (sideOut a0 a1 s).host.evtHead = s.host.evtHead ∧ (sideOut a0 a1 s).host.evtTail = s.host.evtTail := by
  unfold sideOut
  (try dsimp only)
  (repeat' split) <;> simp

@[simp] theorem modPad_window (s : State) (a1 : Fin 8) (a2 : PadRx → PadRx) :
    (modPad s a1 a2).mem = s.mem ∧ (modPad s a1 a2).host.evtHead = s.host.evtHead ∧ (modPad s a1 a2).host.evtTail = s.host.evtTail := by
  exact ⟨rfl, rfl, rfl⟩

@[simp] theorem labelChange_window (a0 : Fin 8) (a1 : PadGroup) (a2 : Byte) (a3 : Nat) (a4 : List Byte) (s : State) :
    (labelChange a0 a1 a2 a3 a4 s).mem = s.mem ∧ (labelChange a0 a1 a2 a3 a4 s).host.evtHead = s.host.evtHead ∧ (labelChange a0 a1 a2 a3 a4 s).host.evtTail = s.host.evtTail := by
  unfold labelChange
  (try dsimp only)
  (repeat' split) <;> simp

@[simp] theorem deliverPlus_window (a0 : Fin 8) (a1 : PadGroup) (s : State) (a3 : DlPlus) :
    (deliverPlus a0 a1 s a3).mem = s.mem ∧ (deliverPlus a0 a1 s a3).host.evtHead = s.host.evtHead ∧ (deliverPlus a0 a1 s a3).host.evtTail = s.host.evtTail := by
  unfold deliverPlus
  (try dsimp only)
  (repeat' split) <;> simp

@[simp] theorem publishLabel_window (a0 : Fin 8) (a1 : PadGroup) (a2 : Bool) (a3 : Nat) (a4 : List Byte) (s : State) :
    (publishLabel a0 a1 a2 a3 a4 s).mem = s.mem ∧ (publishLabel a0 a1 a2 a3 a4 s).host.evtHead = s.host.evtHead ∧ (publishLabel a0 a1 a2 a3 a4 s).host.evtTail = s.host.evtTail := by
  unfold publishLabel
  (try dsimp only)
  (repeat' split) <;> simp

@[simp] theorem completeLabel_window (a0 : Fin 8) (a1 : PadGroup) (a2 : Bool) (a3 : Nat) (a4 : List Byte) (s : State) :
    (completeLabel a0 a1 a2 a3 a4 s).mem = s.mem ∧ (completeLabel a0 a1 a2 a3 a4 s).host.evtHead = s.host.evtHead ∧ (completeLabel a0 a1 a2 a3 a4 s).host.evtTail = s.host.evtTail := by
  unfold completeLabel
  (try dsimp only)
  (repeat' split) <;> simp

@[simp] theorem takeSegment_window (a0 : Fin 8) (a1 : PadGroup) (a2 : Bool) (a3 : Bool) (a4 : Bool) (a5 : Nat) (a6 : Nat) (a7 : List Byte) (s : State) :
    (takeSegment a0 a1 a2 a3 a4 a5 a6 a7 s).mem = s.mem ∧ (takeSegment a0 a1 a2 a3 a4 a5 a6 a7 s).host.evtHead = s.host.evtHead ∧ (takeSegment a0 a1 a2 a3 a4 a5 a6 a7 s).host.evtTail = s.host.evtTail := by
  unfold takeSegment
  (try dsimp only)
  (repeat' split) <;> simp

@[simp] theorem abandonMot_window (a0 : Fin 8) (s : State) :
    (abandonMot a0 s).mem = s.mem ∧ (abandonMot a0 s).host.evtHead = s.host.evtHead ∧ (abandonMot a0 s).host.evtTail = s.host.evtTail := by
  exact ⟨rfl, rfl, rfl⟩

@[simp] theorem openMot_window (a0 : Fin 8) (a1 : Nat) (s : State) :
    (openMot a0 a1 s).mem = s.mem ∧ (openMot a0 a1 s).host.evtHead = s.host.evtHead ∧ (openMot a0 a1 s).host.evtTail = s.host.evtTail := by
  unfold openMot
  (try dsimp only)
  (repeat' split) <;> simp

@[simp] theorem finishMot_window (a0 : Fin 8) (a1 : PadGroup) (s : State) :
    (finishMot a0 a1 s).mem = s.mem ∧ (finishMot a0 a1 s).host.evtHead = s.host.evtHead ∧ (finishMot a0 a1 s).host.evtTail = s.host.evtTail := by
  unfold finishMot
  (try dsimp only)
  (repeat' split) <;> simp

@[simp] theorem takeMotHeader_window (a0 : Fin 8) (a1 : PadGroup) (a2 : Nat) (a3 : MotHeader) (s : State) :
    (takeMotHeader a0 a1 a2 a3 s).mem = s.mem ∧ (takeMotHeader a0 a1 a2 a3 s).host.evtHead = s.host.evtHead ∧ (takeMotHeader a0 a1 a2 a3 s).host.evtTail = s.host.evtTail := by
  unfold takeMotHeader
  (try dsimp only)
  (repeat' split) <;> simp

@[simp] theorem takeMotBody_window (a0 : Fin 8) (a1 : PadGroup) (a2 : Nat) (a3 : Nat) (a4 : Bool) (a5 : List Byte) (s : State) :
    (takeMotBody a0 a1 a2 a3 a4 a5 s).mem = s.mem ∧ (takeMotBody a0 a1 a2 a3 a4 a5 s).host.evtHead = s.host.evtHead ∧ (takeMotBody a0 a1 a2 a3 a4 a5 s).host.evtTail = s.host.evtTail := by
  unfold takeMotBody
  (try dsimp only)
  (repeat' split) <;> simp

@[simp] theorem takePad_window (a0 : Fin 8) (a1 : PadGroup) (s : State) :
    (takePad a0 a1 s).mem = s.mem ∧ (takePad a0 a1 s).host.evtHead = s.host.evtHead ∧ (takePad a0 a1 s).host.evtTail = s.host.evtTail := by
  unfold takePad
  (try dsimp only)
  (repeat' split) <;> simp

@[simp] theorem resetPad_window (a0 : Fin 8) (s : State) :
    (resetPad a0 s).mem = s.mem ∧ (resetPad a0 s).host.evtHead = s.host.evtHead ∧ (resetPad a0 s).host.evtTail = s.host.evtTail := by
  unfold resetPad
  (try dsimp only)
  (repeat' split) <;> simp

@[simp] theorem motTimeoutRule_window (a0 : Fin 8) (s : State) :
    (motTimeoutRule a0 s).mem = s.mem ∧ (motTimeoutRule a0 s).host.evtHead = s.host.evtHead ∧ (motTimeoutRule a0 s).host.evtTail = s.host.evtTail := by
  unfold motTimeoutRule
  (try dsimp only)
  (repeat' split) <;> simp

@[simp] theorem modRds_window (s : State) (a1 : Fin 48) (a2 : RdsRx → RdsRx) :
    (modRds s a1 a2).mem = s.mem ∧ (modRds s a1 a2).host.evtHead = s.host.evtHead ∧ (modRds s a1 a2).host.evtTail = s.host.evtTail := by
  exact ⟨rfl, rfl, rfl⟩

@[simp] theorem rawGroup_window (a0 : Fin 48) (s : State) :
    (rawGroup a0 s).mem = s.mem ∧ (rawGroup a0 s).host.evtHead = s.host.evtHead ∧ (rawGroup a0 s).host.evtTail = s.host.evtTail := by
  unfold rawGroup
  (try dsimp only)
  (repeat' split) <;> simp

@[simp] theorem queueGroup_window (a0 : Fin 48) (a1 : Nat) (a2 : List (DbKey × DbField × Bool)) (s : State) :
    (queueGroup a0 a1 a2 s).mem = s.mem ∧ (queueGroup a0 a1 a2 s).host.evtHead = s.host.evtHead ∧ (queueGroup a0 a1 a2 s).host.evtTail = s.host.evtTail := by
  unfold queueGroup
  (try dsimp only)
  (repeat' split) <;> simp

@[simp] theorem groupRule_window (a0 : Fin 48) (s : State) :
    (groupRule a0 s).mem = s.mem ∧ (groupRule a0 s).host.evtHead = s.host.evtHead ∧ (groupRule a0 s).host.evtTail = s.host.evtTail := by
  unfold groupRule
  (try dsimp only)
  (repeat' split) <;> simp

@[simp] theorem modDab_window (s : State) (a1 : Fin 48) (a2 : DabRx → DabRx) :
    (modDab s a1 a2).mem = s.mem ∧ (modDab s a1 a2).host.evtHead = s.host.evtHead ∧ (modDab s a1 a2).host.evtTail = s.host.evtTail := by
  exact ⟨rfl, rfl, rfl⟩

@[simp] theorem queueAll_window (a0 : List DbChange) (s : State) :
    (queueAll a0 s).mem = s.mem ∧ (queueAll a0 s).host.evtHead = s.host.evtHead ∧ (queueAll a0 s).host.evtTail = s.host.evtTail := by
  exact ⟨rfl, rfl, rfl⟩

@[simp] theorem unannouncedRule_window (a0 : Fin 48) (a1 : Nat) (s : State) :
    (unannouncedRule a0 a1 s).mem = s.mem ∧ (unannouncedRule a0 a1 s).host.evtHead = s.host.evtHead ∧ (unannouncedRule a0 a1 s).host.evtTail = s.host.evtTail := by
  unfold unannouncedRule
  (try dsimp only)
  (repeat' split) <;> simp

@[simp] theorem subchAbsentRule_window (a0 : Fin 48) (a1 : Nat) (s : State) :
    (subchAbsentRule a0 a1 s).mem = s.mem ∧ (subchAbsentRule a0 a1 s).host.evtHead = s.host.evtHead ∧ (subchAbsentRule a0 a1 s).host.evtTail = s.host.evtTail := by
  unfold subchAbsentRule
  (try dsimp only)
  (repeat' split) <;> simp

@[simp] theorem discontinuityRule_window (a0 : Fin 48) (a1 : Nat) (s : State) :
    (discontinuityRule a0 a1 s).mem = s.mem ∧ (discontinuityRule a0 a1 s).host.evtHead = s.host.evtHead ∧ (discontinuityRule a0 a1 s).host.evtTail = s.host.evtTail := by
  unfold discontinuityRule
  (try dsimp only)
  (repeat' split) <;> simp

@[simp] theorem syncTimeoutRule_window (a0 : Fin 48) (s : State) :
    (syncTimeoutRule a0 s).mem = s.mem ∧ (syncTimeoutRule a0 s).host.evtHead = s.host.evtHead ∧ (syncTimeoutRule a0 s).host.evtTail = s.host.evtTail := by
  unfold syncTimeoutRule
  (try dsimp only)
  (repeat' split) <;> simp

@[simp] theorem prsFailRule_window (a0 : Fin 48) (s : State) :
    (prsFailRule a0 s).mem = s.mem ∧ (prsFailRule a0 s).host.evtHead = s.host.evtHead ∧ (prsFailRule a0 s).host.evtTail = s.host.evtTail := by
  unfold prsFailRule
  (try dsimp only)
  (repeat' split) <;> simp

@[simp] theorem holdNext_window (a0 : Fin 48) (a1 : Fig) (s : State) :
    (holdNext a0 a1 s).mem = s.mem ∧ (holdNext a0 a1 s).host.evtHead = s.host.evtHead ∧ (holdNext a0 a1 s).host.evtTail = s.host.evtTail := by
  exact ⟨rfl, rfl, rfl⟩

@[simp] theorem rawFig_window (a0 : Fin 48) (a1 : Nat) (a2 : Nat) (a3 : Nat) (a4 : Nat) (a5 : List Byte) (s : State) :
    (rawFig a0 a1 a2 a3 a4 a5 s).mem = s.mem ∧ (rawFig a0 a1 a2 a3 a4 a5 s).host.evtHead = s.host.evtHead ∧ (rawFig a0 a1 a2 a3 a4 a5 s).host.evtTail = s.host.evtTail := by
  unfold rawFig
  (try dsimp only)
  (repeat' split) <;> simp

@[simp] theorem putUnit_window (a0 : Fin 48) (a1 : SubCh) (a2 : DabUnit) (s : State) :
    (putUnit a0 a1 a2 s).mem = s.mem ∧ (putUnit a0 a1 a2 s).host.evtHead = s.host.evtHead ∧ (putUnit a0 a1 a2 s).host.evtTail = s.host.evtTail := by
  unfold putUnit
  (try dsimp only)
  (repeat' split) <;> simp

@[simp] theorem takeSuper_window (a0 : Fin 48) (a1 : Word) (a2 : SubCh) (a3 : MscFrame) (s : State) :
    (takeSuper a0 a1 a2 a3 s).mem = s.mem ∧ (takeSuper a0 a1 a2 a3 s).host.evtHead = s.host.evtHead ∧ (takeSuper a0 a1 a2 a3 s).host.evtTail = s.host.evtTail := by
  unfold takeSuper
  (try dsimp only)
  (repeat' split) <;> simp

@[simp] theorem takeLogical_window (a0 : Fin 48) (a1 : Word) (a2 : SubCh) (a3 : MscFrame) (s : State) :
    (takeLogical a0 a1 a2 a3 s).mem = s.mem ∧ (takeLogical a0 a1 a2 a3 s).host.evtHead = s.host.evtHead ∧ (takeLogical a0 a1 a2 a3 s).host.evtTail = s.host.evtTail := by
  unfold takeLogical
  (try dsimp only)
  (repeat' split) <;> simp

@[simp] theorem completeReady_window (a0 : Fin 48) (a1 : Nat) (s : State) :
    (completeReady a0 a1 s).mem = s.mem ∧ (completeReady a0 a1 s).host.evtHead = s.host.evtHead ∧ (completeReady a0 a1 s).host.evtTail = s.host.evtTail := by
  unfold completeReady
  (try dsimp only)
  (repeat' split) <;> simp

@[simp] theorem completeDue_window (a0 : Fin 48) (s : State) :
    (completeDue a0 s).mem = s.mem ∧ (completeDue a0 s).host.evtHead = s.host.evtHead ∧ (completeDue a0 s).host.evtTail = s.host.evtTail := by
  unfold completeDue
  (try dsimp only)
  (repeat' split) <;> simp

@[simp] theorem closeSubch_window (a0 : Fin 48) (s : State) (a2 : SubCh) :
    (closeSubch a0 s a2).mem = s.mem ∧ (closeSubch a0 s a2).host.evtHead = s.host.evtHead ∧ (closeSubch a0 s a2).host.evtTail = s.host.evtTail := by
  unfold closeSubch
  (try dsimp only)
  (repeat' split) <;> simp

@[simp] theorem endUnits_window (a0 : Fin 48) (s : State) :
    (endUnits a0 s).mem = s.mem ∧ (endUnits a0 s).host.evtHead = s.host.evtHead ∧ (endUnits a0 s).host.evtTail = s.host.evtTail := by
  unfold endUnits
  (try dsimp only)
  (repeat' split) <;> simp

@[simp] theorem dabAcquisitionRule_window (a0 : Fin 48) (s : State) :
    (dabAcquisitionRule a0 s).mem = s.mem ∧ (dabAcquisitionRule a0 s).host.evtHead = s.host.evtHead ∧ (dabAcquisitionRule a0 s).host.evtTail = s.host.evtTail := by
  unfold dabAcquisitionRule
  (try dsimp only)
  (repeat' split) <;> simp

@[simp] theorem dabLossRule_window (a0 : Fin 48) (s : State) :
    (dabLossRule a0 s).mem = s.mem ∧ (dabLossRule a0 s).host.evtHead = s.host.evtHead ∧ (dabLossRule a0 s).host.evtTail = s.host.evtTail := by
  unfold dabLossRule
  (try dsimp only)
  (repeat' split) <;> simp

@[simp] theorem dabRecoveryRule_window (a0 : Fin 48) (s : State) :
    (dabRecoveryRule a0 s).mem = s.mem ∧ (dabRecoveryRule a0 s).host.evtHead = s.host.evtHead ∧ (dabRecoveryRule a0 s).host.evtTail = s.host.evtTail := by
  unfold dabRecoveryRule
  (try dsimp only)
  (repeat' split) <;> simp

@[simp] theorem modAudio_window (s : State) (a1 : Fin 8) (a2 : AudioPath → AudioPath) :
    (modAudio s a1 a2).mem = s.mem ∧ (modAudio s a1 a2).host.evtHead = s.host.evtHead ∧ (modAudio s a1 a2).host.evtTail = s.host.evtTail := by
  exact ⟨rfl, rfl, rfl⟩

@[simp] theorem modLeg_window (s : State) (a1 : Fin 8) (a2 : Bool) (a3 : LegPath → LegPath) :
    (modLeg s a1 a2 a3).mem = s.mem ∧ (modLeg s a1 a2 a3).host.evtHead = s.host.evtHead ∧ (modLeg s a1 a2 a3).host.evtTail = s.host.evtTail := by
  exact ⟨rfl, rfl, rfl⟩

@[simp] theorem setLegRate_window (a0 : Fin 8) (a1 : Bool) (a2 : Nat) (s : State) :
    (setLegRate a0 a1 a2 s).mem = s.mem ∧ (setLegRate a0 a1 a2 s).host.evtHead = s.host.evtHead ∧ (setLegRate a0 a1 a2 s).host.evtTail = s.host.evtTail := by
  exact ⟨rfl, rfl, rfl⟩

@[simp] theorem modOut_window (s : State) (a1 : Fin 8) (a2 : Output → Output) :
    (modOut s a1 a2).mem = s.mem ∧ (modOut s a1 a2).host.evtHead = s.host.evtHead ∧ (modOut s a1 a2).host.evtTail = s.host.evtTail := by
  exact ⟨rfl, rfl, rfl⟩

@[simp] theorem modPort_window (s : State) (a1 : Fin 2) (a2 : Port → Port) :
    (modPort s a1 a2).mem = s.mem ∧ (modPort s a1 a2).host.evtHead = s.host.evtHead ∧ (modPort s a1 a2).host.evtTail = s.host.evtTail := by
  exact ⟨rfl, rfl, rfl⟩

@[simp] theorem setOutState_window (a0 : Fin 8) (a1 : OutState) (a2 : Nat) (s : State) :
    (setOutState a0 a1 a2 s).mem = s.mem ∧ (setOutState a0 a1 a2 s).host.evtHead = s.host.evtHead ∧ (setOutState a0 a1 a2 s).host.evtTail = s.host.evtTail := by
  unfold setOutState
  (try dsimp only)
  (repeat' split) <;> simp

@[simp] theorem beginLeg_window (a0 : Fin 8) (a1 : Bool) (s : State) :
    (beginLeg a0 a1 s).mem = s.mem ∧ (beginLeg a0 a1 s).host.evtHead = s.host.evtHead ∧ (beginLeg a0 a1 s).host.evtTail = s.host.evtTail := by
  exact ⟨rfl, rfl, rfl⟩

@[simp] theorem outSettledRule_window (a0 : Fin 8) (s : State) :
    (outSettledRule a0 s).mem = s.mem ∧ (outSettledRule a0 s).host.evtHead = s.host.evtHead ∧ (outSettledRule a0 s).host.evtTail = s.host.evtTail := by
  unfold outSettledRule
  (try dsimp only)
  (repeat' split) <;> simp

@[simp] theorem outFadeRule_window (a0 : Fin 8) (s : State) :
    (outFadeRule a0 s).mem = s.mem ∧ (outFadeRule a0 s).host.evtHead = s.host.evtHead ∧ (outFadeRule a0 s).host.evtTail = s.host.evtTail := by
  unfold outFadeRule
  (try dsimp only)
  (repeat' split) <;> simp

@[simp] theorem swapLeg_window (a0 : Fin 8) (a1 : Bool) (a2 : Output) (s : State) :
    (swapLeg a0 a1 a2 s).mem = s.mem ∧ (swapLeg a0 a1 a2 s).host.evtHead = s.host.evtHead ∧ (swapLeg a0 a1 a2 s).host.evtTail = s.host.evtTail := by
  unfold swapLeg
  (try dsimp only)
  (repeat' split) <;> simp

@[simp] theorem applyOutMap_window (a0 : Fin 2) (a1 : Fin 16) (a2 : MapCfg) (s : State) :
    (applyOutMap a0 a1 a2 s).mem = s.mem ∧ (applyOutMap a0 a1 a2 s).host.evtHead = s.host.evtHead ∧ (applyOutMap a0 a1 a2 s).host.evtTail = s.host.evtTail := by
  exact ⟨rfl, rfl, rfl⟩

@[simp] theorem applyFilterSet_window (a0 : Fin 8) (a1 : Nat) (a2 : Bool) (a3 : Byte) (s : State) :
    (applyFilterSet a0 a1 a2 a3 s).mem = s.mem ∧ (applyFilterSet a0 a1 a2 a3 s).host.evtHead = s.host.evtHead ∧ (applyFilterSet a0 a1 a2 a3 s).host.evtTail = s.host.evtTail := by
  exact ⟨rfl, rfl, rfl⟩

@[simp] theorem applyDetect_window (a0 : Fin 8) (a1 : DetectCfg) (a2 : Bool) (s : State) :
    (applyDetect a0 a1 a2 s).mem = s.mem ∧ (applyDetect a0 a1 a2 s).host.evtHead = s.host.evtHead ∧ (applyDetect a0 a1 a2 s).host.evtTail = s.host.evtTail := by
  unfold applyDetect
  (try dsimp only)
  (repeat' split) <;> simp

@[simp] theorem starveRule_window (a0 : Fin 8) (a1 : Bool) (s : State) :
    (starveRule a0 a1 s).mem = s.mem ∧ (starveRule a0 a1 s).host.evtHead = s.host.evtHead ∧ (starveRule a0 a1 s).host.evtTail = s.host.evtTail := by
  unfold starveRule
  (try dsimp only)
  (repeat' split) <;> simp

@[simp] theorem slipRule_window (a0 : Fin 8) (a1 : Bool) (s : State) :
    (slipRule a0 a1 s).mem = s.mem ∧ (slipRule a0 a1 s).host.evtHead = s.host.evtHead ∧ (slipRule a0 a1 s).host.evtTail = s.host.evtTail := by
  unfold slipRule
  (try dsimp only)
  (repeat' split) <;> simp

@[simp] theorem strokeLeg_window (a0 : Fin 8) (a1 : Bool) (s : State) :
    (strokeLeg a0 a1 s).mem = s.mem ∧ (strokeLeg a0 a1 s).host.evtHead = s.host.evtHead ∧ (strokeLeg a0 a1 s).host.evtTail = s.host.evtTail := by
  unfold strokeLeg
  (try dsimp only)
  (repeat' split) <;> simp

@[simp] theorem strokeClock_window (a0 : Fin 8) (s : State) :
    (strokeClock a0 s).mem = s.mem ∧ (strokeClock a0 s).host.evtHead = s.host.evtHead ∧ (strokeClock a0 s).host.evtTail = s.host.evtTail := by
  unfold strokeClock
  (try dsimp only)
  (repeat' split) <;> simp

@[simp] theorem keepLegBanks_window (a0 : Fin 8) (s : State) :
    (keepLegBanks a0 s).mem = s.mem ∧ (keepLegBanks a0 s).host.evtHead = s.host.evtHead ∧ (keepLegBanks a0 s).host.evtTail = s.host.evtTail := by
  unfold keepLegBanks
  (try dsimp only)
  (repeat' split) <;> simp

@[simp] theorem strokeDecoders_window (a0 : Fin 8) (s : State) :
    (strokeDecoders a0 s).mem = s.mem ∧ (strokeDecoders a0 s).host.evtHead = s.host.evtHead ∧ (strokeDecoders a0 s).host.evtTail = s.host.evtTail := by
  unfold strokeDecoders
  (try dsimp only)
  (repeat' split) <;> simp

@[simp] theorem relatchOut_window (s : State) :
    (relatchOut s).mem = s.mem ∧ (relatchOut s).host.evtHead = s.host.evtHead ∧ (relatchOut s).host.evtTail = s.host.evtTail := by
  exact ⟨rfl, rfl, rfl⟩

@[simp] theorem restamp_window (a0 : Nat) (s : State) :
    (restamp a0 s).mem = s.mem ∧ (restamp a0 s).host.evtHead = s.host.evtHead ∧ (restamp a0 s).host.evtTail = s.host.evtTail := by
  exact ⟨rfl, rfl, rfl⟩

@[simp] theorem latchedState_window (s : State) :
    (latchedState s).mem = s.mem ∧ (latchedState s).host.evtHead = s.host.evtHead ∧ (latchedState s).host.evtTail = s.host.evtTail := by
  exact ⟨rfl, rfl, rfl⟩

@[simp] theorem pushHistories_window (a0 : Fin 8) (a1 : Nat) (s : State) :
    (pushHistories a0 a1 s).mem = s.mem ∧ (pushHistories a0 a1 s).host.evtHead = s.host.evtHead ∧ (pushHistories a0 a1 s).host.evtTail = s.host.evtTail := by
  unfold pushHistories
  (try dsimp only)
  (repeat' split) <;> simp

@[simp] theorem dipState_window (a0 : Fin 8) (a1 : Nat) (s : State) :
    (dipState a0 a1 s).mem = s.mem ∧ (dipState a0 a1 s).host.evtHead = s.host.evtHead ∧ (dipState a0 a1 s).host.evtTail = s.host.evtTail := by
  exact ⟨rfl, rfl, rfl⟩

@[simp] theorem strokeDetectors_window (s : State) :
    (strokeDetectors s).mem = s.mem ∧ (strokeDetectors s).host.evtHead = s.host.evtHead ∧ (strokeDetectors s).host.evtTail = s.host.evtTail := by
  exact ⟨rfl, rfl, rfl⟩

@[simp] theorem mixStep_window (a0 : Fin 8) (a1 : Nat) (s : State) :
    (mixStep a0 a1 s).mem = s.mem ∧ (mixStep a0 a1 s).host.evtHead = s.host.evtHead ∧ (mixStep a0 a1 s).host.evtTail = s.host.evtTail := by
  exact ⟨rfl, rfl, rfl⟩

@[simp] theorem countFrame_window (a0 : Fin 2) (a1 : Fin 8 → FrameInfo) (s : State) :
    (countFrame a0 a1 s).mem = s.mem ∧ (countFrame a0 a1 s).host.evtHead = s.host.evtHead ∧ (countFrame a0 a1 s).host.evtTail = s.host.evtTail := by
  unfold countFrame
  (try dsimp only)
  (repeat' split) <;> simp

@[simp] theorem packetStart_window (a0 : Fin 8 → FrameInfo) (s : State) (a2 : Fin 2) :
    (packetStart a0 s a2).mem = s.mem ∧ (packetStart a0 s a2).host.evtHead = s.host.evtHead ∧ (packetStart a0 s a2).host.evtTail = s.host.evtTail := by
  unfold packetStart
  (try dsimp only)
  (repeat' split) <;> simp

@[simp] theorem underrunStart_window (a0 : Fin 2) (s : State) :
    (underrunStart a0 s).mem = s.mem ∧ (underrunStart a0 s).host.evtHead = s.host.evtHead ∧ (underrunStart a0 s).host.evtTail = s.host.evtTail := by
  unfold underrunStart
  (try dsimp only)
  (repeat' split) <;> simp

@[simp] theorem putOut_window (a0 : Fin 2) (a1 : Nat) (a2 : QueueFrame) (s : State) :
    (putOut a0 a1 a2 s).mem = s.mem ∧ (putOut a0 a1 a2 s).host.evtHead = s.host.evtHead ∧ (putOut a0 a1 a2 s).host.evtTail = s.host.evtTail := by
  unfold putOut
  (try dsimp only)
  (repeat' split) <;> simp

@[simp] theorem sendFrame_window (a0 : Fin 2) (a1 : Nat) (s : State) :
    (sendFrame a0 a1 s).mem = s.mem ∧ (sendFrame a0 a1 s).host.evtHead = s.host.evtHead ∧ (sendFrame a0 a1 s).host.evtTail = s.host.evtTail := by
  unfold sendFrame
  (try dsimp only)
  (repeat' split) <;> simp

@[simp] theorem modFollow_window (s : State) (a1 : Fin 8) (a2 : Follower → Follower) :
    (modFollow s a1 a2).mem = s.mem ∧ (modFollow s a1 a2).host.evtHead = s.host.evtHead ∧ (modFollow s a1 a2).host.evtTail = s.host.evtTail := by
  exact ⟨rfl, rfl, rfl⟩

@[simp] theorem followEvent_window (a0 : Fin 8) (a1 : FollowState) (a2 : Int) (s : State) :
    (followEvent a0 a1 a2 s).mem = s.mem ∧ (followEvent a0 a1 a2 s).host.evtHead = s.host.evtHead ∧ (followEvent a0 a1 a2 s).host.evtTail = s.host.evtTail := by
  exact ⟨rfl, rfl, rfl⟩

@[simp] theorem setFollowState_window (a0 : Fin 8) (a1 : FollowState) (a2 : Int) (s : State) :
    (setFollowState a0 a1 a2 s).mem = s.mem ∧ (setFollowState a0 a1 a2 s).host.evtHead = s.host.evtHead ∧ (setFollowState a0 a1 a2 s).host.evtTail = s.host.evtTail := by
  unfold setFollowState
  (try dsimp only)
  (repeat' split) <;> simp

@[simp] theorem setLag_window (a0 : Fin 8) (a1 : LagState) (s : State) :
    (setLag a0 a1 s).mem = s.mem ∧ (setLag a0 a1 s).host.evtHead = s.host.evtHead ∧ (setLag a0 a1 s).host.evtTail = s.host.evtTail := by
  unfold setLag
  (try dsimp only)
  (repeat' split) <;> simp

@[simp] theorem lagReset_window (a0 : Fin 8) (s : State) :
    (lagReset a0 s).mem = s.mem ∧ (lagReset a0 s).host.evtHead = s.host.evtHead ∧ (lagReset a0 s).host.evtTail = s.host.evtTail := by
  unfold lagReset
  (try dsimp only)
  (repeat' split) <;> simp

@[simp] theorem beginStandby_window (a0 : Fin 8) (a1 : Bool) (s : State) :
    (beginStandby a0 a1 s).mem = s.mem ∧ (beginStandby a0 a1 s).host.evtHead = s.host.evtHead ∧ (beginStandby a0 a1 s).host.evtTail = s.host.evtTail := by
  unfold beginStandby
  (try dsimp only)
  (repeat' split) <;> simp

@[simp] theorem setStandby_window (a0 : Fin 8) (a1 : LegRef) (a2 : Nat) (s : State) :
    (setStandby a0 a1 a2 s).mem = s.mem ∧ (setStandby a0 a1 a2 s).host.evtHead = s.host.evtHead ∧ (setStandby a0 a1 a2 s).host.evtTail = s.host.evtTail := by
  unfold setStandby
  (try dsimp only)
  (repeat' split) <;> simp

@[simp] theorem replaceRule_window (a0 : Fin 8) (s : State) :
    (replaceRule a0 s).mem = s.mem ∧ (replaceRule a0 s).host.evtHead = s.host.evtHead ∧ (replaceRule a0 s).host.evtTail = s.host.evtTail := by
  unfold replaceRule
  (try dsimp only)
  (repeat' split) <;> simp

@[simp] theorem chooseStandby_window (a0 : Fin 8) (s : State) :
    (chooseStandby a0 s).mem = s.mem ∧ (chooseStandby a0 s).host.evtHead = s.host.evtHead ∧ (chooseStandby a0 s).host.evtTail = s.host.evtTail := by
  unfold chooseStandby
  (try dsimp only)
  (repeat' split) <;> simp

@[simp] theorem takeLag_window (a0 : Fin 8) (a1 : LagReading) (s : State) :
    (takeLag a0 a1 s).mem = s.mem ∧ (takeLag a0 a1 s).host.evtHead = s.host.evtHead ∧ (takeLag a0 a1 s).host.evtTail = s.host.evtTail := by
  unfold takeLag
  (try dsimp only)
  (repeat' split) <;> simp

@[simp] theorem lagResultRule_window (a0 : Fin 8) (s : State) :
    (lagResultRule a0 s).mem = s.mem ∧ (lagResultRule a0 s).host.evtHead = s.host.evtHead ∧ (lagResultRule a0 s).host.evtTail = s.host.evtTail := by
  unfold lagResultRule
  (try dsimp only)
  (repeat' split) <;> simp

@[simp] theorem notFoundRule_window (a0 : Fin 8) (s : State) :
    (notFoundRule a0 s).mem = s.mem ∧ (notFoundRule a0 s).host.evtHead = s.host.evtHead ∧ (notFoundRule a0 s).host.evtTail = s.host.evtTail := by
  unfold notFoundRule
  (try dsimp only)
  (repeat' split) <;> simp

@[simp] theorem acquiringRule_window (a0 : Fin 8) (s : State) :
    (acquiringRule a0 s).mem = s.mem ∧ (acquiringRule a0 s).host.evtHead = s.host.evtHead ∧ (acquiringRule a0 s).host.evtTail = s.host.evtTail := by
  unfold acquiringRule
  (try dsimp only)
  (repeat' split) <;> simp

@[simp] theorem walkDoneRule_window (a0 : Fin 8) (s : State) :
    (walkDoneRule a0 s).mem = s.mem ∧ (walkDoneRule a0 s).host.evtHead = s.host.evtHead ∧ (walkDoneRule a0 s).host.evtTail = s.host.evtTail := by
  unfold walkDoneRule
  (try dsimp only)
  (repeat' split) <;> simp

@[simp] theorem restFollow_window (a0 : Fin 8) (s : State) :
    (restFollow a0 s).mem = s.mem ∧ (restFollow a0 s).host.evtHead = s.host.evtHead ∧ (restFollow a0 s).host.evtTail = s.host.evtTail := by
  unfold restFollow
  (try dsimp only)
  (repeat' split) <;> simp

@[simp] theorem levelWindowRule_window (a0 : Fin 8) (s : State) :
    (levelWindowRule a0 s).mem = s.mem ∧ (levelWindowRule a0 s).host.evtHead = s.host.evtHead ∧ (levelWindowRule a0 s).host.evtTail = s.host.evtTail := by
  unfold levelWindowRule
  (try dsimp only)
  (repeat' split) <;> simp

@[simp] theorem decideFade_window (a0 : Fin 8) (a1 : Nat) (a2 : Bool) (s : State) :
    (decideFade a0 a1 a2 s).mem = s.mem ∧ (decideFade a0 a1 a2 s).host.evtHead = s.host.evtHead ∧ (decideFade a0 a1 a2 s).host.evtTail = s.host.evtTail := by
  exact ⟨rfl, rfl, rfl⟩

@[simp] theorem decideDip_window (a0 : Fin 8) (a1 : Nat) (a2 : Int) (s : State) :
    (decideDip a0 a1 a2 s).mem = s.mem ∧ (decideDip a0 a1 a2 s).host.evtHead = s.host.evtHead ∧ (decideDip a0 a1 a2 s).host.evtTail = s.host.evtTail := by
  exact ⟨rfl, rfl, rfl⟩

@[simp] theorem switchEvent_window (a0 : Fin 8) (a1 : Fade) (a2 : Nat) (s : State) :
    (switchEvent a0 a1 a2 s).mem = s.mem ∧ (switchEvent a0 a1 a2 s).host.evtHead = s.host.evtHead ∧ (switchEvent a0 a1 a2 s).host.evtTail = s.host.evtTail := by
  exact ⟨rfl, rfl, rfl⟩

@[simp] theorem fadeStartRule_window (a0 : Fin 8) (s : State) :
    (fadeStartRule a0 s).mem = s.mem ∧ (fadeStartRule a0 s).host.evtHead = s.host.evtHead ∧ (fadeStartRule a0 s).host.evtTail = s.host.evtTail := by
  unfold fadeStartRule
  (try dsimp only)
  (repeat' split) <;> simp

@[simp] theorem dipDelays_window (a0 : Fin 8) (s : State) :
    (dipDelays a0 s).mem = s.mem ∧ (dipDelays a0 s).host.evtHead = s.host.evtHead ∧ (dipDelays a0 s).host.evtTail = s.host.evtTail := by
  exact ⟨rfl, rfl, rfl⟩

@[simp] theorem dipStartRule_window (a0 : Fin 8) (s : State) :
    (dipStartRule a0 s).mem = s.mem ∧ (dipStartRule a0 s).host.evtHead = s.host.evtHead ∧ (dipStartRule a0 s).host.evtTail = s.host.evtTail := by
  unfold dipStartRule
  (try dsimp only)
  (repeat' split) <;> simp

@[simp] theorem pathToA_window (a0 : Fin 8) (s : State) :
    (pathToA a0 s).mem = s.mem ∧ (pathToA a0 s).host.evtHead = s.host.evtHead ∧ (pathToA a0 s).host.evtTail = s.host.evtTail := by
  unfold pathToA
  (try dsimp only)
  (repeat' split) <;> simp

@[simp] theorem startFollow_window (a0 : Fin 8) (a1 : FollowCfg) (s : State) :
    (startFollow a0 a1 s).mem = s.mem ∧ (startFollow a0 a1 s).host.evtHead = s.host.evtHead ∧ (startFollow a0 a1 s).host.evtTail = s.host.evtTail := by
  unfold startFollow
  (try dsimp only)
  (repeat' split) <;> simp

@[simp] theorem shortenFade_window (a0 : Fin 8) (s : State) :
    (shortenFade a0 s).mem = s.mem ∧ (shortenFade a0 s).host.evtHead = s.host.evtHead ∧ (shortenFade a0 s).host.evtTail = s.host.evtTail := by
  exact ⟨rfl, rfl, rfl⟩

@[simp] theorem beginVisit_window (a0 : Fin 48) (a1 : Bool × Nat) (s : State) :
    (beginVisit a0 a1 s).mem = s.mem ∧ (beginVisit a0 a1 s).host.evtHead = s.host.evtHead ∧ (beginVisit a0 a1 s).host.evtTail = s.host.evtTail := by
  unfold beginVisit
  (try dsimp only)
  (repeat' split) <;> simp

@[simp] theorem visitStartRule_window (s : State) :
    (visitStartRule s).mem = s.mem ∧ (visitStartRule s).host.evtHead = s.host.evtHead ∧ (visitStartRule s).host.evtTail = s.host.evtTail := by
  unfold visitStartRule
  (try dsimp only)
  (repeat' split) <;> simp

@[simp] theorem endVisit_window (a0 : Fin 48) (s : State) :
    (endVisit a0 s).mem = s.mem ∧ (endVisit a0 s).host.evtHead = s.host.evtHead ∧ (endVisit a0 s).host.evtTail = s.host.evtTail := by
  unfold endVisit
  (try dsimp only)
  (repeat' split) <;> simp

@[simp] theorem visitEndRule_window (a0 : Fin 48) (s : State) :
    (visitEndRule a0 s).mem = s.mem ∧ (visitEndRule a0 s).host.evtHead = s.host.evtHead ∧ (visitEndRule a0 s).host.evtTail = s.host.evtTail := by
  unfold visitEndRule
  (try dsimp only)
  (repeat' split) <;> simp

@[simp] theorem applyCensus_window (a0 : CensusCfg) (s : State) :
    (applyCensus a0 s).mem = s.mem ∧ (applyCensus a0 s).host.evtHead = s.host.evtHead ∧ (applyCensus a0 s).host.evtTail = s.host.evtTail := by
  unfold applyCensus
  (try dsimp only)
  (repeat' split) <;> (first | (simp; done) | (refine foldl_window' _ _ _ (by simp) (fun s x => ?_) _ <;> (try dsimp only) <;> (repeat' split) <;> simp))

@[simp] theorem strokeCensus_window (s : State) :
    (strokeCensus s).mem = s.mem ∧ (strokeCensus s).host.evtHead = s.host.evtHead ∧ (strokeCensus s).host.evtTail = s.host.evtTail := by
  unfold strokeCensus
  (try dsimp only)
  (repeat' split) <;> simp

@[simp] theorem shiftTime_window (a0 : Int) (s : State) :
    (shiftTime a0 s).mem = s.mem ∧ (shiftTime a0 s).host.evtHead = s.host.evtHead ∧ (shiftTime a0 s).host.evtTail = s.host.evtTail := by
  exact ⟨rfl, rfl, rfl⟩

@[simp] theorem alignTime_window (a0 : Nat) (s : State) :
    (alignTime a0 s).mem = s.mem ∧ (alignTime a0 s).host.evtHead = s.host.evtHead ∧ (alignTime a0 s).host.evtTail = s.host.evtTail := by
  exact ⟨rfl, rfl, rfl⟩

@[simp] theorem noteLink_window (a0 : Nat) (s : State) :
    (noteLink a0 s).mem = s.mem ∧ (noteLink a0 s).host.evtHead = s.host.evtHead ∧ (noteLink a0 s).host.evtTail = s.host.evtTail := by
  exact ⟨rfl, rfl, rfl⟩

@[simp] theorem fitWindows_window (s : State) :
    (fitWindows s).mem = s.mem ∧ (fitWindows s).host.evtHead = s.host.evtHead ∧ (fitWindows s).host.evtTail = s.host.evtTail := by
  exact ⟨rfl, rfl, rfl⟩

@[simp] theorem enterSynth_window (a0 : SynthState) (s : State) :
    (enterSynth a0 s).mem = s.mem ∧ (enterSynth a0 s).host.evtHead = s.host.evtHead ∧ (enterSynth a0 s).host.evtTail = s.host.evtTail := by
  exact ⟨rfl, rfl, rfl⟩

@[simp] theorem applyPhySet_window (a0 : PhyCfg) (a1 : Bool) (s : State) :
    (applyPhySet a0 a1 s).mem = s.mem ∧ (applyPhySet a0 a1 s).host.evtHead = s.host.evtHead ∧ (applyPhySet a0 a1 s).host.evtTail = s.host.evtTail := by
  unfold applyPhySet
  (try dsimp only)
  (repeat' split) <;> simp

@[simp] theorem applyRemotePhySet_window (a0 : PhyCfg) (s : State) :
    (applyRemotePhySet a0 s).mem = s.mem ∧ (applyRemotePhySet a0 s).host.evtHead = s.host.evtHead ∧ (applyRemotePhySet a0 s).host.evtTail = s.host.evtTail := by
  exact ⟨rfl, rfl, rfl⟩

@[simp] theorem synthPower_window (a0 : Bool) (s : State) :
    (synthPower a0 s).mem = s.mem ∧ (synthPower a0 s).host.evtHead = s.host.evtHead ∧ (synthPower a0 s).host.evtTail = s.host.evtTail := by
  unfold synthPower
  (try dsimp only)
  (repeat' split) <;> simp

@[simp] theorem holdRequest_window (a0 : Nat) (s : State) :
    (holdRequest a0 s).mem = s.mem ∧ (holdRequest a0 s).host.evtHead = s.host.evtHead ∧ (holdRequest a0 s).host.evtTail = s.host.evtTail := by
  exact ⟨rfl, rfl, rfl⟩

@[simp] theorem releaseRequest_window (s : State) :
    (releaseRequest s).mem = s.mem ∧ (releaseRequest s).host.evtHead = s.host.evtHead ∧ (releaseRequest s).host.evtTail = s.host.evtTail := by
  exact ⟨rfl, rfl, rfl⟩

@[simp] theorem sendBurstAt_window (a0 : Nat) (a1 : Nat) (a2 : Nat) (a3 : Nat) (a4 : List Byte) (a5 : Nat) (s : State) :
    (sendBurstAt a0 a1 a2 a3 a4 a5 s).mem = s.mem ∧ (sendBurstAt a0 a1 a2 a3 a4 a5 s).host.evtHead = s.host.evtHead ∧ (sendBurstAt a0 a1 a2 a3 a4 a5 s).host.evtTail = s.host.evtTail := by
  exact ⟨rfl, rfl, rfl⟩

@[simp] theorem sendBurst_window (a0 : Nat) (a1 : Nat) (a2 : Nat) (a3 : Nat) (s : State) :
    (sendBurst a0 a1 a2 a3 s).mem = s.mem ∧ (sendBurst a0 a1 a2 a3 s).host.evtHead = s.host.evtHead ∧ (sendBurst a0 a1 a2 a3 s).host.evtTail = s.host.evtTail := by
  exact ⟨rfl, rfl, rfl⟩

@[simp] theorem takeBeacon_window (a0 : BurstRx) (s : State) :
    (takeBeacon a0 s).mem = s.mem ∧ (takeBeacon a0 s).host.evtHead = s.host.evtHead ∧ (takeBeacon a0 s).host.evtTail = s.host.evtTail := by
  unfold takeBeacon
  (try dsimp only)
  (repeat' split) <;> simp

@[simp] theorem sendMessage_window (a0 : BurstPayload) (s : State) :
    (sendMessage a0 s).mem = s.mem ∧ (sendMessage a0 s).host.evtHead = s.host.evtHead ∧ (sendMessage a0 s).host.evtTail = s.host.evtTail := by
  exact ⟨rfl, rfl, rfl⟩

@[simp] theorem modPair_window (a0 : Pairing → Pairing) (s : State) :
    (modPair a0 s).mem = s.mem ∧ (modPair a0 s).host.evtHead = s.host.evtHead ∧ (modPair a0 s).host.evtTail = s.host.evtTail := by
  exact ⟨rfl, rfl, rfl⟩

@[simp] theorem countSync_window (a0 : Bool) (s : State) :
    (countSync a0 s).mem = s.mem ∧ (countSync a0 s).host.evtHead = s.host.evtHead ∧ (countSync a0 s).host.evtTail = s.host.evtTail := by
  unfold countSync
  (try dsimp only)
  (repeat' split) <;> simp

@[simp] theorem trackEcho_window (a0 : ToneSums) (s : State) :
    (trackEcho a0 s).mem = s.mem ∧ (trackEcho a0 s).host.evtHead = s.host.evtHead ∧ (trackEcho a0 s).host.evtTail = s.host.evtTail := by
  exact ⟨rfl, rfl, rfl⟩

@[simp] theorem steerClock_window (a0 : ToneSums) (s : State) :
    (steerClock a0 s).mem = s.mem ∧ (steerClock a0 s).host.evtHead = s.host.evtHead ∧ (steerClock a0 s).host.evtTail = s.host.evtTail := by
  unfold steerClock
  (try dsimp only)
  (repeat' split) <;> simp

@[simp] theorem noteTones_window (a0 : Nat) (a1 : List (Nat × Nat)) (s : State) :
    (noteTones a0 a1 s).mem = s.mem ∧ (noteTones a0 a1 s).host.evtHead = s.host.evtHead ∧ (noteTones a0 a1 s).host.evtTail = s.host.evtTail := by
  exact ⟨rfl, rfl, rfl⟩

@[simp] theorem openWindows_window (s : State) :
    (openWindows s).mem = s.mem ∧ (openWindows s).host.evtHead = s.host.evtHead ∧ (openWindows s).host.evtTail = s.host.evtTail := by
  exact ⟨rfl, rfl, rfl⟩

@[simp] theorem trackMargins_window (a0 : List (Nat × Nat)) (s : State) :
    (trackMargins a0 s).mem = s.mem ∧ (trackMargins a0 s).host.evtHead = s.host.evtHead ∧ (trackMargins a0 s).host.evtTail = s.host.evtTail := by
  exact ⟨rfl, rfl, rfl⟩

@[simp] theorem echoWork_window (a0 : SuperframeRx) (s : State) :
    (echoWork a0 s).mem = s.mem ∧ (echoWork a0 s).host.evtHead = s.host.evtHead ∧ (echoWork a0 s).host.evtTail = s.host.evtTail := by
  unfold echoWork
  (try dsimp only)
  (repeat' split) <;> simp

@[simp] theorem turnSuperframe_window (s : State) :
    (turnSuperframe s).mem = s.mem ∧ (turnSuperframe s).host.evtHead = s.host.evtHead ∧ (turnSuperframe s).host.evtTail = s.host.evtTail := by
  exact ⟨rfl, rfl, rfl⟩

@[simp] theorem countTraining_window (s : State) :
    (countTraining s).mem = s.mem ∧ (countTraining s).host.evtHead = s.host.evtHead ∧ (countTraining s).host.evtTail = s.host.evtTail := by
  exact ⟨rfl, rfl, rfl⟩

@[simp] theorem sendSwapAck_window (s : State) :
    (sendSwapAck s).mem = s.mem ∧ (sendSwapAck s).host.evtHead = s.host.evtHead ∧ (sendSwapAck s).host.evtTail = s.host.evtTail := by
  unfold sendSwapAck
  (try dsimp only)
  (repeat' split) <;> simp

@[simp] theorem noteSent_window (a0 : Packet) (s : State) :
    (noteSent a0 s).mem = s.mem ∧ (noteSent a0 s).host.evtHead = s.host.evtHead ∧ (noteSent a0 s).host.evtTail = s.host.evtTail := by
  exact ⟨rfl, rfl, rfl⟩

@[simp] theorem feedImage_window (s : State) :
    (feedImage s).mem = s.mem ∧ (feedImage s).host.evtHead = s.host.evtHead ∧ (feedImage s).host.evtTail = s.host.evtTail := by
  unfold feedImage
  (try dsimp only)
  (repeat' split) <;> simp

@[simp] theorem takeTable_window (a0 : Bool) (a1 : List Nat) (s : State) :
    (takeTable a0 a1 s).mem = s.mem ∧ (takeTable a0 a1 s).host.evtHead = s.host.evtHead ∧ (takeTable a0 a1 s).host.evtTail = s.host.evtTail := by
  exact ⟨rfl, rfl, rfl⟩

@[simp] theorem takeSwapMessage_window (a0 : List Byte) (s : State) :
    (takeSwapMessage a0 s).mem = s.mem ∧ (takeSwapMessage a0 s).host.evtHead = s.host.evtHead ∧ (takeSwapMessage a0 s).host.evtTail = s.host.evtTail := by
  unfold takeSwapMessage
  (try dsimp only)
  (repeat' split) <;> simp

@[simp] theorem loseFrame_window (s : State) :
    (loseFrame s).mem = s.mem ∧ (loseFrame s).host.evtHead = s.host.evtHead ∧ (loseFrame s).host.evtTail = s.host.evtTail := by
  exact ⟨rfl, rfl, rfl⟩

@[simp] theorem takeAck_window (a0 : Half) (s : State) :
    (takeAck a0 s).mem = s.mem ∧ (takeAck a0 s).host.evtHead = s.host.evtHead ∧ (takeAck a0 s).host.evtTail = s.host.evtTail := by
  exact ⟨rfl, rfl, rfl⟩

@[simp] theorem refreshGpio_window (s : State) :
    (refreshGpio s).mem = s.mem ∧ (refreshGpio s).host.evtHead = s.host.evtHead ∧ (refreshGpio s).host.evtTail = s.host.evtTail := by
  exact ⟨rfl, rfl, rfl⟩

@[simp] theorem applyGpioSet_window (a0 : Fin 8) (a1 : Nat) (a2 : GpioCfg) (s : State) :
    (applyGpioSet a0 a1 a2 s).mem = s.mem ∧ (applyGpioSet a0 a1 a2 s).host.evtHead = s.host.evtHead ∧ (applyGpioSet a0 a1 a2 s).host.evtTail = s.host.evtTail := by
  exact ⟨rfl, rfl, rfl⟩

@[simp] theorem releaseGpio_window (a0 : Option (Fin 8)) (a1 : Option (Fin 8)) (s : State) :
    (releaseGpio a0 a1 s).mem = s.mem ∧ (releaseGpio a0 a1 s).host.evtHead = s.host.evtHead ∧ (releaseGpio a0 a1 s).host.evtTail = s.host.evtTail := by
  unfold releaseGpio
  (try dsimp only)
  (repeat' split) <;> simp

@[simp] theorem gpioEvent_window (s : State) (a1 : Fin 8) :
    (gpioEvent s a1).mem = s.mem ∧ (gpioEvent s a1).host.evtHead = s.host.evtHead ∧ (gpioEvent s a1).host.evtTail = s.host.evtTail := by
  unfold gpioEvent
  (try dsimp only)
  (repeat' split) <;> simp

@[simp] theorem strokeGpio_window (s : State) :
    (strokeGpio s).mem = s.mem ∧ (strokeGpio s).host.evtHead = s.host.evtHead ∧ (strokeGpio s).host.evtTail = s.host.evtTail := by
  unfold strokeGpio
  (try dsimp only)
  (repeat' split) <;> simp

@[simp] theorem latchedGpio_window (s : State) :
    (latchedGpio s).mem = s.mem ∧ (latchedGpio s).host.evtHead = s.host.evtHead ∧ (latchedGpio s).host.evtTail = s.host.evtTail := by
  exact ⟨rfl, rfl, rfl⟩

@[simp] theorem settleAuxRegs_window (s : State) :
    (settleAuxRegs s).mem = s.mem ∧ (settleAuxRegs s).host.evtHead = s.host.evtHead ∧ (settleAuxRegs s).host.evtTail = s.host.evtTail := by
  unfold settleAuxRegs
  (try dsimp only)
  (repeat' split) <;> simp

@[simp] theorem placeStop_window (s : State) :
    (placeStop s).mem = s.mem ∧ (placeStop s).host.evtHead = s.host.evtHead ∧ (placeStop s).host.evtTail = s.host.evtTail := by
  exact ⟨rfl, rfl, rfl⟩

@[simp] theorem putPacket_window (a0 : List Word) (s : State) :
    (putPacket a0 s).mem = s.mem ∧ (putPacket a0 s).host.evtHead = s.host.evtHead ∧ (putPacket a0 s).host.evtTail = s.host.evtTail := by
  unfold putPacket
  (try dsimp only)
  (repeat' split) <;> simp

@[simp] theorem putSync_window (s : State) :
    (putSync s).mem = s.mem ∧ (putSync s).host.evtHead = s.host.evtHead ∧ (putSync s).host.evtTail = s.host.evtTail := by
  unfold putSync
  (try dsimp only)
  (repeat' split) <;> simp

@[simp] theorem beginWords_window (a0 : Nat) (s : State) :
    (beginWords a0 s).mem = s.mem ∧ (beginWords a0 s).host.evtHead = s.host.evtHead ∧ (beginWords a0 s).host.evtTail = s.host.evtTail := by
  exact ⟨rfl, rfl, rfl⟩

@[simp] theorem overflowAt_window (a0 : Nat) (s : State) :
    (overflowAt a0 s).mem = s.mem ∧ (overflowAt a0 s).host.evtHead = s.host.evtHead ∧ (overflowAt a0 s).host.evtTail = s.host.evtTail := by
  unfold overflowAt
  (try dsimp only)
  (repeat' split) <;> simp

@[simp] theorem overflowRule_window (s : State) :
    (overflowRule s).mem = s.mem ∧ (overflowRule s).host.evtHead = s.host.evtHead ∧ (overflowRule s).host.evtTail = s.host.evtTail := by
  unfold overflowRule
  (try dsimp only)
  (repeat' split) <;> simp

@[simp] theorem completePacket_window (s : State) :
    (completePacket s).mem = s.mem ∧ (completePacket s).host.evtHead = s.host.evtHead ∧ (completePacket s).host.evtTail = s.host.evtTail := by
  exact ⟨rfl, rfl, rfl⟩

@[simp] theorem startTrace_window (s : State) :
    (startTrace s).mem = s.mem ∧ (startTrace s).host.evtHead = s.host.evtHead ∧ (startTrace s).host.evtTail = s.host.evtTail := by
  unfold startTrace
  (try dsimp only)
  (repeat' split) <;> simp

@[simp] theorem latchCounters_window (s : State) :
    (latchCounters s).mem = s.mem ∧ (latchCounters s).host.evtHead = s.host.evtHead ∧ (latchCounters s).host.evtTail = s.host.evtTail := by
  exact ⟨rfl, rfl, rfl⟩

@[simp] theorem stopStore_window (s : State) :
    (stopStore s).mem = s.mem ∧ (stopStore s).host.evtHead = s.host.evtHead ∧ (stopStore s).host.evtTail = s.host.evtTail := by
  exact ⟨rfl, rfl, rfl⟩

@[simp] theorem setStoreState_window (a0 : StoreState) (a1 : Nat) (s : State) :
    (setStoreState a0 a1 s).mem = s.mem ∧ (setStoreState a0 a1 s).host.evtHead = s.host.evtHead ∧ (setStoreState a0 a1 s).host.evtTail = s.host.evtTail := by
  unfold setStoreState
  (try dsimp only)
  (repeat' split) <;> simp

@[simp] theorem storeFault_window (a0 : Nat) (s : State) :
    (storeFault a0 s).mem = s.mem ∧ (storeFault a0 s).host.evtHead = s.host.evtHead ∧ (storeFault a0 s).host.evtTail = s.host.evtTail := by
  unfold storeFault
  (try dsimp only)
  (repeat' split) <;> simp

@[simp] theorem pushNw_window (a0 : Packet) (s : State) :
    (pushNw a0 s).mem = s.mem ∧ (pushNw a0 s).host.evtHead = s.host.evtHead ∧ (pushNw a0 s).host.evtTail = s.host.evtTail := by
  exact ⟨rfl, rfl, rfl⟩

@[simp] theorem writeSystem_window (s : State) :
    (writeSystem s).mem = s.mem ∧ (writeSystem s).host.evtHead = s.host.evtHead ∧ (writeSystem s).host.evtTail = s.host.evtTail := by
  unfold writeSystem
  (try dsimp only)
  (repeat' split) <;> simp

@[simp] theorem modHead_window (a0 : RingBlock → RingBlock) (s : State) :
    (modHead a0 s).mem = s.mem ∧ (modHead a0 s).host.evtHead = s.host.evtHead ∧ (modHead a0 s).host.evtTail = s.host.evtTail := by
  unfold modHead
  (try dsimp only)
  (repeat' split) <;> simp

@[simp] theorem putStream_window (a0 : StoredRec) (s : State) :
    (putStream a0 s).mem = s.mem ∧ (putStream a0 s).host.evtHead = s.host.evtHead ∧ (putStream a0 s).host.evtTail = s.host.evtTail := by
  unfold putStream
  (try dsimp only)
  (repeat' split) <;> simp

@[simp] theorem modRecNo_window (a0 : Nat) (a1 : Rec → Rec) (s : State) :
    (modRecNo a0 a1 s).mem = s.mem ∧ (modRecNo a0 a1 s).host.evtHead = s.host.evtHead ∧ (modRecNo a0 a1 s).host.evtTail = s.host.evtTail := by
  exact ⟨rfl, rfl, rfl⟩

@[simp] theorem expireRec_window (a0 : Nat) (a1 : Word) (a2 : Nat) (s : State) :
    (expireRec a0 a1 a2 s).mem = s.mem ∧ (expireRec a0 a1 a2 s).host.evtHead = s.host.evtHead ∧ (expireRec a0 a1 a2 s).host.evtTail = s.host.evtTail := by
  unfold expireRec
  (try dsimp only)
  (repeat' split) <;> simp

@[simp] theorem markWritten_window (a0 : Nat) (s : State) :
    (markWritten a0 s).mem = s.mem ∧ (markWritten a0 s).host.evtHead = s.host.evtHead ∧ (markWritten a0 s).host.evtTail = s.host.evtTail := by
  exact ⟨rfl, rfl, rfl⟩

@[simp] theorem commitCheckpoint_window (s : State) :
    (commitCheckpoint s).mem = s.mem ∧ (commitCheckpoint s).host.evtHead = s.host.evtHead ∧ (commitCheckpoint s).host.evtTail = s.host.evtTail := by
  unfold commitCheckpoint
  (try dsimp only)
  (repeat' split) <;> simp

@[simp] theorem retirePos_window (a0 : Nat) (a1 : Nat) (s : State) :
    (retirePos a0 a1 s).mem = s.mem ∧ (retirePos a0 a1 s).host.evtHead = s.host.evtHead ∧ (retirePos a0 a1 s).host.evtTail = s.host.evtTail := by
  unfold retirePos
  (try dsimp only)
  (repeat' split) <;> simp

@[simp] theorem dropBlock_window (a0 : Nat) (s : State) :
    (dropBlock a0 s).mem = s.mem ∧ (dropBlock a0 s).host.evtHead = s.host.evtHead ∧ (dropBlock a0 s).host.evtTail = s.host.evtTail := by
  exact ⟨rfl, rfl, rfl⟩

@[simp] theorem expireBlock_window (a0 : Nat) (s : State) :
    (expireBlock a0 s).mem = s.mem ∧ (expireBlock a0 s).host.evtHead = s.host.evtHead ∧ (expireBlock a0 s).host.evtTail = s.host.evtTail := by
  unfold expireBlock
  (try dsimp only)
  (repeat' split) <;> (first | (simp; done) | (refine foldl_window' _ _ _ (by simp) (fun s x => ?_) _ <;> (try dsimp only) <;> (repeat' split) <;> simp))

@[simp] theorem expireTail_window (a0 : Nat) (s : State) :
    (expireTail a0 s).mem = s.mem ∧ (expireTail a0 s).host.evtHead = s.host.evtHead ∧ (expireTail a0 s).host.evtTail = s.host.evtTail := by
  unfold expireTail
  (try dsimp only)
  (repeat' split) <;> simp

@[simp] theorem tailExpiryRule_window (s : State) :
    (tailExpiryRule s).mem = s.mem ∧ (tailExpiryRule s).host.evtHead = s.host.evtHead ∧ (tailExpiryRule s).host.evtTail = s.host.evtTail := by
  unfold tailExpiryRule
  (try dsimp only)
  (repeat' split) <;> simp

@[simp] theorem notePageRead_window (a0 : Nat) (s : State) :
    (notePageRead a0 s).mem = s.mem ∧ (notePageRead a0 s).host.evtHead = s.host.evtHead ∧ (notePageRead a0 s).host.evtTail = s.host.evtTail := by
  exact ⟨rfl, rfl, rfl⟩

@[simp] theorem relocate_window (a0 : Nat) (s : State) :
    (relocate a0 s).mem = s.mem ∧ (relocate a0 s).host.evtHead = s.host.evtHead ∧ (relocate a0 s).host.evtTail = s.host.evtTail := by
  unfold relocate
  (try dsimp only)
  (repeat' split) <;> simp

@[simp] theorem checkBlock_window (a0 : Nat) (a1 : Nat) (s : State) :
    (checkBlock a0 a1 s).mem = s.mem ∧ (checkBlock a0 a1 s).host.evtHead = s.host.evtHead ∧ (checkBlock a0 a1 s).host.evtTail = s.host.evtTail := by
  unfold checkBlock
  (try dsimp only)
  (repeat' split) <;> simp

@[simp] theorem beginRead_window (a0 : Nat) (s : State) :
    (beginRead a0 s).mem = s.mem ∧ (beginRead a0 s).host.evtHead = s.host.evtHead ∧ (beginRead a0 s).host.evtTail = s.host.evtTail := by
  unfold beginRead
  (try dsimp only)
  (repeat' split) <;> simp

@[simp] theorem beginReads_window (s : State) :
    (beginReads s).mem = s.mem ∧ (beginReads s).host.evtHead = s.host.evtHead ∧ (beginReads s).host.evtTail = s.host.evtTail := by
  unfold beginReads
  (try dsimp only)
  (repeat' split) <;> simp

@[simp] theorem setFetched_window (a0 : NandOp) (a1 : List (List Nat)) (s : State) :
    (setFetched a0 a1 s).mem = s.mem ∧ (setFetched a0 a1 s).host.evtHead = s.host.evtHead ∧ (setFetched a0 a1 s).host.evtTail = s.host.evtTail := by
  exact ⟨rfl, rfl, rfl⟩

@[simp] theorem dropFetched_window (a0 : Nat × Nat) (s : State) :
    (dropFetched a0 s).mem = s.mem ∧ (dropFetched a0 s).host.evtHead = s.host.evtHead ∧ (dropFetched a0 s).host.evtTail = s.host.evtTail := by
  exact ⟨rfl, rfl, rfl⟩

@[simp] theorem beginOp_window (a0 : Nat) (a1 : Packet) (s : State) :
    (beginOp a0 a1 s).mem = s.mem ∧ (beginOp a0 a1 s).host.evtHead = s.host.evtHead ∧ (beginOp a0 a1 s).host.evtTail = s.host.evtTail := by
  unfold beginOp
  (try dsimp only)
  (repeat' split) <;> simp

@[simp] theorem countTry_window (s : State) :
    (countTry s).mem = s.mem ∧ (countTry s).host.evtHead = s.host.evtHead ∧ (countTry s).host.evtTail = s.host.evtTail := by
  exact ⟨rfl, rfl, rfl⟩

@[simp] theorem redoSystem_window (a0 : Packet) (s : State) :
    (redoSystem a0 s).mem = s.mem ∧ (redoSystem a0 s).host.evtHead = s.host.evtHead ∧ (redoSystem a0 s).host.evtTail = s.host.evtTail := by
  unfold redoSystem
  (try dsimp only)
  (repeat' split) <;> simp

@[simp] theorem burnPage_window (a0 : Packet) (s : State) :
    (burnPage a0 s).mem = s.mem ∧ (burnPage a0 s).host.evtHead = s.host.evtHead ∧ (burnPage a0 s).host.evtTail = s.host.evtTail := by
  exact ⟨rfl, rfl, rfl⟩

@[simp] theorem passProgram_window (a0 : Packet) (s : State) :
    (passProgram a0 s).mem = s.mem ∧ (passProgram a0 s).host.evtHead = s.host.evtHead ∧ (passProgram a0 s).host.evtTail = s.host.evtTail := by
  unfold passProgram
  (try dsimp only)
  (repeat' split) <;> simp

@[simp] theorem endErase_window (a0 : Bool) (a1 : Packet) (s : State) :
    (endErase a0 a1 s).mem = s.mem ∧ (endErase a0 a1 s).host.evtHead = s.host.evtHead ∧ (endErase a0 a1 s).host.evtTail = s.host.evtTail := by
  unfold endErase
  (try dsimp only)
  (repeat' split) <;> simp

@[simp] theorem expiredEvent_window (a0 : Nat) (a1 : Nat) (a2 : Nat) (a3 : Nat) (a4 : Nat) (s : State) :
    (expiredEvent a0 a1 a2 a3 a4 s).mem = s.mem ∧ (expiredEvent a0 a1 a2 a3 a4 s).host.evtHead = s.host.evtHead ∧ (expiredEvent a0 a1 a2 a3 a4 s).host.evtTail = s.host.evtTail := by
  exact ⟨rfl, rfl, rfl⟩

@[simp] theorem startRec_window (a0 : Nat) (a1 : RecordCfg) (s : State) :
    (startRec a0 a1 s).mem = s.mem ∧ (startRec a0 a1 s).host.evtHead = s.host.evtHead ∧ (startRec a0 a1 s).host.evtTail = s.host.evtTail := by
  exact ⟨rfl, rfl, rfl⟩

@[simp] theorem stopRec_window (a0 : Nat) (s : State) :
    (stopRec a0 s).mem = s.mem ∧ (stopRec a0 s).host.evtHead = s.host.evtHead ∧ (stopRec a0 s).host.evtTail = s.host.evtTail := by
  exact ⟨rfl, rfl, rfl⟩

@[simp] theorem deleteRec_window (a0 : Nat) (s : State) :
    (deleteRec a0 s).mem = s.mem ∧ (deleteRec a0 s).host.evtHead = s.host.evtHead ∧ (deleteRec a0 s).host.evtTail = s.host.evtTail := by
  unfold deleteRec
  (try dsimp only)
  (repeat' split) <;> simp

@[simp] theorem stopSlotRecs_window (a0 : Fin 48) (s : State) :
    (stopSlotRecs a0 s).mem = s.mem ∧ (stopSlotRecs a0 s).host.evtHead = s.host.evtHead ∧ (stopSlotRecs a0 s).host.evtTail = s.host.evtTail := by
  unfold stopSlotRecs
  (try dsimp only)
  (repeat' split) <;> simp

@[simp] theorem applyPolice_window (a0 : Nat) (a1 : Nat) (a2 : Nat) (s : State) :
    (applyPolice a0 a1 a2 s).mem = s.mem ∧ (applyPolice a0 a1 a2 s).host.evtHead = s.host.evtHead ∧ (applyPolice a0 a1 a2 s).host.evtTail = s.host.evtTail := by
  exact ⟨rfl, rfl, rfl⟩

@[simp] theorem refreshRates_window (s : State) :
    (refreshRates s).mem = s.mem ∧ (refreshRates s).host.evtHead = s.host.evtHead ∧ (refreshRates s).host.evtTail = s.host.evtTail := by
  exact ⟨rfl, rfl, rfl⟩

@[simp] theorem settleSeeks_window (s : State) :
    (settleSeeks s).mem = s.mem ∧ (settleSeeks s).host.evtHead = s.host.evtHead ∧ (settleSeeks s).host.evtTail = s.host.evtTail := by
  unfold settleSeeks
  (try dsimp only)
  (repeat' split) <;> (first | (simp; done) | (refine foldl_window' _ _ _ (by simp) (fun s x => ?_) _ <;> (try dsimp only) <;> (repeat' split) <;> simp))

@[simp] theorem applyExport_window (a0 : Fin 2) (a1 : ExportCfg) (s : State) :
    (applyExport a0 a1 s).mem = s.mem ∧ (applyExport a0 a1 s).host.evtHead = s.host.evtHead ∧ (applyExport a0 a1 s).host.evtTail = s.host.evtTail := by
  unfold applyExport
  (try dsimp only)
  (repeat' split) <;> simp

@[simp] theorem pushHx_window (a0 : Fin 2) (a1 : Nat) (a2 : List Byte) (s : State) :
    (pushHx a0 a1 a2 s).mem = s.mem ∧ (pushHx a0 a1 a2 s).host.evtHead = s.host.evtHead ∧ (pushHx a0 a1 a2 s).host.evtTail = s.host.evtTail := by
  exact ⟨rfl, rfl, rfl⟩

@[simp] theorem pullExport_window (a0 : Fin 2) (s : State) :
    (pullExport a0 s).mem = s.mem ∧ (pullExport a0 s).host.evtHead = s.host.evtHead ∧ (pullExport a0 s).host.evtTail = s.host.evtTail := by
  unfold pullExport
  (try dsimp only)
  (repeat' split) <;> simp

@[simp] theorem exportRead_window (a0 : Fin 2) (s : State) :
    (exportRead a0 s).mem = s.mem ∧ (exportRead a0 s).host.evtHead = s.host.evtHead ∧ (exportRead a0 s).host.evtTail = s.host.evtTail := by
  unfold exportRead
  (try dsimp only)
  (repeat' split) <;> simp

@[simp] theorem applyMaint_window (a0 : MaintCfg) (s : State) :
    (applyMaint a0 s).mem = s.mem ∧ (applyMaint a0 s).host.evtHead = s.host.evtHead ∧ (applyMaint a0 s).host.evtTail = s.host.evtTail := by
  exact ⟨rfl, rfl, rfl⟩

@[simp] theorem identifies_window (s : State) :
    (identifies s).mem = s.mem ∧ (identifies s).host.evtHead = s.host.evtHead ∧ (identifies s).host.evtTail = s.host.evtTail := by
  exact ⟨rfl, rfl, rfl⟩

@[simp] theorem relatchStore_window (s : State) :
    (relatchStore s).mem = s.mem ∧ (relatchStore s).host.evtHead = s.host.evtHead ∧ (relatchStore s).host.evtTail = s.host.evtTail := by
  exact ⟨rfl, rfl, rfl⟩

@[simp] theorem unmapWindow_window (s : State) :
    (unmapWindow s).mem = s.mem ∧ (unmapWindow s).host.evtHead = s.host.evtHead ∧ (unmapWindow s).host.evtTail = s.host.evtTail := by
  exact ⟨rfl, rfl, rfl⟩

@[simp] theorem noteFinal_window (a0 : Nat) (s : State) :
    (noteFinal a0 s).mem = s.mem ∧ (noteFinal a0 s).host.evtHead = s.host.evtHead ∧ (noteFinal a0 s).host.evtTail = s.host.evtTail := by
  unfold noteFinal
  (try dsimp only)
  (repeat' split) <;> simp

@[simp] theorem pullHost_window (a0 : Nat) (s : State) :
    (pullHost a0 s).mem = s.mem ∧ (pullHost a0 s).host.evtHead = s.host.evtHead ∧ (pullHost a0 s).host.evtTail = s.host.evtTail := by
  unfold pullHost
  (try dsimp only)
  (repeat' split) <;> simp

@[simp] theorem drainHalf_window (s : State) :
    (drainHalf s).mem = s.mem ∧ (drainHalf s).host.evtHead = s.host.evtHead ∧ (drainHalf s).host.evtTail = s.host.evtTail := by
  unfold drainHalf
  (try dsimp only)
  (repeat' split) <;> simp

@[simp] theorem returnImageHalf_window (a0 : Bool) (s : State) :
    (returnImageHalf a0 s).mem = s.mem ∧ (returnImageHalf a0 s).host.evtHead = s.host.evtHead ∧ (returnImageHalf a0 s).host.evtTail = s.host.evtTail := by
  unfold returnImageHalf
  (try dsimp only)
  (repeat' split) <;> simp

@[simp] theorem doBulkDone_window (a0 : Bool) (s : State) :
    (doBulkDone a0 s).mem = s.mem ∧ (doBulkDone a0 s).host.evtHead = s.host.evtHead ∧ (doBulkDone a0 s).host.evtTail = s.host.evtTail := by
  unfold doBulkDone
  (try dsimp only)
  (repeat' split) <;> simp

@[simp] theorem applyUnmap_window (s : State) :
    (applyUnmap s).mem = s.mem ∧ (applyUnmap s).host.evtHead = s.host.evtHead ∧ (applyUnmap s).host.evtTail = s.host.evtTail := by
  exact ⟨rfl, rfl, rfl⟩

@[simp] theorem doRing_window (a0 : Fin 4) (s : State) :
    (doRing a0 s).mem = s.mem ∧ (doRing a0 s).host.evtHead = s.host.evtHead ∧ (doRing a0 s).host.evtTail = s.host.evtTail := by
  unfold doRing
  (try dsimp only)
  (repeat' split) <;> simp

@[simp] theorem doRelease_window (a0 : Fin 4) (s : State) :
    (doRelease a0 s).mem = s.mem ∧ (doRelease a0 s).host.evtHead = s.host.evtHead ∧ (doRelease a0 s).host.evtTail = s.host.evtTail := by
  unfold doRelease
  (try dsimp only)
  (repeat' split) <;> simp

@[simp] theorem writeHwStatus_window (a0 : Word) (s : State) :
    (writeHwStatus a0 s).mem = s.mem ∧ (writeHwStatus a0 s).host.evtHead = s.host.evtHead ∧ (writeHwStatus a0 s).host.evtTail = s.host.evtTail := by
  exact ⟨rfl, rfl, rfl⟩

@[simp] theorem writeIrqStatus_window (a0 : Word) (s : State) :
    (writeIrqStatus a0 s).mem = s.mem ∧ (writeIrqStatus a0 s).host.evtHead = s.host.evtHead ∧ (writeIrqStatus a0 s).host.evtTail = s.host.evtTail := by
  exact ⟨rfl, rfl, rfl⟩

@[simp] theorem writeHostCfg_window (a0 : Word) (s : State) :
    (writeHostCfg a0 s).mem = s.mem ∧ (writeHostCfg a0 s).host.evtHead = s.host.evtHead ∧ (writeHostCfg a0 s).host.evtTail = s.host.evtTail := by
  unfold writeHostCfg
  (try dsimp only)
  (repeat' split) <;> simp

@[simp] theorem writeI2cTiming_window (a0 : Word) (s : State) :
    (writeI2cTiming a0 s).mem = s.mem ∧ (writeI2cTiming a0 s).host.evtHead = s.host.evtHead ∧ (writeI2cTiming a0 s).host.evtTail = s.host.evtTail := by
  unfold writeI2cTiming
  (try dsimp only)
  (repeat' split) <;> simp

@[simp] theorem writeI2cTimeout_window (a0 : Word) (s : State) :
    (writeI2cTimeout a0 s).mem = s.mem ∧ (writeI2cTimeout a0 s).host.evtHead = s.host.evtHead ∧ (writeI2cTimeout a0 s).host.evtTail = s.host.evtTail := by
  exact ⟨rfl, rfl, rfl⟩

@[simp] theorem writeI2cStatus_window (a0 : Word) (s : State) :
    (writeI2cStatus a0 s).mem = s.mem ∧ (writeI2cStatus a0 s).host.evtHead = s.host.evtHead ∧ (writeI2cStatus a0 s).host.evtTail = s.host.evtTail := by
  exact ⟨rfl, rfl, rfl⟩

@[simp] theorem dropFrame_window (s : State) :
    (dropFrame s).mem = s.mem ∧ (dropFrame s).host.evtHead = s.host.evtHead ∧ (dropFrame s).host.evtTail = s.host.evtTail := by
  unfold dropFrame
  (try dsimp only)
  (repeat' split) <;> simp

@[simp] theorem beginFrame_window (a0 : OpenFrame) (s : State) :
    (beginFrame a0 s).mem = s.mem ∧ (beginFrame a0 s).host.evtHead = s.host.evtHead ∧ (beginFrame a0 s).host.evtTail = s.host.evtTail := by
  unfold beginFrame
  (try dsimp only)
  (repeat' split) <;> simp

@[simp] theorem setFrame_window (a0 : OpenFrame → OpenFrame) (s : State) :
    (setFrame a0 s).mem = s.mem ∧ (setFrame a0 s).host.evtHead = s.host.evtHead ∧ (setFrame a0 s).host.evtTail = s.host.evtTail := by
  exact ⟨rfl, rfl, rfl⟩

@[simp] theorem latchFrame_window (s : State) :
    (latchFrame s).mem = s.mem ∧ (latchFrame s).host.evtHead = s.host.evtHead ∧ (latchFrame s).host.evtTail = s.host.evtTail := by
  unfold latchFrame
  (try dsimp only)
  (repeat' split) <;> simp

@[simp] theorem setPointer_window (a0 : List Byte) (s : State) :
    (setPointer a0 s).mem = s.mem ∧ (setPointer a0 s).host.evtHead = s.host.evtHead ∧ (setPointer a0 s).host.evtTail = s.host.evtTail := by
  unfold setPointer
  (try dsimp only)
  (repeat' split) <;> simp

@[simp] theorem toBoundary_window (s : State) :
    (toBoundary s).mem = s.mem ∧ (toBoundary s).host.evtHead = s.host.evtHead ∧ (toBoundary s).host.evtTail = s.host.evtTail := by
  exact ⟨rfl, rfl, rfl⟩

@[simp] theorem mirrorSlotState_window (a0 : Fin 48) (a1 : SlotState) (s : State) :
    (mirrorSlotState a0 a1 s).mem = s.mem ∧ (mirrorSlotState a0 a1 s).host.evtHead = s.host.evtHead ∧ (mirrorSlotState a0 a1 s).host.evtTail = s.host.evtTail := by
  unfold mirrorSlotState
  (try dsimp only)
  (repeat' split) <;> simp

@[simp] theorem applyForwarded_window (a0 : Cfg) (s : State) :
    (applyForwarded a0 s).mem = s.mem ∧ (applyForwarded a0 s).host.evtHead = s.host.evtHead ∧ (applyForwarded a0 s).host.evtTail = s.host.evtTail := by
  unfold applyForwarded
  (try dsimp only)
  (repeat' split) <;> simp

@[simp] theorem loseSlots_window (s : State) :
    (loseSlots s).mem = s.mem ∧ (loseSlots s).host.evtHead = s.host.evtHead ∧ (loseSlots s).host.evtTail = s.host.evtTail := by
  unfold loseSlots
  (try dsimp only)
  (repeat' split) <;> (first | (simp; done) | (refine foldl_window' _ _ _ (by simp) (fun s x => ?_) _ <;> (try dsimp only) <;> (repeat' split) <;> simp))

@[simp] theorem discardParts_window (s : State) :
    (discardParts s).mem = s.mem ∧ (discardParts s).host.evtHead = s.host.evtHead ∧ (discardParts s).host.evtTail = s.host.evtTail := by
  exact ⟨rfl, rfl, rfl⟩

@[simp] theorem beginOutage_window (s : State) :
    (beginOutage s).mem = s.mem ∧ (beginOutage s).host.evtHead = s.host.evtHead ∧ (beginOutage s).host.evtTail = s.host.evtTail := by
  unfold beginOutage
  (try dsimp only)
  (repeat' split) <;> simp

@[simp] theorem applyLinkSet_window (a0 : LinkCfg) (s : State) :
    (applyLinkSet a0 s).mem = s.mem ∧ (applyLinkSet a0 s).host.evtHead = s.host.evtHead ∧ (applyLinkSet a0 s).host.evtTail = s.host.evtTail := by
  exact ⟨rfl, rfl, rfl⟩

@[simp] theorem applyLinkPhy_window (a0 : Bool) (a1 : PhyCfg) (a2 : Bool) (s : State) :
    (applyLinkPhy a0 a1 a2 s).mem = s.mem ∧ (applyLinkPhy a0 a1 a2 s).host.evtHead = s.host.evtHead ∧ (applyLinkPhy a0 a1 a2 s).host.evtTail = s.host.evtTail := by
  unfold applyLinkPhy
  (try dsimp only)
  (repeat' split) <;> simp

@[simp] theorem beginSwitch_window (s : State) :
    (beginSwitch s).mem = s.mem ∧ (beginSwitch s).host.evtHead = s.host.evtHead ∧ (beginSwitch s).host.evtTail = s.host.evtTail := by
  unfold beginSwitch
  (try dsimp only)
  (repeat' split) <;> simp

@[simp] theorem switchDomains_window (a0 : List (Fin 8)) (a1 : List (Fin 8)) (s : State) :
    (switchDomains a0 a1 s).mem = s.mem ∧ (switchDomains a0 a1 s).host.evtHead = s.host.evtHead ∧ (switchDomains a0 a1 s).host.evtTail = s.host.evtTail := by
  unfold switchDomains
  (try dsimp only)
  (repeat' split) <;> simp

@[simp] theorem completeSwitch_window (s : State) :
    (completeSwitch s).mem = s.mem ∧ (completeSwitch s).host.evtHead = s.host.evtHead ∧ (completeSwitch s).host.evtTail = s.host.evtTail := by
  unfold completeSwitch
  (try dsimp only)
  (repeat' split) <;> simp

@[simp] theorem applyPdSet_window (a0 : BitVec 8) (a1 : BitVec 8) (s : State) :
    (applyPdSet a0 a1 s).mem = s.mem ∧ (applyPdSet a0 a1 s).host.evtHead = s.host.evtHead ∧ (applyPdSet a0 a1 s).host.evtTail = s.host.evtTail := by
  unfold applyPdSet
  (try dsimp only)
  (repeat' split) <;> simp

@[simp] theorem releaseReset_window (s : State) :
    (releaseReset s).mem = s.mem ∧ (releaseReset s).host.evtHead = s.host.evtHead ∧ (releaseReset s).host.evtTail = s.host.evtTail := by
  exact ⟨rfl, rfl, rfl⟩

@[simp] theorem startImage_window (a0 : List Byte) (s : State) :
    (startImage a0 s).mem = s.mem ∧ (startImage a0 s).host.evtHead = s.host.evtHead ∧ (startImage a0 s).host.evtTail = s.host.evtTail := by
  unfold startImage
  (try dsimp only)
  (repeat' split) <;> simp

@[simp] theorem rejectImage_window (s : State) :
    (rejectImage s).mem = s.mem ∧ (rejectImage s).host.evtHead = s.host.evtHead ∧ (rejectImage s).host.evtTail = s.host.evtTail := by
  unfold rejectImage
  (try dsimp only)
  (repeat' split) <;> simp

@[simp] theorem beginBoot_window (s : State) :
    (beginBoot s).mem = s.mem ∧ (beginBoot s).host.evtHead = s.host.evtHead ∧ (beginBoot s).host.evtTail = s.host.evtTail := by
  unfold beginBoot
  (try dsimp only)
  (repeat' split) <;> simp

@[simp] theorem powerOffNand_window (s : State) :
    (powerOffNand s).mem = s.mem ∧ (powerOffNand s).host.evtHead = s.host.evtHead ∧ (powerOffNand s).host.evtTail = s.host.evtTail := by
  exact ⟨rfl, rfl, rfl⟩

@[simp] theorem confirmRole_window (a0 : BitVec 2) (s : State) :
    (confirmRole a0 s).mem = s.mem ∧ (confirmRole a0 s).host.evtHead = s.host.evtHead ∧ (confirmRole a0 s).host.evtTail = s.host.evtTail := by
  unfold confirmRole
  (try dsimp only)
  (repeat' split) <;> simp

@[simp] theorem acceptTxn_window (a0 : Word) (a1 : List Cfg) (a2 : Nat) (s : State) :
    (acceptTxn a0 a1 a2 s).mem = s.mem ∧ (acceptTxn a0 a1 a2 s).host.evtHead = s.host.evtHead ∧ (acceptTxn a0 a1 a2 s).host.evtTail = s.host.evtTail := by
  exact ⟨rfl, rfl, rfl⟩

@[simp] theorem closeTxn_window (a0 : Fin 4) (s : State) :
    (closeTxn a0 s).mem = s.mem ∧ (closeTxn a0 s).host.evtHead = s.host.evtHead ∧ (closeTxn a0 s).host.evtTail = s.host.evtTail := by
  exact ⟨rfl, rfl, rfl⟩

@[simp] theorem sendCancel_window (a0 : Word) (a1 : Nat) (s : State) :
    (sendCancel a0 a1 s).mem = s.mem ∧ (sendCancel a0 a1 s).host.evtHead = s.host.evtHead ∧ (sendCancel a0 a1 s).host.evtTail = s.host.evtTail := by
  unfold sendCancel
  (try dsimp only)
  (repeat' split) <;> simp

@[simp] theorem sendCancels_window (s : State) :
    (sendCancels s).mem = s.mem ∧ (sendCancels s).host.evtHead = s.host.evtHead ∧ (sendCancels s).host.evtTail = s.host.evtTail := by
  unfold sendCancels
  (try dsimp only)
  (repeat' split) <;> simp

@[simp] theorem reportStage_window (s : State) :
    (reportStage s).mem = s.mem ∧ (reportStage s).host.evtHead = s.host.evtHead ∧ (reportStage s).host.evtTail = s.host.evtTail := by
  unfold reportStage
  (try dsimp only)
  (repeat' split) <;> simp

@[simp] theorem takePart_window (a0 : List Byte) (s : State) :
    (takePart a0 s).mem = s.mem ∧ (takePart a0 s).host.evtHead = s.host.evtHead ∧ (takePart a0 s).host.evtTail = s.host.evtTail := by
  unfold takePart
  (try dsimp only)
  (repeat' split) <;> simp

@[simp] theorem flushResponse_window (a0 : Fin 4) (s : State) :
    (flushResponse a0 s).mem = s.mem ∧ (flushResponse a0 s).host.evtHead = s.host.evtHead ∧ (flushResponse a0 s).host.evtTail = s.host.evtTail := by
  unfold flushResponse
  (try dsimp only)
  (repeat' split) <;> simp

@[simp] theorem flushResponses_window (s : State) :
    (flushResponses s).mem = s.mem ∧ (flushResponses s).host.evtHead = s.host.evtHead ∧ (flushResponses s).host.evtTail = s.host.evtTail := by
  unfold flushResponses
  (try dsimp only)
  (repeat' split) <;> simp

@[simp] theorem takeUnit_window (a0 : Fin 48) (a1 : List Byte) (s : State) :
    (takeUnit a0 a1 s).mem = s.mem ∧ (takeUnit a0 a1 s).host.evtHead = s.host.evtHead ∧ (takeUnit a0 a1 s).host.evtTail = s.host.evtTail := by
  exact ⟨rfl, rfl, rfl⟩

@[simp] theorem takeAac_window (a0 : Fin 48) (a1 : List Byte) (s : State) :
    (takeAac a0 a1 s).mem = s.mem ∧ (takeAac a0 a1 s).host.evtHead = s.host.evtHead ∧ (takeAac a0 a1 s).host.evtTail = s.host.evtTail := by
  exact ⟨rfl, rfl, rfl⟩

@[simp] theorem mirrorSlot_window (a0 : Fin 48 × List Byte) (s : State) :
    (mirrorSlot a0 s).mem = s.mem ∧ (mirrorSlot a0 s).host.evtHead = s.host.evtHead ∧ (mirrorSlot a0 s).host.evtTail = s.host.evtTail := by
  unfold mirrorSlot
  (try dsimp only)
  (repeat' split) <;> simp

@[simp] theorem takeRecords_window (a0 : MirrorRx) (s : State) :
    (takeRecords a0 s).mem = s.mem ∧ (takeRecords a0 s).host.evtHead = s.host.evtHead ∧ (takeRecords a0 s).host.evtTail = s.host.evtTail := by
  exact ⟨rfl, rfl, rfl⟩

@[simp] theorem mirrorDb_window (a0 : List DbRec) (a1 : List MirrorRec) (s : State) :
    (mirrorDb a0 a1 s).mem = s.mem ∧ (mirrorDb a0 a1 s).host.evtHead = s.host.evtHead ∧ (mirrorDb a0 a1 s).host.evtTail = s.host.evtTail := by
  exact ⟨rfl, rfl, rfl⟩

@[simp] theorem mirrorFault_window (a0 : Event) (s : State) :
    (mirrorFault a0 s).mem = s.mem ∧ (mirrorFault a0 s).host.evtHead = s.host.evtHead ∧ (mirrorFault a0 s).host.evtTail = s.host.evtTail := by
  unfold mirrorFault
  (try dsimp only)
  (repeat' split) <;> simp

@[simp] theorem mirrorEvents_window (a0 : MirrorRx) (s : State) :
    (mirrorEvents a0 s).mem = s.mem ∧ (mirrorEvents a0 s).host.evtHead = s.host.evtHead ∧ (mirrorEvents a0 s).host.evtTail = s.host.evtTail := by
  unfold mirrorEvents
  (try dsimp only)
  (repeat' split) <;> (first | (simp; done) | (refine foldl_window' _ _ _ (by simp) (fun s x => ?_) _ <;> (try dsimp only) <;> (repeat' split) <;> simp))

@[simp] theorem takeSlotRecord_window (a0 : Fin 48 × List Byte) (s : State) :
    (takeSlotRecord a0 s).mem = s.mem ∧ (takeSlotRecord a0 s).host.evtHead = s.host.evtHead ∧ (takeSlotRecord a0 s).host.evtTail = s.host.evtTail := by
  unfold takeSlotRecord
  (try dsimp only)
  (repeat' split) <;> simp

@[simp] theorem takeBundle_window (a0 : MirrorRx) (s : State) :
    (takeBundle a0 s).mem = s.mem ∧ (takeBundle a0 s).host.evtHead = s.host.evtHead ∧ (takeBundle a0 s).host.evtTail = s.host.evtTail := by
  unfold takeBundle
  (try dsimp only)
  (repeat' split) <;> simp

@[simp] theorem bundleRule_window (s : State) :
    (bundleRule s).mem = s.mem ∧ (bundleRule s).host.evtHead = s.host.evtHead ∧ (bundleRule s).host.evtTail = s.host.evtTail := by
  unfold bundleRule
  (try dsimp only)
  (repeat' split) <;> (first | (simp; done) | (refine foldl_window' _ _ _ (by simp) (fun s x => ?_) _ <;> (try dsimp only) <;> (repeat' split) <;> simp))

@[simp] theorem stepGeneration_window (s : State) :
    (stepGeneration s).mem = s.mem ∧ (stepGeneration s).host.evtHead = s.host.evtHead ∧ (stepGeneration s).host.evtTail = s.host.evtTail := by
  exact ⟨rfl, rfl, rfl⟩

@[simp] theorem rebuildDb_window (a0 : List MirrorRec) (s : State) :
    (rebuildDb a0 s).mem = s.mem ∧ (rebuildDb a0 s).host.evtHead = s.host.evtHead ∧ (rebuildDb a0 s).host.evtTail = s.host.evtTail := by
  unfold rebuildDb
  (try dsimp only)
  (repeat' split) <;> simp

@[simp] theorem returnSlots_window (s : State) :
    (returnSlots s).mem = s.mem ∧ (returnSlots s).host.evtHead = s.host.evtHead ∧ (returnSlots s).host.evtTail = s.host.evtTail := by
  unfold returnSlots
  (try dsimp only)
  (repeat' split) <;> (first | (simp; done) | (refine foldl_window' _ _ _ (by simp) (fun s x => ?_) _ <;> (try dsimp only) <;> (repeat' split) <;> simp))

@[simp] theorem returnRule_window (s : State) :
    (returnRule s).mem = s.mem ∧ (returnRule s).host.evtHead = s.host.evtHead ∧ (returnRule s).host.evtTail = s.host.evtTail := by
  unfold returnRule
  (try dsimp only)
  (repeat' split) <;> (first | (simp; done) | (refine foldl_window' _ _ _ (by simp) (fun s x => ?_) _ <;> (try dsimp only) <;> (repeat' split) <;> simp))

@[simp] theorem pushBundle_window (s : State) :
    (pushBundle s).mem = s.mem ∧ (pushBundle s).host.evtHead = s.host.evtHead ∧ (pushBundle s).host.evtTail = s.host.evtTail := by
  exact ⟨rfl, rfl, rfl⟩

@[simp] theorem beginMirror_window (s : State) :
    (beginMirror s).mem = s.mem ∧ (beginMirror s).host.evtHead = s.host.evtHead ∧ (beginMirror s).host.evtTail = s.host.evtTail := by
  unfold beginMirror
  (try dsimp only)
  (repeat' split) <;> simp

@[simp] theorem sendAac_window (a0 : AacEnc) (a1 : Bool) (a2 : Bool) (s : State) :
    (sendAac a0 a1 a2 s).mem = s.mem ∧ (sendAac a0 a1 a2 s).host.evtHead = s.host.evtHead ∧ (sendAac a0 a1 a2 s).host.evtTail = s.host.evtTail := by
  unfold sendAac
  (try dsimp only)
  (repeat' split) <;> simp

@[simp] theorem tellRates_window (s : State) :
    (tellRates s).mem = s.mem ∧ (tellRates s).host.evtHead = s.host.evtHead ∧ (tellRates s).host.evtTail = s.host.evtTail := by
  unfold tellRates
  (try dsimp only)
  (repeat' split) <;> simp

@[simp] theorem measureStroke_window (s : State) :
    (measureStroke s).mem = s.mem ∧ (measureStroke s).host.evtHead = s.host.evtHead ∧ (measureStroke s).host.evtTail = s.host.evtTail := by
  unfold measureStroke
  (try dsimp only)
  (repeat' split) <;> simp

@[simp] theorem slotStateRules_window (a0 : Fin 48) (s : State) :
    (slotStateRules a0 s).mem = s.mem ∧ (slotStateRules a0 s).host.evtHead = s.host.evtHead ∧ (slotStateRules a0 s).host.evtTail = s.host.evtTail := by
  unfold slotStateRules
  (try dsimp only)
  (repeat' split) <;> simp

@[simp] theorem passHolds_window (s : State) :
    (passHolds s).mem = s.mem ∧ (passHolds s).host.evtHead = s.host.evtHead ∧ (passHolds s).host.evtTail = s.host.evtTail := by
  exact ⟨rfl, rfl, rfl⟩

@[simp] theorem noteGenerations_window (s : State) :
    (noteGenerations s).mem = s.mem ∧ (noteGenerations s).host.evtHead = s.host.evtHead ∧ (noteGenerations s).host.evtTail = s.host.evtTail := by
  exact ⟨rfl, rfl, rfl⟩

@[simp] theorem restampAt_window (a0 : Nat) (a1 : Nat) (s : State) :
    (restampAt a0 a1 s).mem = s.mem ∧ (restampAt a0 a1 s).host.evtHead = s.host.evtHead ∧ (restampAt a0 a1 s).host.evtTail = s.host.evtTail := by
  exact ⟨rfl, rfl, rfl⟩

@[simp] theorem latchAll_window (s : State) :
    (latchAll s).mem = s.mem ∧ (latchAll s).host.evtHead = s.host.evtHead ∧ (latchAll s).host.evtTail = s.host.evtTail := by
  exact ⟨rfl, rfl, rfl⟩

end Sys2Proof.Laws
end

