-- ==== Sys2Proof/Laws/Ring.lean ====
section
/-! SUPPORT. The operations that do write the window keep it well: posting an event, a response, and the host's write of
`EVT_TAIL` leave the memory canonical and the ring within its 64 entries (R101, R103, R104). -/

namespace Sys2Proof.Laws

open Sys2Proof.Machine Sys2Proof.Safety

/-- The two invariants together. -/
theorem keeps_of_window {s t : State} (h : t.mem = s.mem ∧ t.host.evtHead = s.host.evtHead ∧ t.host.evtTail = s.host.evtTail)
    (hs : memoryCanonical s ∧ ringBounded s) : memoryCanonical t ∧ ringBounded t := by
  obtain ⟨a, b, c⟩ := h
  simpa [memoryCanonical, ringBounded, a, b, c] using hs

/-- Posting an event. -/
theorem postEvent_keeps (s : State) (e : Event) (h : memoryCanonical s ∧ ringBounded s) :
    memoryCanonical (postEvent s e) ∧ ringBounded (postEvent s e) := by
  obtain ⟨hm, hr⟩ := h
  unfold postEvent
  split
  · exact ⟨hm, hr⟩
  · next hne =>
    refine ⟨memWf_memWrite hm _ _, ?_⟩
    simp only [ringBounded, raiseIrq, noteTrace] at hr ⊢
    bv_omega

/-- A fold of operations that keep the invariants keeps them. -/
theorem foldl_keeps {α : Type} (f : State → α → State)
    (hf : ∀ s x, memoryCanonical s ∧ ringBounded s → memoryCanonical (f s x) ∧ ringBounded (f s x)) (l : List α) (s : State)
    (h : memoryCanonical s ∧ ringBounded s) : memoryCanonical (l.foldl f s) ∧ ringBounded (l.foldl f s) := by
  induction l generalizing s with
  | nil => exact h
  | cons x xs ih => exact ih _ (hf s x h)

/-- Posting every due event. -/
theorem postDueEvents_keeps (s : State) (h : memoryCanonical s ∧ ringBounded s) :
    memoryCanonical (postDueEvents s) ∧ ringBounded (postDueEvents s) :=
  foldl_keeps postEvent postEvent_keeps _ _ h

/-- A response written to its buffer. -/
theorem respond_keeps (ch : Fin 4) (st : Status) (p : List Byte) (s : State) (h : memoryCanonical s ∧ ringBounded s) :
    memoryCanonical (respond ch st p s) ∧ ringBounded (respond ch st p s) :=
  ⟨memWf_memWrite h.1 _ _, h.2⟩

/-- The host's write of `EVT_TAIL`. -/
theorem writeEvtTail_keeps (w : Word) (s : State) (h : memoryCanonical s ∧ ringBounded s) :
    memoryCanonical (writeEvtTail w s) ∧ ringBounded (writeEvtTail w s) := by
  obtain ⟨hm, hr⟩ := h
  unfold writeEvtTail
  dsimp only
  split
  · refine ⟨hm, ?_⟩
    simp only [ringBounded] at hr ⊢
    bv_omega
  · exact keeps_of_window (by simp) ⟨hm, hr⟩

end Sys2Proof.Laws
end

