-- ==== Sys2Proof/Laws/State.lean ====
section
/-! SUPPORT. The named updates of State, field by field, so that no proof unfolds a record update: the field an update
writes, and beside it every field it leaves alone. -/

namespace Sys2Proof.Laws

open Sys2Proof.Machine

/-! ### Vectors -/

@[simp] theorem vmod_self {α : Type} {n : Nat} (v : Vector α n) (i : Fin n) (f : α → α) : (vmod v i f)[i.val] = f v[i.val] := by
  simp [vmod]

theorem vmod_other {α : Type} {n : Nat} (v : Vector α n) {i j : Fin n} (h : i ≠ j) (f : α → α) :
    (vmod v i f)[j] = v[j] := by
  have : i.val ≠ j.val := fun e => h (Fin.ext e)
  simp [vmod, Vector.getElem_set_ne, this]

theorem vmod_getElem {α : Type} {n : Nat} (v : Vector α n) (i j : Fin n) (f : α → α) :
    (vmod v i f)[j] = if i = j then f v[j] else v[j] := by
  by_cases h : i = j
  · subst h; simp
  · simp [h, vmod_other v h f]

/-! ### The updates -/

variable (s : State)

/-- What `raiseIrq` writes. -/
@[simp] theorem raiseIrq_host (b : BitVec 10) : (raiseIrq s b).host = { s.host with irqStatus := s.host.irqStatus ||| b } := rfl

/-- What `raiseIrq` leaves alone. -/
@[simp] theorem raiseIrq_frame (b : BitVec 10) :
    (raiseIrq s b).now = s.now ∧ (raiseIrq s b).pd1 = s.pd1 ∧ (raiseIrq s b).pins = s.pins ∧
    (raiseIrq s b).otp = s.otp ∧ (raiseIrq s b).rom = s.rom ∧ (raiseIrq s b).mem = s.mem ∧
    (raiseIrq s b).bulk = s.bulk ∧ (raiseIrq s b).chan = s.chan ∧ (raiseIrq s b).abortPending = s.abortPending ∧
    (raiseIrq s b).ringOrder = s.ringOrder ∧ (raiseIrq s b).ops = s.ops ∧ (raiseIrq s b).txns = s.txns ∧
    (raiseIrq s b).nextTxn = s.nextTxn ∧ (raiseIrq s b).accepted = s.accepted ∧
    (raiseIrq s b).history = s.history ∧ (raiseIrq s b).faults = s.faults ∧
    (raiseIrq s b).faultsLost = s.faultsLost ∧ (raiseIrq s b).evq = s.evq ∧ (raiseIrq s b).evSeq = s.evSeq ∧
    (raiseIrq s b).resetAt = s.resetAt ∧ (raiseIrq s b).boot = s.boot ∧ (raiseIrq s b).power = s.power ∧
    (raiseIrq s b).counters = s.counters ∧ (raiseIrq s b).counterLatch = s.counterLatch ∧
    (raiseIrq s b).inputs = s.inputs ∧ (raiseIrq s b).convs = s.convs ∧ (raiseIrq s b).slots = s.slots ∧
    (raiseIrq s b).side = s.side ∧ (raiseIrq s b).db = s.db ∧ (raiseIrq s b).census = s.census ∧
    (raiseIrq s b).follow = s.follow ∧ (raiseIrq s b).outs = s.outs ∧ (raiseIrq s b).ports = s.ports ∧
    (raiseIrq s b).audio = s.audio ∧ (raiseIrq s b).media = s.media ∧ (raiseIrq s b).store = s.store ∧
    (raiseIrq s b).dispatch = s.dispatch ∧ (raiseIrq s b).link = s.link ∧ (raiseIrq s b).phy = s.phy ∧
    (raiseIrq s b).aux = s.aux ∧ (raiseIrq s b).gpio = s.gpio ∧ (raiseIrq s b).trace = s.trace ∧
    (raiseIrq s b).latch = s.latch ∧ (raiseIrq s b).xq = s.xq ∧ (raiseIrq s b).freeNext = s.freeNext ∧
    (raiseIrq s b).pending = s.pending := by
  simp [raiseIrq]

/-- What `queueEventAt` writes. -/
@[simp] theorem queueEventAt_evq (ts c o : Nat) (p : List Byte) : (queueEventAt s ts c o p).evq = s.evq ++ [⟨BitVec.ofNat 16 c, BitVec.ofNat 16 o, ts, p ++ zeros (16 - p.length)⟩] := rfl

/-- What `queueEventAt` leaves alone. -/
@[simp] theorem queueEventAt_frame (ts c o : Nat) (p : List Byte) :
    (queueEventAt s ts c o p).now = s.now ∧ (queueEventAt s ts c o p).pd1 = s.pd1 ∧
    (queueEventAt s ts c o p).pins = s.pins ∧ (queueEventAt s ts c o p).otp = s.otp ∧
    (queueEventAt s ts c o p).rom = s.rom ∧ (queueEventAt s ts c o p).host = s.host ∧
    (queueEventAt s ts c o p).mem = s.mem ∧ (queueEventAt s ts c o p).bulk = s.bulk ∧
    (queueEventAt s ts c o p).chan = s.chan ∧ (queueEventAt s ts c o p).abortPending = s.abortPending ∧
    (queueEventAt s ts c o p).ringOrder = s.ringOrder ∧ (queueEventAt s ts c o p).ops = s.ops ∧
    (queueEventAt s ts c o p).txns = s.txns ∧ (queueEventAt s ts c o p).nextTxn = s.nextTxn ∧
    (queueEventAt s ts c o p).accepted = s.accepted ∧ (queueEventAt s ts c o p).history = s.history ∧
    (queueEventAt s ts c o p).faults = s.faults ∧ (queueEventAt s ts c o p).faultsLost = s.faultsLost ∧
    (queueEventAt s ts c o p).evSeq = s.evSeq ∧ (queueEventAt s ts c o p).resetAt = s.resetAt ∧
    (queueEventAt s ts c o p).boot = s.boot ∧ (queueEventAt s ts c o p).power = s.power ∧
    (queueEventAt s ts c o p).counters = s.counters ∧ (queueEventAt s ts c o p).counterLatch = s.counterLatch ∧
    (queueEventAt s ts c o p).inputs = s.inputs ∧ (queueEventAt s ts c o p).convs = s.convs ∧
    (queueEventAt s ts c o p).slots = s.slots ∧ (queueEventAt s ts c o p).side = s.side ∧
    (queueEventAt s ts c o p).db = s.db ∧ (queueEventAt s ts c o p).census = s.census ∧
    (queueEventAt s ts c o p).follow = s.follow ∧ (queueEventAt s ts c o p).outs = s.outs ∧
    (queueEventAt s ts c o p).ports = s.ports ∧ (queueEventAt s ts c o p).audio = s.audio ∧
    (queueEventAt s ts c o p).media = s.media ∧ (queueEventAt s ts c o p).store = s.store ∧
    (queueEventAt s ts c o p).dispatch = s.dispatch ∧ (queueEventAt s ts c o p).link = s.link ∧
    (queueEventAt s ts c o p).phy = s.phy ∧ (queueEventAt s ts c o p).aux = s.aux ∧
    (queueEventAt s ts c o p).gpio = s.gpio ∧ (queueEventAt s ts c o p).trace = s.trace ∧
    (queueEventAt s ts c o p).latch = s.latch ∧ (queueEventAt s ts c o p).xq = s.xq ∧
    (queueEventAt s ts c o p).freeNext = s.freeNext ∧ (queueEventAt s ts c o p).pending = s.pending := by
  simp [queueEventAt]

/-- What `modInput` writes. -/
@[simp] theorem modInput_inputs (i : Fin 3) (f : FeInput → FeInput) : (modInput s i f).inputs = vmod s.inputs i f := rfl

/-- What `modInput` leaves alone. -/
@[simp] theorem modInput_frame (i : Fin 3) (f : FeInput → FeInput) :
    (modInput s i f).now = s.now ∧ (modInput s i f).pd1 = s.pd1 ∧ (modInput s i f).pins = s.pins ∧
    (modInput s i f).otp = s.otp ∧ (modInput s i f).rom = s.rom ∧ (modInput s i f).host = s.host ∧
    (modInput s i f).mem = s.mem ∧ (modInput s i f).bulk = s.bulk ∧ (modInput s i f).chan = s.chan ∧
    (modInput s i f).abortPending = s.abortPending ∧ (modInput s i f).ringOrder = s.ringOrder ∧
    (modInput s i f).ops = s.ops ∧ (modInput s i f).txns = s.txns ∧ (modInput s i f).nextTxn = s.nextTxn ∧
    (modInput s i f).accepted = s.accepted ∧ (modInput s i f).history = s.history ∧
    (modInput s i f).faults = s.faults ∧ (modInput s i f).faultsLost = s.faultsLost ∧
    (modInput s i f).evq = s.evq ∧ (modInput s i f).evSeq = s.evSeq ∧ (modInput s i f).resetAt = s.resetAt ∧
    (modInput s i f).boot = s.boot ∧ (modInput s i f).power = s.power ∧ (modInput s i f).counters = s.counters ∧
    (modInput s i f).counterLatch = s.counterLatch ∧ (modInput s i f).convs = s.convs ∧
    (modInput s i f).slots = s.slots ∧ (modInput s i f).side = s.side ∧ (modInput s i f).db = s.db ∧
    (modInput s i f).census = s.census ∧ (modInput s i f).follow = s.follow ∧ (modInput s i f).outs = s.outs ∧
    (modInput s i f).ports = s.ports ∧ (modInput s i f).audio = s.audio ∧ (modInput s i f).media = s.media ∧
    (modInput s i f).store = s.store ∧ (modInput s i f).dispatch = s.dispatch ∧ (modInput s i f).link = s.link ∧
    (modInput s i f).phy = s.phy ∧ (modInput s i f).aux = s.aux ∧ (modInput s i f).gpio = s.gpio ∧
    (modInput s i f).latch = s.latch ∧ (modInput s i f).xq = s.xq ∧ (modInput s i f).freeNext = s.freeNext ∧
    (modInput s i f).pending = s.pending := by
  simp [modInput]

/-- What `modConv` writes. -/
@[simp] theorem modConv_convs (i : Fin 3) (f : TemperConv → TemperConv) : (modConv s i f).convs = vmod s.convs i f := rfl

/-- What `modConv` leaves alone. -/
@[simp] theorem modConv_frame (i : Fin 3) (f : TemperConv → TemperConv) :
    (modConv s i f).now = s.now ∧ (modConv s i f).pd1 = s.pd1 ∧ (modConv s i f).pins = s.pins ∧
    (modConv s i f).otp = s.otp ∧ (modConv s i f).rom = s.rom ∧ (modConv s i f).host = s.host ∧
    (modConv s i f).mem = s.mem ∧ (modConv s i f).bulk = s.bulk ∧ (modConv s i f).chan = s.chan ∧
    (modConv s i f).abortPending = s.abortPending ∧ (modConv s i f).ringOrder = s.ringOrder ∧
    (modConv s i f).ops = s.ops ∧ (modConv s i f).txns = s.txns ∧ (modConv s i f).nextTxn = s.nextTxn ∧
    (modConv s i f).accepted = s.accepted ∧ (modConv s i f).history = s.history ∧
    (modConv s i f).faults = s.faults ∧ (modConv s i f).faultsLost = s.faultsLost ∧ (modConv s i f).evq = s.evq ∧
    (modConv s i f).evSeq = s.evSeq ∧ (modConv s i f).resetAt = s.resetAt ∧ (modConv s i f).boot = s.boot ∧
    (modConv s i f).power = s.power ∧ (modConv s i f).counters = s.counters ∧
    (modConv s i f).counterLatch = s.counterLatch ∧ (modConv s i f).inputs = s.inputs ∧
    (modConv s i f).slots = s.slots ∧ (modConv s i f).side = s.side ∧ (modConv s i f).db = s.db ∧
    (modConv s i f).census = s.census ∧ (modConv s i f).follow = s.follow ∧ (modConv s i f).outs = s.outs ∧
    (modConv s i f).ports = s.ports ∧ (modConv s i f).audio = s.audio ∧ (modConv s i f).media = s.media ∧
    (modConv s i f).store = s.store ∧ (modConv s i f).dispatch = s.dispatch ∧ (modConv s i f).link = s.link ∧
    (modConv s i f).phy = s.phy ∧ (modConv s i f).aux = s.aux ∧ (modConv s i f).gpio = s.gpio ∧
    (modConv s i f).latch = s.latch ∧ (modConv s i f).xq = s.xq ∧ (modConv s i f).freeNext = s.freeNext ∧
    (modConv s i f).pending = s.pending := by
  simp [modConv]

/-- What `modSlot` writes. -/
@[simp] theorem modSlot_slots (i : Fin 48) (f : Slot → Slot) : (modSlot s i f).slots = vmod s.slots i f := rfl

/-- What `modSlot` leaves alone. -/
@[simp] theorem modSlot_frame (i : Fin 48) (f : Slot → Slot) :
    (modSlot s i f).now = s.now ∧ (modSlot s i f).pd1 = s.pd1 ∧ (modSlot s i f).pins = s.pins ∧
    (modSlot s i f).otp = s.otp ∧ (modSlot s i f).rom = s.rom ∧ (modSlot s i f).host = s.host ∧
    (modSlot s i f).mem = s.mem ∧ (modSlot s i f).bulk = s.bulk ∧ (modSlot s i f).chan = s.chan ∧
    (modSlot s i f).abortPending = s.abortPending ∧ (modSlot s i f).ringOrder = s.ringOrder ∧
    (modSlot s i f).ops = s.ops ∧ (modSlot s i f).txns = s.txns ∧ (modSlot s i f).nextTxn = s.nextTxn ∧
    (modSlot s i f).accepted = s.accepted ∧ (modSlot s i f).history = s.history ∧
    (modSlot s i f).faults = s.faults ∧ (modSlot s i f).faultsLost = s.faultsLost ∧ (modSlot s i f).evq = s.evq ∧
    (modSlot s i f).evSeq = s.evSeq ∧ (modSlot s i f).resetAt = s.resetAt ∧ (modSlot s i f).boot = s.boot ∧
    (modSlot s i f).power = s.power ∧ (modSlot s i f).counters = s.counters ∧
    (modSlot s i f).counterLatch = s.counterLatch ∧ (modSlot s i f).inputs = s.inputs ∧
    (modSlot s i f).convs = s.convs ∧ (modSlot s i f).side = s.side ∧ (modSlot s i f).db = s.db ∧
    (modSlot s i f).census = s.census ∧ (modSlot s i f).follow = s.follow ∧ (modSlot s i f).outs = s.outs ∧
    (modSlot s i f).ports = s.ports ∧ (modSlot s i f).audio = s.audio ∧ (modSlot s i f).media = s.media ∧
    (modSlot s i f).store = s.store ∧ (modSlot s i f).dispatch = s.dispatch ∧ (modSlot s i f).link = s.link ∧
    (modSlot s i f).phy = s.phy ∧ (modSlot s i f).aux = s.aux ∧ (modSlot s i f).gpio = s.gpio ∧
    (modSlot s i f).trace = s.trace ∧ (modSlot s i f).latch = s.latch ∧ (modSlot s i f).xq = s.xq ∧
    (modSlot s i f).freeNext = s.freeNext ∧ (modSlot s i f).pending = s.pending := by
  simp [modSlot]

/-- What `modOut` writes. -/
@[simp] theorem modOut_outs (o : Fin 8) (f : Output → Output) : (modOut s o f).outs = vmod s.outs o f := rfl

/-- What `modOut` leaves alone. -/
@[simp] theorem modOut_frame (o : Fin 8) (f : Output → Output) :
    (modOut s o f).now = s.now ∧ (modOut s o f).pd1 = s.pd1 ∧ (modOut s o f).pins = s.pins ∧
    (modOut s o f).otp = s.otp ∧ (modOut s o f).rom = s.rom ∧ (modOut s o f).host = s.host ∧
    (modOut s o f).mem = s.mem ∧ (modOut s o f).bulk = s.bulk ∧ (modOut s o f).chan = s.chan ∧
    (modOut s o f).abortPending = s.abortPending ∧ (modOut s o f).ringOrder = s.ringOrder ∧
    (modOut s o f).ops = s.ops ∧ (modOut s o f).txns = s.txns ∧ (modOut s o f).nextTxn = s.nextTxn ∧
    (modOut s o f).accepted = s.accepted ∧ (modOut s o f).history = s.history ∧ (modOut s o f).faults = s.faults ∧
    (modOut s o f).faultsLost = s.faultsLost ∧ (modOut s o f).evq = s.evq ∧ (modOut s o f).evSeq = s.evSeq ∧
    (modOut s o f).resetAt = s.resetAt ∧ (modOut s o f).boot = s.boot ∧ (modOut s o f).power = s.power ∧
    (modOut s o f).counters = s.counters ∧ (modOut s o f).counterLatch = s.counterLatch ∧
    (modOut s o f).inputs = s.inputs ∧ (modOut s o f).convs = s.convs ∧ (modOut s o f).slots = s.slots ∧
    (modOut s o f).side = s.side ∧ (modOut s o f).db = s.db ∧ (modOut s o f).census = s.census ∧
    (modOut s o f).follow = s.follow ∧ (modOut s o f).ports = s.ports ∧ (modOut s o f).audio = s.audio ∧
    (modOut s o f).media = s.media ∧ (modOut s o f).store = s.store ∧ (modOut s o f).dispatch = s.dispatch ∧
    (modOut s o f).link = s.link ∧ (modOut s o f).phy = s.phy ∧ (modOut s o f).aux = s.aux ∧
    (modOut s o f).gpio = s.gpio ∧ (modOut s o f).trace = s.trace ∧ (modOut s o f).latch = s.latch ∧
    (modOut s o f).xq = s.xq ∧ (modOut s o f).freeNext = s.freeNext ∧ (modOut s o f).pending = s.pending := by
  simp [modOut]

/-- What `modPort` writes. -/
@[simp] theorem modPort_ports (p : Fin 2) (f : Port → Port) : (modPort s p f).ports = vmod s.ports p f := rfl

/-- What `modPort` leaves alone. -/
@[simp] theorem modPort_frame (p : Fin 2) (f : Port → Port) :
    (modPort s p f).now = s.now ∧ (modPort s p f).pd1 = s.pd1 ∧ (modPort s p f).pins = s.pins ∧
    (modPort s p f).otp = s.otp ∧ (modPort s p f).rom = s.rom ∧ (modPort s p f).host = s.host ∧
    (modPort s p f).mem = s.mem ∧ (modPort s p f).bulk = s.bulk ∧ (modPort s p f).chan = s.chan ∧
    (modPort s p f).abortPending = s.abortPending ∧ (modPort s p f).ringOrder = s.ringOrder ∧
    (modPort s p f).ops = s.ops ∧ (modPort s p f).txns = s.txns ∧ (modPort s p f).nextTxn = s.nextTxn ∧
    (modPort s p f).accepted = s.accepted ∧ (modPort s p f).history = s.history ∧
    (modPort s p f).faults = s.faults ∧ (modPort s p f).faultsLost = s.faultsLost ∧ (modPort s p f).evq = s.evq ∧
    (modPort s p f).evSeq = s.evSeq ∧ (modPort s p f).resetAt = s.resetAt ∧ (modPort s p f).boot = s.boot ∧
    (modPort s p f).power = s.power ∧ (modPort s p f).counters = s.counters ∧
    (modPort s p f).counterLatch = s.counterLatch ∧ (modPort s p f).inputs = s.inputs ∧
    (modPort s p f).convs = s.convs ∧ (modPort s p f).slots = s.slots ∧ (modPort s p f).side = s.side ∧
    (modPort s p f).db = s.db ∧ (modPort s p f).census = s.census ∧ (modPort s p f).follow = s.follow ∧
    (modPort s p f).outs = s.outs ∧ (modPort s p f).audio = s.audio ∧ (modPort s p f).media = s.media ∧
    (modPort s p f).store = s.store ∧ (modPort s p f).dispatch = s.dispatch ∧ (modPort s p f).link = s.link ∧
    (modPort s p f).phy = s.phy ∧ (modPort s p f).aux = s.aux ∧ (modPort s p f).gpio = s.gpio ∧
    (modPort s p f).trace = s.trace ∧ (modPort s p f).latch = s.latch ∧ (modPort s p f).xq = s.xq ∧
    (modPort s p f).freeNext = s.freeNext ∧ (modPort s p f).pending = s.pending := by
  simp [modPort]

/-- What `modFollow` writes. -/
@[simp] theorem modFollow_follow (o : Fin 8) (f : Follower → Follower) : (modFollow s o f).follow = vmod s.follow o f := rfl

/-- What `modFollow` leaves alone. -/
@[simp] theorem modFollow_frame (o : Fin 8) (f : Follower → Follower) :
    (modFollow s o f).now = s.now ∧ (modFollow s o f).pd1 = s.pd1 ∧ (modFollow s o f).pins = s.pins ∧
    (modFollow s o f).otp = s.otp ∧ (modFollow s o f).rom = s.rom ∧ (modFollow s o f).host = s.host ∧
    (modFollow s o f).mem = s.mem ∧ (modFollow s o f).bulk = s.bulk ∧ (modFollow s o f).chan = s.chan ∧
    (modFollow s o f).abortPending = s.abortPending ∧ (modFollow s o f).ringOrder = s.ringOrder ∧
    (modFollow s o f).ops = s.ops ∧ (modFollow s o f).txns = s.txns ∧ (modFollow s o f).nextTxn = s.nextTxn ∧
    (modFollow s o f).accepted = s.accepted ∧ (modFollow s o f).history = s.history ∧
    (modFollow s o f).faults = s.faults ∧ (modFollow s o f).faultsLost = s.faultsLost ∧
    (modFollow s o f).evq = s.evq ∧ (modFollow s o f).evSeq = s.evSeq ∧ (modFollow s o f).resetAt = s.resetAt ∧
    (modFollow s o f).boot = s.boot ∧ (modFollow s o f).power = s.power ∧ (modFollow s o f).counters = s.counters ∧
    (modFollow s o f).counterLatch = s.counterLatch ∧ (modFollow s o f).inputs = s.inputs ∧
    (modFollow s o f).convs = s.convs ∧ (modFollow s o f).slots = s.slots ∧ (modFollow s o f).side = s.side ∧
    (modFollow s o f).db = s.db ∧ (modFollow s o f).census = s.census ∧ (modFollow s o f).outs = s.outs ∧
    (modFollow s o f).ports = s.ports ∧ (modFollow s o f).audio = s.audio ∧ (modFollow s o f).media = s.media ∧
    (modFollow s o f).store = s.store ∧ (modFollow s o f).dispatch = s.dispatch ∧ (modFollow s o f).link = s.link ∧
    (modFollow s o f).phy = s.phy ∧ (modFollow s o f).aux = s.aux ∧ (modFollow s o f).gpio = s.gpio ∧
    (modFollow s o f).trace = s.trace ∧ (modFollow s o f).latch = s.latch ∧ (modFollow s o f).xq = s.xq ∧
    (modFollow s o f).freeNext = s.freeNext ∧ (modFollow s o f).pending = s.pending := by
  simp [modFollow]

/-- What `modPad` writes. -/
@[simp] theorem modPad_side (o : Fin 8) (f : PadRx → PadRx) : (modPad s o f).side = { s.side with pad := vmod s.side.pad o f } := rfl

/-- What `modPad` leaves alone. -/
@[simp] theorem modPad_frame (o : Fin 8) (f : PadRx → PadRx) :
    (modPad s o f).now = s.now ∧ (modPad s o f).pd1 = s.pd1 ∧ (modPad s o f).pins = s.pins ∧
    (modPad s o f).otp = s.otp ∧ (modPad s o f).rom = s.rom ∧ (modPad s o f).host = s.host ∧
    (modPad s o f).mem = s.mem ∧ (modPad s o f).bulk = s.bulk ∧ (modPad s o f).chan = s.chan ∧
    (modPad s o f).abortPending = s.abortPending ∧ (modPad s o f).ringOrder = s.ringOrder ∧
    (modPad s o f).ops = s.ops ∧ (modPad s o f).txns = s.txns ∧ (modPad s o f).nextTxn = s.nextTxn ∧
    (modPad s o f).accepted = s.accepted ∧ (modPad s o f).history = s.history ∧ (modPad s o f).faults = s.faults ∧
    (modPad s o f).faultsLost = s.faultsLost ∧ (modPad s o f).evq = s.evq ∧ (modPad s o f).evSeq = s.evSeq ∧
    (modPad s o f).resetAt = s.resetAt ∧ (modPad s o f).boot = s.boot ∧ (modPad s o f).power = s.power ∧
    (modPad s o f).counters = s.counters ∧ (modPad s o f).counterLatch = s.counterLatch ∧
    (modPad s o f).inputs = s.inputs ∧ (modPad s o f).convs = s.convs ∧ (modPad s o f).slots = s.slots ∧
    (modPad s o f).db = s.db ∧ (modPad s o f).census = s.census ∧ (modPad s o f).follow = s.follow ∧
    (modPad s o f).outs = s.outs ∧ (modPad s o f).ports = s.ports ∧ (modPad s o f).audio = s.audio ∧
    (modPad s o f).media = s.media ∧ (modPad s o f).store = s.store ∧ (modPad s o f).dispatch = s.dispatch ∧
    (modPad s o f).link = s.link ∧ (modPad s o f).phy = s.phy ∧ (modPad s o f).aux = s.aux ∧
    (modPad s o f).gpio = s.gpio ∧ (modPad s o f).trace = s.trace ∧ (modPad s o f).latch = s.latch ∧
    (modPad s o f).xq = s.xq ∧ (modPad s o f).freeNext = s.freeNext ∧ (modPad s o f).pending = s.pending := by
  simp [modPad]

/-- What `noteTrace` writes. -/
@[simp] theorem noteTrace_trace (t k : Nat) (p : List Word) : (noteTrace t k p s).trace = { s.trace with happened := if s.trace.cfg.enable && traceWanted s.trace.cfg (traceHeader k p.length t :: p) then s.trace.happened ++ [(t, traceHeader k p.length t :: p)] else s.trace.happened } := rfl

/-- What `noteTrace` leaves alone. -/
@[simp] theorem noteTrace_frame (t k : Nat) (p : List Word) :
    (noteTrace t k p s).now = s.now ∧ (noteTrace t k p s).pd1 = s.pd1 ∧ (noteTrace t k p s).pins = s.pins ∧
    (noteTrace t k p s).otp = s.otp ∧ (noteTrace t k p s).rom = s.rom ∧ (noteTrace t k p s).host = s.host ∧
    (noteTrace t k p s).mem = s.mem ∧ (noteTrace t k p s).bulk = s.bulk ∧ (noteTrace t k p s).chan = s.chan ∧
    (noteTrace t k p s).abortPending = s.abortPending ∧ (noteTrace t k p s).ringOrder = s.ringOrder ∧
    (noteTrace t k p s).ops = s.ops ∧ (noteTrace t k p s).txns = s.txns ∧ (noteTrace t k p s).nextTxn = s.nextTxn ∧
    (noteTrace t k p s).accepted = s.accepted ∧ (noteTrace t k p s).history = s.history ∧
    (noteTrace t k p s).faults = s.faults ∧ (noteTrace t k p s).faultsLost = s.faultsLost ∧
    (noteTrace t k p s).evq = s.evq ∧ (noteTrace t k p s).evSeq = s.evSeq ∧
    (noteTrace t k p s).resetAt = s.resetAt ∧ (noteTrace t k p s).boot = s.boot ∧
    (noteTrace t k p s).power = s.power ∧ (noteTrace t k p s).counters = s.counters ∧
    (noteTrace t k p s).counterLatch = s.counterLatch ∧ (noteTrace t k p s).inputs = s.inputs ∧
    (noteTrace t k p s).convs = s.convs ∧ (noteTrace t k p s).slots = s.slots ∧ (noteTrace t k p s).side = s.side ∧
    (noteTrace t k p s).db = s.db ∧ (noteTrace t k p s).census = s.census ∧ (noteTrace t k p s).follow = s.follow ∧
    (noteTrace t k p s).outs = s.outs ∧ (noteTrace t k p s).ports = s.ports ∧ (noteTrace t k p s).audio = s.audio ∧
    (noteTrace t k p s).media = s.media ∧ (noteTrace t k p s).store = s.store ∧
    (noteTrace t k p s).dispatch = s.dispatch ∧ (noteTrace t k p s).link = s.link ∧
    (noteTrace t k p s).phy = s.phy ∧ (noteTrace t k p s).aux = s.aux ∧ (noteTrace t k p s).gpio = s.gpio ∧
    (noteTrace t k p s).latch = s.latch ∧ (noteTrace t k p s).xq = s.xq ∧
    (noteTrace t k p s).freeNext = s.freeNext ∧ (noteTrace t k p s).pending = s.pending := by
  simp [noteTrace]

/-- What `queueAll` writes. -/
@[simp] theorem queueAll_db (l : List DbChange) : (queueAll l s).db = { s.db with pending := s.db.pending ++ l } := rfl

/-- What `queueAll` leaves alone. -/
@[simp] theorem queueAll_frame (l : List DbChange) :
    (queueAll l s).now = s.now ∧ (queueAll l s).pd1 = s.pd1 ∧ (queueAll l s).pins = s.pins ∧
    (queueAll l s).otp = s.otp ∧ (queueAll l s).rom = s.rom ∧ (queueAll l s).host = s.host ∧
    (queueAll l s).mem = s.mem ∧ (queueAll l s).bulk = s.bulk ∧ (queueAll l s).chan = s.chan ∧
    (queueAll l s).abortPending = s.abortPending ∧ (queueAll l s).ringOrder = s.ringOrder ∧
    (queueAll l s).ops = s.ops ∧ (queueAll l s).txns = s.txns ∧ (queueAll l s).nextTxn = s.nextTxn ∧
    (queueAll l s).accepted = s.accepted ∧ (queueAll l s).history = s.history ∧ (queueAll l s).faults = s.faults ∧
    (queueAll l s).faultsLost = s.faultsLost ∧ (queueAll l s).evq = s.evq ∧ (queueAll l s).evSeq = s.evSeq ∧
    (queueAll l s).resetAt = s.resetAt ∧ (queueAll l s).boot = s.boot ∧ (queueAll l s).power = s.power ∧
    (queueAll l s).counters = s.counters ∧ (queueAll l s).counterLatch = s.counterLatch ∧
    (queueAll l s).inputs = s.inputs ∧ (queueAll l s).convs = s.convs ∧ (queueAll l s).slots = s.slots ∧
    (queueAll l s).side = s.side ∧ (queueAll l s).census = s.census ∧ (queueAll l s).follow = s.follow ∧
    (queueAll l s).outs = s.outs ∧ (queueAll l s).ports = s.ports ∧ (queueAll l s).audio = s.audio ∧
    (queueAll l s).media = s.media ∧ (queueAll l s).store = s.store ∧ (queueAll l s).dispatch = s.dispatch ∧
    (queueAll l s).link = s.link ∧ (queueAll l s).phy = s.phy ∧ (queueAll l s).aux = s.aux ∧
    (queueAll l s).gpio = s.gpio ∧ (queueAll l s).trace = s.trace ∧ (queueAll l s).latch = s.latch ∧
    (queueAll l s).xq = s.xq ∧ (queueAll l s).freeNext = s.freeNext ∧ (queueAll l s).pending = s.pending := by
  simp [queueAll]

/-- An event that waits (R55). -/
@[simp] theorem queueEvent_eq (c o : Nat) (p : List Byte) : queueEvent s c o p = queueEventAt s (stampOf s) c o p := rfl

end Sys2Proof.Laws
end

