-- ==== Sys2Proof/Machine/Balls.lean ====
section
/-! DEFINITION. What the device does at its balls, as its state gives it: the states of R130, the exceptions of R131, and
what the blocks drive once they are enabled (03_startup_power_identity.md). -/

namespace Sys2Proof.Machine

/-- How the device drives a ball: to a level, not at all, or as an operation that is on the bus moves it. -/
inductive BallState where
  | low | high | highZ | moving
deriving DecidableEq, Repr

/-- The balls of the NAND bus, CE_N by its number. -/
structure NandBalls where
  ce : Vector BallState 2
  we : BallState
  re : BallState
  cle : BallState
  ale : BallState
  dq : BallState
  dqs : BallState
  wp : BallState
deriving DecidableEq, Repr

/-- The CE of an operation. -/
def opCe (s : State) (o : NandOp) : Nat := (placeIn s.store.vol o.packet).ce

/-- The CEs that something is on the bus for: the ROM's reads of a NAND boot (R131), the commands of a mount and of a format, the
writes of a boot image, the operation whose data crosses the bus, and the commands and status polls of those in an array (R380). -/
def ceInUse (s : State) (ce : Fin 2) : Bool :=
  pdIsOn s 6 &&
    ((s.boot.phase == .nandBoot && ce == 0) || s.store.state == .mounting || s.store.state == .formatting
      || (s.store.bootWriting && ce == 0) || s.store.op.any (fun o => opCe s o == ce.val)
      || s.store.arrays.any fun o => opCe s o == ce.val && (o.startedAt == s.now || pollsNow s.now o))

/-- The NAND balls (R130, R131, R380): at their reset levels while nothing is on the bus. -/
def nandBalls (s : State) : NandBalls :=
  let used := ceInUse s 0 || ceInUse s 1
  let rest (b : BallState) : BallState := if used then .moving else b
  { ce := Vector.ofFn fun k => if ceInUse s k then .low else .high
    we := rest .high, re := rest .high, cle := rest .low, ale := rest .low, dq := rest .highZ, dqs := rest .highZ
    wp := if s.store.wpHigh then .high else .low }

/-- The LNA of an input is powered: its domain is on and the input is enabled (R130, R148). -/
def lnaPowered (s : State) (i : Fin 3) : Bool := pdIsOn s (inputDomain i).val && lnaOn s i

/-- The outputs of a TDM port are driven; off, every ball of it is high-impedance (R130, R343). -/
def portDriven (s : State) (p : Fin 2) : Bool := s.ports[p].cfg.enable

/-- BCLK and FSYNC are driven in source mode alone (R343). -/
def clocksDriven (s : State) (p : Fin 2) : Bool := portDriven s p && !s.ports[p].cfg.target

/-- The aux controller may pull AUX_SCL or AUX_SDA: a transfer or a bus clear is on the bus (R515, R523 to R525). -/
def auxDrives (s : State) : Bool :=
  auxEnable s.aux.regs && !s.aux.afterTimeout &&
    (s.aux.clearRunning || (match s.aux.xfer with | some x => x.phase == .transferring | none => false))

/-- HOST_IRQ_N is pulled low (R62, R130). -/
def irqPulled (s : State) : Bool := irqAsserted s

/-- The link driver is on (R130, R131, R476). -/
def driverOn (s : State) : Bool := transmittingNow s

/-! ### The line (R449, R450, R460, R462, R468, R482) -/

/-- A symbol of the line: its points at unit power, where a ramp stands at its start (in samples from the ramp's own start, none
outside a ramp), whether it falls, and the power of a tone in 2^-32 mW. -/
structure LineSymbol where
  points : List Cplx
  ramp : Option Nat
  falls : Bool
  power : Nat
deriving DecidableEq, Repr

/-- A symbol of the burst sent last (R462, R468): all 102 tones. -/
def burstSymbol (s : State) (n : Nat) : LineSymbol :=
  let total := 18 + getU 2 14 s.phy.sentHeader
  { points := toneValues (sentBurst s.phy n)
    ramp := if n < 4 then some (768 * n) else if total ≤ n + 4 then some (768 * (n + 4 - total)) else none
    falls := decide (total ≤ n + 4), power := launchPower (getU 1 2 s.phy.sentHeader) / 102 }

/-- Symbol n of this end's superframe (R450, R482): the sync symbol, payload, and in half duplex the ramps of its turn. -/
def superframeSymbol (s : State) (n : Nat) : LineSymbol :=
  let power := tonePower s.phy.cfg s.phy.powerNow
  let plain (l : List TonePoint) : LineSymbol := ⟨toneValues l, none, false, power⟩
  if !s.phy.half then plain (if n = 0 then maskPoints s.phy.cfg syncPoints else sentPoints s (n - 1))
  else
    let first := if remoteEnd s then 40 else 0
    let last := if remoteEnd s then 199 else 39
    let filler := toneValues (maskPoints s.phy.cfg (trainingPoints n))
    if n < first + 4 then ⟨filler, some (768 * (n - first)), false, power⟩
    else if n = first + 4 then plain (maskPoints s.phy.cfg syncPoints)
    else if n + 4 ≤ last then plain (sentPoints s (n - first - 5))
    else ⟨filler, some (768 * (n + 3 - last)), true, power⟩

/-- The symbol on the line at a time in 1/25 tick, with the sample within it; none while the driver is off. -/
def lineSymbol (s : State) (t : Nat) : Option (LineSymbol × Nat) :=
  if t < 25 * s.phy.txUntil then
    let total := 18 + getU 2 14 s.phy.sentHeader
    let left := ceilDiv (25 * s.phy.txUntil - t) 4
    if total * 768 < left then none else some (burstSymbol s ((total * 768 - left) / 768), (total * 768 - left) % 768)
  else if transmittingNow s then
    let m := t % (24576 * 25) / 4
    some (superframeSymbol s (m / 768), m % 768)
  else none

/-- The sample that the driver gives at a time in 1/25 tick, where 1 mW has the amplitude 2^32. -/
def lineSample (s : State) (t : Nat) : Int :=
  match lineSymbol s t with
  | none => 0
  | some (x, m) =>
    let gain := match x.ramp with | some k => if x.falls then rampGain (3072 - (k + m)) else rampGain (k + m) | none => unitOne
    Int.tdiv (Int.tdiv (symbolSample x.points m * (isqrt 40 (x.power * unitOne) 0 : Nat)) unitOne * gain) unitOne

/-- The sample of the replica DAC, which is subtracted ahead of the link ADC (R462, stage 2): 96 taps over what was sent. -/
def replicaSample (s : State) (t : Nat) : Int := echoReplica s.phy.fir ((List.range 96).map fun n => lineSample s (t - 4 * n))

/-- A GPIO is driven; an input has its pull or none (R130, R531). -/
def gpioDriven (s : State) (i : Fin 8) : Bool := (drivenLevel s i).isSome

end Sys2Proof.Machine
end

