-- ==== Sys2Proof/Machine/Fabric.lean ====
section
/-! DEFINITION. The fabric of the device (01_architecture.md): the dual-clock queues of R22 with their depths and latencies,
and the allocation of Hearth by bank (R40). -/

namespace Sys2Proof.Machine

/-! ### Dual-clock queues (R22) -/

/-- A row of the table of R22: the entries that its queue can hold, how many queues the row stands for, and the added
latency in 1/100 ns at nominal clock rates; `none` where it depends on a rate of the host or a port. -/
structure QueueRow where
  depth : Nat
  count : Nat
  latency : Option Nat
deriving DecidableEq, Repr

/-- The queues of R22, in the table's order: BINQ_V0 and BINQ_V1, BINQ_H, ANQ write, ANQ read, AUDQ0 and AUDQ1, NANDQ_W,
NANDQ_R, LINKQ_T, LINKQ_R, HOSTQ_W, HOSTQ_M, TRCQ. -/
def dualClockQueues : List QueueRow :=
  [⟨16, 2, some 407⟩, ⟨16, 1, some 1546⟩, ⟨32, 16, some 732⟩, ⟨32, 16, some 461⟩, ⟨32, 2, none⟩, ⟨16, 1, some 3220⟩,
    ⟨16, 1, some 1650⟩, ⟨16, 1, some 4000000⟩, ⟨16, 1, some 1300⟩, ⟨4, 1, none⟩, ⟨4, 1, some 3260⟩, ⟨512, 1, some 4120⟩]

/-- AUDQ holds 16 frames, which is its latency: in 1/100 ns at 48, 44.1 and 96 kHz (R22, R23). -/
def audqLatency (rate : Nat) : Nat := if rate = 0 then 36280000 else if rate = 1 then 33330000 else 16670000

/-- Words that wait in HOSTQ_W: those of a held frame, and those of an SPI frame that have not been taken (R22, R69, R81). -/
def hostqWords (s : State) : Nat := s.host.hostqW.length + ceilDiv s.host.hostqBusy 16000

/-- Words that wait in TRCQ (R22). -/
def trcqWords (s : State) : Nat := (s.trace.queue.map (·.length)).sum - s.trace.headSent

/-- The entries of every queue of R22, row by row. -/
def queueUse (s : State) : List (List Nat) :=
  [[s.xq.binqV0, s.xq.binqV1], [s.xq.binqH], s.xq.anqWrite.toList, s.xq.anqRead.toList, s.ports.toList.map (·.audq.length),
    [s.xq.nandqW], [s.xq.nandqR], [s.xq.linkqT], [s.xq.linkqR], [hostqWords s], [s.xq.hostqM], [trcqWords s]]

/-- No queue holds more than its depth. -/
def queuesFit (s : State) : Bool := (List.zipWith (fun l r => l.all (· ≤ r.depth)) (queueUse s) dualClockQueues).all id

/-! ### Hearth (R40) -/

/-- The bytes of the firmware data bank that the boot image takes while the ROM holds it there (R116). -/
def imageBytes (s : State) : Nat := s.boot.image.length

/-- Bytes in the link buffers: what waits in the link's queues, and the messages being joined (R40). -/
def linkBytes (s : State) : Nat :=
  (s.dispatch.queues.map fun e => if 0x20 ≤ e.1 ∧ e.1 < 0x70 then (e.2.items.map (·.length)).sum else 0).sum
    + (s.link.rx.map (·.total)).sum

/-- Bytes of the decode, encode and export buffers: what waits on the host side, side data included (R40, R291). -/
def exportBytes (s : State) : Nat :=
  (s.dispatch.queues.map fun e => if 0x70 ≤ e.1 then (e.2.items.map (·.length)).sum else 0).sum
    + (s.side.staging.map fun r => 16 + r.payload.length).sum

/-- The bytes that a state uses of each region, in the order of `hearthRegions`. -/
def hearthUse (s : State) : List Nat :=
  [imageBytes s, (s.db.recs.length + s.db.reserve.length) * 256, ((hostSlots s).length + (visitSlots s).length) * 65536,
    ((hostSlots s ++ visitSlots s).filter fun e => e.2.tune.type == .dab).length * (432 * 1024), delayUnits s * 864000,
    stagingBytes s, linkBytes s, exportBytes s]

/-- Every region holds what a state puts into it. -/
def hearthFits (s : State) : Bool :=
  (List.zipWith (fun u (r : HearthRegion) => decide (u ≤ (r.last + 1 - r.first) * 1048576)) (hearthUse s) hearthRegions).all id

end Sys2Proof.Machine
end

