-- ==== Sys2Proof/WellFormed.lean ====
section
/-! DEFINITION. When a command of `Instr` is one that a row of opcode_table.json can carry: the widths and ranges of
the operands that the spec bounds. A mailbox row has only its channel, which its type bounds; the request it serves
stands in the channel's buffer and is checked by its meaning (R553). -/

namespace Sys2Proof

/-- The symbols of a burst come on 102 tones: six S, two of the header and at most 82 of payload (R468, R469). -/
def BurstRx.wf (b : BurstRx) : Bool :=
  b.preamble.length == 6 && b.soft.length == 2 && b.payload.length ≤ 82
    && (b.preamble ++ b.soft ++ b.payload).all (·.length == 102)

/-- The symbols of a superframe come on 102 tones, and a trained FIR has 96 taps (R449, R450, R462). -/
def SuperframeRx.wf (r : SuperframeRx) : Bool :=
  r.symbols.length ≤ 200 && r.symbols.all (·.length == 102) && (match r.trained with | some (fir, c) => fir.length == 96 && c.length == 102 | none => true)

/-- The bits of a codeword that are read wrongly lie among its 9,200 (R383). -/
def ReadRx.wf (r : ReadRx) : Bool := r.wrong.all fun l => l.all (· < 9200)

/-- A bit table has one entry of at most 12 bits for each of the 102 tones (R453). -/
def tableWf (t : List Nat) : Bool := t.length == 102 && t.all (· ≤ 12)

/-- The fields of a measured unit are s16 (R179). -/
def UnitValues.wf (u : UnitValues) : Bool :=
  [u.offset, u.gain, u.skew, u.bandwidth].all fun v => -32768 ≤ v && v ≤ 32767

/-- The compensation values of a GI that a foreground measures lie in the range in service (R179). -/
def giWf (g : Int × Int) : Bool := g.1.natAbs ≤ 3000 && g.2.natAbs ≤ 3000

/-- A frame holds 256 VHF or 64 HF samples of 14 bits (R155, R164). -/
def frameWf (i : Fin 3) (codes : List Int) : Bool :=
  codes.length == (if i = 2 then 64 else 256) && codes.all fun c => -8192 ≤ c && c ≤ 8191

/-- The soft decisions of one CIF, of 4 bits each (R258, R259). -/
def softWf (n : Nat) (l : List Int) : Bool := l.length == n && l.all fun v => -7 ≤ v && v ≤ 7

/-- A frame brings its timestamp to 1/25 tick, the guard of each of its 76 symbols, and four CIFs of 2,304 FIC and 55,296 MSC
decisions (R249, R254, R258). -/
def FrameRx.wf (f : FrameRx) : Bool :=
  f.fraction < 25 && f.guards.length == 76 && f.fic.length == 4 && f.msc.length == 4 && f.fic.all (softWf 2304)
    && f.msc.all (softWf 55296)

/-- The operands of a command lie in the ranges its row gives them. -/
def Instr.wf : Instr → Bool
  | .i2cReadFrame _ pointer _ _ _ _ => pointer.length ≤ 2
  | .spiWriteFrame _ _ sckKhz _ => 0 < sckKhz && sckKhz ≤ 50000
  | .spiReadFrame _ pointer _ sckKhz _ => pointer.length ≤ 2 && 0 < sckKhz && sckKhz ≤ 50000
  | .channeliserFrame i codes => frameWf i codes
  | .dabCoarseLock _ peaks => peaks.length == 61
  | .dabFrame _ f => f.wf
  | .dabLogicalFrameComplete _ subch => subch < 64
  | .dabSubchAbsent _ subch => subch < 64
  | .dbRecordExpiry index => index < 4096
  | .auxBusClear pulses => pulses.all (· ≤ 9)
  | .burstRx b => b.wf
  | .linkSuperframe r => r.wf
  | .preambleDetect samples => samples.length == 3840
  | .billetStaged _ _ aus => aus.all (·.length < 65536)
  | .nandOpComplete r => r.ce < 2 && r.lun < 4 && r.read.wf
  | .storeFormatDone _ r => r.volumeId.length == 16
  | .storeMountDone _ wrong => wrong.all fun e => e.ce < 2 && e.codeword < 16 && e.bits.all (· < 9200)
  | .measureDone farTable => tableWf farTable
  | .auxXferDone (.arbitration _ bit _) => bit ≤ 8
  | .outDecodeFrame _ _ r => r.pcm.length ≤ 1920
  | .foregroundDone i units gi => units.length == (if i = 2 then 3 else 9) && gi.length == (if i = 2 then 6 else 8)
      && units.all UnitValues.wf && gi.all giWf
  | .temperMeasureDone _ v => v.wf
  | _ => true

end Sys2Proof
end

