-- ==== Sys2Proof/Tests/Slice0.lean ====
section
/-! SUPPORT. Small tests: the worked examples of the spec that one step shows, ill-formed commands that the check refuses,
and for every statement with hypotheses a concrete state and operands that meet them (the `test_w_` theorems, clause by
clause). Expected values come from the spec or from hand calculation. -/

namespace Sys2Proof.Tests

/- The tests are evaluated one after the other, so that they do not wait for each other in threads of their own. -/
set_option Elab.async false

open Sys2Proof.Machine Sys2Proof.Safety

/-! ### States to test on -/

/-- An integrated device with its firmware running and its role confirmed. -/
def base : State :=
  { State.reset with
    pd1 := true
    host := { State.reset.host with fwStage := 0x31, role := 1, fwReady := true, pdOn := 0xFF }
    boot := { State.reset.boot with phase := .running }
    power := { State.reset.power with commanded := 0xFF }
    chan := #v[.idle, .idle, .idle, .idle] }

/-- The same on a stroke boundary, at stroke 100. -/
def atTick : State := { base with now := 2457600, latch := { base.latch with stroke := 100 } }

/-- A local with its link in RUN. -/
def localDev : State := { base with host := { base.host with role := 3 }, link := { base.link with state := .run } }
/-- A remote with its link in RUN. -/
def remoteDev : State :=
  { base with host := { base.host with role := 2, bootsel := 2 }, link := { base.link with state := .run } }

/-- A request rung on channel 0, header fields and all. -/
def askedRaw (op length flags txn reserved : Nat) (p : List Byte) (s : State) : State :=
  { s with
    chan := s.chan.set 0 .posted
    ringOrder := [0]
    mem := memWrite s.mem 0x1000 (u16 op ++ u16 7 ++ u16 length ++ u16 flags ++ u32 txn ++ u32 reserved ++ p) }
/-- A request rung on channel 0. -/
def asked (op : Nat) (p : List Byte) (s : State) : State := askedRaw op p.length 0 0 0 p s
/-- A request in a transaction. -/
def askedIn (op txn : Nat) (p : List Byte) (s : State) : State := askedRaw op p.length 0 txn 0 p s
/-- Channel 0 ACTIVE with an operation. -/
def busyWith (op : LongOp) (s : State) : State :=
  { s with chan := s.chan.set 0 .active, ops := s.ops.set 0 (some ⟨op, false, s.now⟩) }
/-- A transaction open on channel 0. -/
def opened (id : Word) (cmds : List Cfg) (s : State) : State := { s with txns := s.txns.set 0 (some ⟨id, cmds⟩) }

/-- The state after what HOSTQ_W holds, and what a held frame waits with, has landed. -/
def landed (s : State) : State := landAll (finishHold s)

/-! ### Ill-formed commands (WellFormed) -/

theorem test_wf_read_pointer : (Instr.i2cReadFrame 0x58 [0, 0, 0] 4 none none .whole).wf = false
    ∧ (Instr.i2cReadFrame 0x58 [0, 0] 4 none none .whole).wf = true := by decide
theorem test_wf_spi_write : (Instr.spiWriteFrame 0x02 [] 0 .whole).wf = false ∧ (Instr.spiWriteFrame 0x02 [] 50001 .whole).wf = false
    ∧ (Instr.spiWriteFrame 0x02 [] 50000 .whole).wf = true := by decide
theorem test_wf_spi_read : (Instr.spiReadFrame 0x0B [0, 0, 0] 4 1000 .whole).wf = false
    ∧ (Instr.spiReadFrame 0x0B [0, 0] 4 50001 .whole).wf = false := by decide
theorem test_wf_frame : (Instr.channeliserFrame 0 (List.replicate 256 8192)).wf = false
    ∧ (Instr.channeliserFrame 2 (List.replicate 64 (-8192))).wf = true := by decide +kernel
theorem test_wf_subch : (Instr.dabLogicalFrameComplete 0 64).wf = false
    ∧ (Instr.dabSubchAbsent 0 64).wf = false ∧ (Instr.dabSubchAbsent 0 63).wf = true
    ∧ (Instr.dabCoarseLock 0 (List.replicate 60 0)).wf = false ∧ (Instr.dabCoarseLock 0 (List.replicate 61 0)).wf = true := by decide
theorem test_wf_record : (Instr.dbRecordExpiry 4096).wf = false ∧ (Instr.dbRecordExpiry 4095).wf = true := by decide
theorem test_wf_bus_clear : (Instr.auxBusClear (some 10)).wf = false ∧ (Instr.auxBusClear none).wf = true := by decide
theorem test_wf_burst : (Instr.burstRx ⟨[], [[], []], [], 0, 0⟩).wf = false
    ∧ (Instr.burstRx ⟨List.replicate 6 (List.replicate 102 ⟨0, 0⟩), List.replicate 2 (List.replicate 102 ⟨0, 0⟩), [], 0, 0⟩).wf = true
    ∧ (Instr.preambleDetect []).wf = false := by decide
theorem test_wf_superframe : (Instr.linkSuperframe ⟨[[]], true, true, none, none⟩).wf = false
    ∧ (Instr.linkSuperframe ⟨[List.replicate 102 ⟨0, 0⟩], true, true, none, none⟩).wf = true
    ∧ (Instr.linkSuperframe ⟨[List.replicate 102 ⟨0, 0⟩], true, true, some ([], []), none⟩).wf = false := by decide
theorem test_wf_units : (Instr.temperMeasureDone 0 ⟨32768, 0, 0, 0⟩).wf = false ∧ (Instr.temperMeasureDone 0 ⟨-32768, 0, 0, 0⟩).wf = true
    ∧ (Instr.foregroundDone 0 (List.replicate 8 ⟨0, 0, 0, 0⟩) (List.replicate 8 (0, 0))).wf = false
    ∧ (Instr.foregroundDone 2 (List.replicate 3 ⟨0, 0, 0, 0⟩) (List.replicate 6 (0, 0))).wf = true := by decide
theorem test_wf_store : (Instr.billetStaged 255 0 [List.replicate 65536 0]).wf = false
    ∧ (Instr.nandOpComplete ⟨0, 0, true, ⟨[[9200]]⟩⟩).wf = false ∧ (Instr.nandOpComplete ⟨1, 3, true, ⟨[[9199]]⟩⟩).wf = true
    ∧ (Instr.nandOpComplete ⟨2, 0, true, ⟨[]⟩⟩).wf = false ∧ (Instr.storeMountDone 0 [⟨0, 2, 0, 16, []⟩]).wf = false
    ∧ (Instr.storeFormatDone 0 ⟨false, zeros 15, [], (0, 0)⟩).wf = false := by decide +kernel
theorem test_wf_far_table : (Instr.measureDone (List.replicate 102 13)).wf = false
    ∧ (Instr.measureDone (List.replicate 101 0)).wf = false ∧ (Instr.measureDone (List.replicate 102 12)).wf = true := by decide
theorem test_wf_arbitration : (Instr.auxXferDone (.arbitration 0 9 [])).wf = false := by decide
theorem test_wf_samples : (Instr.outDecodeFrame 0 .a ⟨false, List.replicate 1921 (0, 0)⟩).wf = false
    ∧ (Instr.outDecodeFrame 0 .a ⟨false, List.replicate 1920 (0, 0)⟩).wf = true := by decide +kernel
/-! ### Steps on values of the spec -/

/-- CRC-32 and CRC-16 of the digits 1 to 9: the published check values of the two codes that R197 and R470 name. -/
theorem test_crc_check_values : crc32 [0x31, 0x32, 0x33, 0x34, 0x35, 0x36, 0x37, 0x38, 0x39] = 0xCBF43926
    ∧ crc16 [0x31, 0x32, 0x33, 0x34, 0x35, 0x36, 0x37, 0x38, 0x39] = 0x29B1 := by decide +kernel
/-- SHA-256 of "abc", from FIPS 180-4. -/
theorem test_sha256_abc : (sha256 [0x61, 0x62, 0x63]).take 8 = [0xBA, 0x78, 0x16, 0xBF, 0x8F, 0x01, 0xCF, 0xEA] := by decide +kernel
/-- R46, the worked example of R556: accepted at 2,000 ms, applied at 2,001 ms. -/
theorem test_apply_stroke : applyStrokeFrom (2000 * 24576 + 1) = 2001 ∧ applyStrokeFrom (2000 * 24576 + 18432) = 2001
    ∧ applyStrokeFrom (2000 * 24576 + 18433) = 2002 := by decide
/-- R101 and R102: the first event of a device stands whole at the start of the ring. -/
theorem test_first_event : memBytes (postEvent base ⟨2, 1, 24576, zeros 16⟩).mem 0x2000 12
    = [2, 0, 1, 0, 0, 0, 0, 0, 0, 0x60, 0, 0] := by decide
/-- R104: `tail` may not pass `head`, counted modulo 65,536. -/
theorem test_tail_wraps : (writeEvtTail 2 { base with host := { base.host with evtHead := 2, evtTail := 0xFFFE } }).host.evtTail = 2
    ∧ (writeEvtTail 3 { base with host := { base.host with evtHead := 2, evtTail := 0xFFFE } }).host.evtTail = 0xFFFE := by decide
/-- R49, R551: `SYS_INFO` is refused with a payload, and answered with its 32 bytes without one. -/
theorem test_sys_info : memBytes (match exec (.sysInfo 0) (asked 0x0101 [] base) with | .next t => t.mem | _ => []) 0x1200 8
    = [0x01, 0x01, 7, 0, 32, 0, 0, 0] := by decide +kernel
/-- R553: an opcode no table lists. -/
theorem test_unknown_opcode : memBytes (takeUnknown (asked 0x0999 [] base)).mem 0x1200 8 = [0x99, 9, 7, 0, 0, 0, 0x15, 0] := by decide +kernel

/-! ### Hypotheses met: the queue, the mailbox and transactions -/

theorem test_w_step : ({ base with pending := [.txnApply] } : State).pending = .txnApply :: [] := rfl
theorem test_w_idle : State.reset.pending = [] ∧ State.reset.host.hostqW = [] ∧ State.reset.evq = [] ∧ State.reset.ringOrder = []
    ∧ isRemote State.reset = false ∧ State.reset.pd1 = false ∧ base.pending = [] ∧ base.host.hostqW = [] ∧ base.evq = []
    ∧ base.ringOrder = [] ∧ isRemote base = false ∧ base.pd1 = true ∧ base.now + 1 < (base.latch.stroke + 1) * 24576 := by decide
theorem test_w_invariants : memoryCanonical (asked 0x0101 [] base) ∧ ringBounded base
    ∧ ∃ t, step { base with pending := [.txnApply] } = .next t := by
  unfold memoryCanonical ringBounded
  exact ⟨by decide, by decide, _, rfl⟩
theorem test_w_response : (List.replicate 496 (0 : Byte)).length ≤ 496 := by decide +kernel
theorem test_w_not_next : (mailboxRow (.sysInfo 0)).isSome = true ∧ taken base 0 0x0101 = false
    ∧ taken (asked 0x0102 [] base) 0 0x0101 = false := by decide
theorem test_w_bad_header : (∃ m, mailboxRow (.sysInfo 0) = some m ∧ taken (askedRaw 0x0101 497 0 0 0 [] base) m.ch m.opcode = true
      ∧ 496 < (reqOf (askedRaw 0x0101 497 0 0 0 [] base) m.ch).length)
    ∧ taken (askedRaw 0x0101 0 2 0 0 [] base) 0 0x0101 = true ∧ 2 ≤ (reqOf (askedRaw 0x0101 0 2 0 0 [] base) 0).flags
    ∧ (reqOf (askedRaw 0x0101 0 0 0 1 [] base) 0).reserved ≠ 0
    ∧ isNext (askedRaw 0x0999 0 2 0 0 [] base) 0 = true ∧ (askedRaw 0x0999 0 2 0 0 [] base).ringOrder.head? = some 0
    ∧ (reqOf (askedRaw 0x0999 0 2 0 0 [] base) 0).opcode ∉ knownOpcodes := by
  exact ⟨⟨_, rfl, by decide, by decide⟩, by decide⟩
theorem test_w_first_failed : ∃ m, mailboxRow (.followSet 0) = some m ∧ taken (asked 0x0601 [] remoteDev) m.ch m.opcode = true
    ∧ preCheck (asked 0x0601 [] remoteDev) m.ch m.kind (ownsTxn m.opcode) (reqOf (asked 0x0601 [] remoteDev) m.ch) = some .badState :=
  ⟨_, rfl, by decide, by decide⟩
theorem test_w_wrong_length : ∃ m, mailboxRow (.slotAssign 0) = some m
    ∧ serves (asked 0x0401 (zeros 13) base) m.ch m.opcode m.kind ∧ m.length (reqOf (asked 0x0401 (zeros 13) base) m.ch).length = false :=
  ⟨_, rfl, ⟨by decide, by decide⟩, by decide⟩
theorem test_w_dry_run : ∃ m, mailboxRow (.slotAssign 0) = some m ∧ isLocal base = false
    ∧ taken (askedRaw 0x0401 13 1 0 0 [] base) m.ch m.opcode = true ∧ (reqOf (askedRaw 0x0401 13 1 0 0 [] base) m.ch).dry = true
    ∧ taken (askedRaw 0x0110 0 1 0 0 [] base) 0 0x0110 = true ∧ (reqOf (askedRaw 0x0110 0 1 0 0 [] base) 0).dry = true :=
  ⟨_, rfl, by decide, by decide, by decide, by decide, by decide⟩
theorem test_w_unknown : (asked 0x0999 [] base).ringOrder.head? = some 0 ∧ isNext (asked 0x0999 [] base) 0 = true
    ∧ (reqOf (asked 0x0999 [] base) 0).opcode ∉ knownOpcodes ∧ headerBad (reqOf (asked 0x0999 [] base) 0) = false := by decide
/-- At a stage of the ROM, and before the role is confirmed. -/
def atStage (stage : Byte) (ph : BootPhase) : State :=
  { base with host := { base.host with fwStage := stage, role := 0 }, boot := { base.boot with phase := ph } }
theorem test_w_stage : (atStage 0x1E .otpFailed).boot.phase = .otpFailed ∧ (atStage 0x10 .hostLoad).boot.phase = .hostLoad
    ∧ 0x30 ≤ (atStage 0x30 .running).host.fwStage.toNat ∧ (atStage 0x30 .running).host.role = 0
    ∧ 0x0301 ∉ [0x0201, 0x0202, 0x0203] := by decide
theorem test_w_mailbox_memory : (mailboxRow (.sysInfo 0)).isSome = true ∧ ∃ t, exec (.sysInfo 0) (asked 0x0101 [] base) = .next t :=
  ⟨by decide, _, rfl⟩
theorem test_w_txn_begin : serves (asked 0x0110 [] base) 0 0x0110 .immediate ∧ wet (asked 0x0110 [] base) 0
    ∧ (reqOf (asked 0x0110 [] base) 0).length = 0 ∧ (asked 0x0110 [] base).txns[0] = none
    ∧ serves (asked 0x0110 [] (opened 5 [] base)) 0 0x0110 .immediate ∧ (asked 0x0110 [] (opened 5 [] base)).txns[0] ≠ none := by
  unfold serves wet; decide
/-- 63 commands that change nothing of note. -/
def many (n : Nat) : List Cfg := List.replicate n .bulkUnmap
theorem test_w_joins : ∃ m c, configRow (.slotRelease 0) = some m
    ∧ serves (askedIn 0x0402 5 [3] (opened 5 (many 63) base)) m.ch m.opcode .config
    ∧ (askedIn 0x0402 5 [3] (opened 5 (many 63) base)).txns[m.ch] = some ⟨5, many 63⟩ ∧ (many 63).length < 64
    ∧ (reqOf (askedIn 0x0402 5 [3] (opened 5 (many 63) base)) m.ch).txnId ≠ 0
    ∧ wet (askedIn 0x0402 5 [3] (opened 5 (many 63) base)) m.ch
    ∧ m.read (askedIn 0x0402 5 [3] (opened 5 (many 63) base)) (body (askedIn 0x0402 5 [3] (opened 5 (many 63) base)) m.ch) = some c
    ∧ serves (askedIn 0x0402 5 [3] (opened 5 (many 64) base)) m.ch m.opcode .config ∧ 64 ≤ (many 64).length
    ∧ m.read (askedIn 0x0402 5 [48] (opened 5 [] base)) (body (askedIn 0x0402 5 [48] (opened 5 [] base)) m.ch) = none :=
  ⟨_, .slotRelease 3, rfl, ⟨by decide, by decide⟩, by decide, by decide, by decide, by unfold wet; decide, by decide,
    ⟨by decide, by decide⟩, by decide, by decide⟩
theorem test_w_alone : ∃ m c, configRow (.slotRelease 0) = some m
    ∧ serves (asked 0x0402 [3] base) m.ch m.opcode .config ∧ wet (asked 0x0402 [3] base) m.ch
    ∧ (reqOf (asked 0x0402 [3] base) m.ch).txnId = 0
    ∧ m.read (asked 0x0402 [3] base) (body (asked 0x0402 [3] base) m.ch) = some c ∧ forwards (asked 0x0402 [3] base) c = false
    ∧ judge m.ch (applyStrokeFrom 0) [c] (takeOut (asked 0x0402 [3] base) m.ch) = none :=
  ⟨_, .slotRelease 3, rfl, ⟨by decide, by decide⟩, by unfold wet; decide, by decide, by decide, by decide, by decide⟩
theorem test_w_alone_refused : judge 0 (applyStrokeFrom 0) [.bulkUnmap] (takeOut (asked 0x0130 [] base) 0) = some (.badState, 0) := by decide
theorem test_w_commit : serves (askedIn 0x0111 5 [] (opened 5 [.slotRelease 3] base)) 0 0x0111 .long
    ∧ (askedIn 0x0111 5 [] (opened 5 [.slotRelease 3] base)).txns[0] = some ⟨5, [.slotRelease 3]⟩
    ∧ isSplit (askedIn 0x0111 5 [] (opened 5 [.slotRelease 3] base)) [.slotRelease 3] = false
    ∧ judge 0 (applyStrokeFrom 0) [.slotRelease 3] (takeOut (askedIn 0x0111 5 [] (opened 5 [.slotRelease 3] base)) 0) = none
    ∧ wet (askedIn 0x0111 5 [] (opened 5 [.slotRelease 3] base)) 0
    ∧ (reqOf (askedRaw 0x0111 0 1 5 0 [] (opened 5 [.slotRelease 3] base)) 0).dry = true
    ∧ judge 0 (applyStrokeFrom 0) [.slotRelease 3, .bulkUnmap] (takeOut (askedIn 0x0111 5 [] base) 0) = some (.badState, 1) := by
  unfold serves wet; decide
/-- One accepted transaction, or two of one stroke, on the stroke before. -/
def accepted1 : State := { atTick with accepted := [⟨5, [.slotRelease 3], 101⟩] }
def accepted2 : State := { atTick with accepted := [⟨5, [], 101⟩, ⟨6, [], 101⟩] }
theorem test_w_outcome : serves (askedIn 0x0112 5 [] (opened 5 [] base)) 0 0x0112 .immediate
    ∧ wet (askedIn 0x0112 5 [] (opened 5 [] base)) 0
    ∧ serves (asked 0x0113 [5, 0, 0, 0] { base with history := [⟨5, 1, 3, false, false⟩] }) 0 0x0113 .read
    ∧ parseTxnId (body (asked 0x0113 [5, 0, 0, 0] base) 0) = some 5
    ∧ [(⟨5, 1, 3, false, false⟩ : TxnResult)].reverse.find? (fun e => e.id == 5) = some ⟨5, 1, 3, false, false⟩
    ∧ (∀ c : Fin 4, base.txns[c] = none)
    ∧ waiting accepted1 = ⟨5, [.slotRelease 3], 101⟩ :: [] ∧ 101 ≤ accepted1.latch.stroke + 1
    ∧ accepted2.link.parts = [] ∧ accepted2.accepted = ⟨5, [], 101⟩ :: ⟨6, [], 101⟩ :: [] ∧ nextDue base = none := by
  unfold serves wet; decide
theorem test_w_reads : ∃ m, readRow (.slotStatusGet 0) = some m ∧ serves (asked 0x0404 [47] base) m.ch m.opcode .read
    ∧ isLocal (asked 0x0404 [47] base) = false ∧ m.inRange (body (asked 0x0404 [47] base) m.ch) = true :=
  ⟨_, rfl, ⟨by decide, by decide⟩, by decide, by decide⟩
/-! ### Hypotheses met: start-up, identity and the host port -/

/-- A device before its firmware. -/
def atPhase (ph : BootPhase) (s : State) : State := { s with boot := { s.boot with phase := ph } }
/-- At the OTP check, with straps as sampled. -/
def otpAt (ok : Bool) (bootsel : BitVec 2) : State :=
  { State.reset with
    pd1 := true
    boot := { State.reset.boot with phase := .otpCheck }
    otp := { State.reset.otp with ok := ok }
    host := { State.reset.host with bootsel := bootsel } }
theorem test_w_reset : 10000 ≤ 10000 ∧ 1000 ≤ 1000 ∧ State.reset.boot.phase = .inReset
    ∧ (atPhase .pllStart State.reset).boot.phase = .pllStart ∧ (otpAt false 0).boot.phase = .otpCheck
    ∧ (otpAt false 0).host.fwStage = 0 ∧ (otpAt false 0).otp.ok = false ∧ (otpAt true 0).otp.ok = true
    ∧ (otpAt true 0).host.bootsel = 0 := by decide
/-- The signature of the image below under the private key 1, whose public key is the base point (calculated apart). -/
def imageSig : List Byte :=
  [94, 203, 228, 209, 166, 51, 10, 68, 200, 247, 239, 149, 29, 75, 241, 101, 230, 198, 183, 33, 239, 173, 169, 133, 251, 65]
    ++ [102, 27, 198, 231, 253, 108, 107, 191, 78, 227, 164, 115, 143, 5, 102, 226, 120, 64, 149, 43, 52, 128, 179, 121, 6, 186]
    ++ [71, 133, 111, 118, 225, 109, 126, 250, 13, 135, 97, 101]
/-- A 272-byte image of an all-zero body: header of R123, `body_hash` its SHA-256, key 1. -/
def image : List Byte :=
  u32 0x314B5244 ++ u16 1 ++ zeros 2 ++ u32 0 ++ u32 0 ++ u32 16 ++ u32 0 ++ u8 0xB0 ++ u8 1 ++ zeros 6
    ++ [0x37, 0x47, 0x08, 0xFF, 0xF7, 0x71, 0x9D, 0xD5, 0x97, 0x9E, 0xC8, 0x75, 0xD5, 0x6C, 0xD2, 0x28]
    ++ [0x6F, 0x6D, 0x3C, 0xF7, 0xEC, 0x31, 0x7A, 0x3B, 0x25, 0x63, 0x2A, 0xAB, 0x28, 0xEC, 0x37, 0xBB]
    ++ zeros 96 ++ imageSig ++ zeros 48
/-- A ROM whose vendor key 1 and CA key are the base point. -/
def testRom : Rom := { Rom.reset with vendorKey1 := curveG, caKey := curveG }
theorem test_w_image : imageOk Otp.reset testRom image = true := by decide +kernel
theorem test_w_image_bad : imageOk Otp.reset testRom [] = false := by decide +kernel
/-- A device in NAND boot. -/
def nandDev : State := { base with rom := testRom, boot := { base.boot with phase := .nandBoot } }
theorem test_w_start_up : (otpAt true 1).host.bootsel = 1 ∧ (otpAt true 1).power.switching = [] ∧ (otpAt true 2).host.bootsel = 2
    ∧ (otpAt true 2).link.state = .off ∧ pdIsOn nandDev 4 = true ∧ pdIsOn nandDev 6 = true
    ∧ nandDev.boot.phase = .nandBoot
    ∧ (atPhase .linkBoot remoteDev).boot.phase = .linkBoot ∧ linkUp (atPhase .linkBoot remoteDev) = true
    ∧ (atPhase .starting base).boot.slept = false ∧ bootEnding (atPhase .starting base) = none ∧ isLocal localDev = true ∧ linkUp localDev = true
    ∧ ({ localDev with link := { localDev.link with remoteStage := 0x30 } } : State).link.remoteStage = 0x30
    ∧ localDev.link.remoteStage ≠ 0x30 ∧ roomFor localDev 0x20 (controlFrames localDev roleMessage) = true
    ∧ remoteDev.host.bootsel = 2 := by decide +kernel
/-- In host load, with an image of `n` bytes received. -/
def loading (n : Nat) : State :=
  { base with
    host := { base.host with fwStage := 0x10, role := 0, fwReady := false }
    boot := { base.boot with phase := .hostLoad, image := List.replicate n 0 } }
theorem test_w_host_load : serves (asked 0x0201 [] (loading 0)) 0 0x0201 .immediate ∧ wet (asked 0x0201 [] (loading 0)) 0
    ∧ serves (asked 0x0202 (u32 0 ++ zeros 20) (loading 0)) 0 0x0202 .immediate
    ∧ parseBootData (body (asked 0x0202 (u32 0 ++ zeros 20) (loading 0)) 0) = some (0, zeros 16)
    ∧ parseBootData (body (asked 0x0202 (u32 16 ++ zeros 20) (loading 0)) 0) = some (16, zeros 16) ∧ 16 ≠ (loading 0).boot.image.length
    ∧ serves (asked 0x0203 [] (loading 16)) 0 0x0203 .long
    ∧ bootEnding (busyWith .bootEnd (loading 16)) = some 0 ∧ abortLanded (busyWith .bootEnd (loading 16)) 0 = false
    ∧ committed (busyWith .bootEnd (loading 16)) 0 = false ∧ committed (markCommitted (busyWith .bootEnd (loading 16)) 0) 0 = true
    ∧ abortLanded { busyWith .bootEnd (loading 16) with abortPending := 1 } 0 = true := by
  unfold serves wet; decide
/-- At stage 0x30, before the role is confirmed. -/
def roleless (bootsel : BitVec 2) : State := { base with host := { base.host with fwStage := 0x30, role := 0, bootsel := bootsel } }
theorem test_w_role : serves (asked 0x0210 [2] (roleless 0)) 0 0x0210 .immediate ∧ (reqOf (asked 0x0210 [2] (roleless 0)) 0).length = 1
    ∧ body (asked 0x0210 [2] (roleless 0)) 0 = [2] ∧ body (asked 0x0210 [3] (roleless 0)) 0 = [3]
    ∧ wet (asked 0x0210 [3] (roleless 0)) 0 ∧ (roleless 2).host.bootsel = 2 ∧ (roleless 0).host.role = 0
    ∧ serves (asked 0x0210 [1] base) 0 0x0210 .immediate ∧ base.host.role ≠ 0 ∧ base.host.bootsel ≠ 2 := by
  unfold serves wet; decide
theorem test_w_sys_reset : serves (asked 0x0102 [] base) 0 0x0102 .immediate ∧ wet (asked 0x0102 [] base) 0
    ∧ ({ base with resetAt := some 1 } : State).resetAt = some 1 ∧ 1 ≤ base.latch.stroke + 1 ∧ base.pd1 = true
    ∧ base.latch.stroke + 1 < 2 := by
  unfold serves wet; decide
/-- A device with a certificate of two bytes. -/
def certDev : State := { base with otp := { base.otp with cert := [0x30, 0x82] } }
theorem test_w_identity : serves (asked 0x0C01 [1, 0] certDev) 0 0x0C01 .read ∧ parseOffset (body (asked 0x0C01 [1, 0] certDev) 0) = some 1
    ∧ 1 < certDev.otp.cert.length ∧ serves (asked 0x0C02 (zeros 32) base) 0 0x0C02 .immediate
    ∧ (∀ c : Fin 4, nonceOf (takeOut (asked 0x0C02 (zeros 32) base) 0) c = none)
    ∧ nonceOf (busyWith (.idChallenge (zeros 32)) base) 0 = some (zeros 32)
    ∧ (∀ c : Fin 4, c ≠ 0 → nonceOf (busyWith (.idChallenge (zeros 32)) base) c = none)
    ∧ serves (asked 0x0121 [] base) 0 0x0121 .immediate
    ∧ ({ base with power := { base.power with switching := [(2, false)] } } : State).power.switching = (2, false) :: [] := by
  unfold serves; decide
/-- The nonce that channel 1 holds while channel 0 asks. -/
theorem test_w_challenge_busy : nonceOf (takeOut (asked 0x0C02 (zeros 32)
    { base with chan := base.chan.set 1 .active, ops := base.ops.set 1 (some ⟨.idChallenge (zeros 32), true, 0⟩) }) 0) 1
      = some (zeros 32) := by decide
/-- A channel in each state. -/
def chanAt (c : ChanState) : State := { base with chan := base.chan.set 0 c }
/-- A half of a device-to-host stream in the host's hands. -/
def halfOut (final : Option Bool) : State :=
  { base with bulk := { base.bulk with mapped := some .dbStream, hostOwned := 2, finalHalf := final, fillHalf := false } }
theorem test_w_doorbell : hostActive base = true ∧ (landed (chanAt .idle)).chan[0] = .idle ∧ (landed (chanAt .posted)).chan[0] ≠ .idle
    ∧ (landed (chanAt .done)).chan[0] = .done ∧ (landed (chanAt .active)).chan[0] = .active
    ∧ (landed (chanAt .disabled)).chan[0] = .disabled ∧ (landed base).bulk.hostOwned.getLsbD 0 = false
    ∧ (landed (halfOut none)).bulk.hostOwned.getLsbD 1 = true ∧ (landed (halfOut none)).bulk.hostToDev = false
    ∧ (landed (halfOut none)).bulk.finalHalf = none := by decide
/-- A ring that holds two entries across the wrap. -/
def ringWrap : State := { base with host := { base.host with evtHead := 1, evtTail := 0xFFFF } }
theorem test_w_evt_tail : hostActive ringWrap = true ∧ 2 ≤ ((landed ringWrap).host.evtHead - (landed ringWrap).host.evtTail).toNat
    ∧ (1 : Word).truncate 16 = (landed ringWrap).host.evtTail + BitVec.ofNat 16 2
    ∧ ((landed ringWrap).host.evtHead - (landed ringWrap).host.evtTail).toNat < 3
    ∧ (∀ k : Fin 3, (2 : Word).truncate 16 ≠ (landed ringWrap).host.evtTail + BitVec.ofNat 16 k.val) := by decide
theorem test_w_registers : hostActive base = true ∧ 2 ≤ ((0x020000 : Word).toNat / 65536) % 256 ∧ (0x0002 : Half).toNat % 4 ≠ 0
    ∧ (0x004C : Half).toNat % 4 = 0 ∧ (0x0FFC : Half).toNat < 0x1000 ∧ State.reset.pd1 = false := by decide
theorem test_w_buffers : hostActive base = true ∧ base.pd1 = true ∧ base.host.hostqW = [] ∧ 127 < 128 ∧ base.chan[0] = .idle
    ∧ (chanAt .done).chan[0] = .done ∧ (chanAt .posted).chan[0] ≠ .idle ∧ (chanAt .posted).chan[0] ≠ .done := by decide
/-- A read that holds SCL. -/
def holding (n : Option Nat) : State := { base with host := { base.host with holdingScl := true, heldRead := n } }
/-- A write frame in progress, with the bytes of a word begun. -/
def midFrame (w : List Byte) : State :=
  { base with host := { base.host with regPtr := 0x1000, frame := some { OpenFrame.reset with write := true, head := [0x10, 0], word := w } } }
theorem test_w_i2c : addressed base 0x58 true .whole = true ∧ addressed base 0x58 true ⟨true, false⟩ = true
    ∧ ((0x10 : Byte).toNat * 256 + (0x04 : Byte).toNat) % 4 = 0 ∧ ((0x10 : Byte).toNat * 256 + (0x06 : Byte).toNat) % 4 ≠ 0
    ∧ addressed (midFrame [7]) 0x58 true ⟨false, true⟩ = true ∧ (midFrame [7]).host.frame.isSome = true ∧ inWriteWord (midFrame [7]) = true
    ∧ ((midFrame [7]).host.frame.all fun f => !f.ignored && f.head.length == 2) = true ∧ base.host.hostqW = [] ∧ base.host.frame = none
    ∧ addressed base 0x58 false .whole = true ∧ base.host.regPtr % 4 = 0 ∧ base.host.regPtr ≤ 0x10000
    ∧ (0x59 : BitVec 7).toNat ≠ ownAddress base ∧ hostActive base = true := by decide
theorem test_w_i2c_holds : (4 : Nat) < (List.replicate 5 ((0x1000 : Half), (0 : Word))).length
    ∧ 4 ≤ (base.host.hostqW ++ (List.replicate 5 ((0x1000 : Half), (0 : Word))).take 4).length
    ∧ (holding (some 3)).host.heldRead = some 3 ∧ (holding none).host.holdingScl = true ∧ (holding none).host.heldRead = none
    ∧ base.host.hifSpi = false ∧ base.host.holdingScl = false
    ∧ ({ base with host := { base.host with i2cTimeout := 0x00010001 } } : State).host.i2cTimeout.toNat % 65536 ≠ 0
    ∧ ({ base with host := { base.host with i2cTimeout := 0x00010001 } } : State).host.i2cTimeout.toNat / 65536 ≠ 0
    ∧ ({ base with host := { base.host with i2cTimeout := 0 } } : State).host.i2cTimeout.toNat % 65536 = 0 := by decide
/-- A device strapped to SPI. -/
def spiDev : State := { base with host := { base.host with hifSpi := true } }
theorem test_w_spi : hostActive spiDev = true ∧ spiDev.host.hifSpi = true ∧ 0x0F * 256 + 0xFC + 4 ≤ 0x1000
    ∧ spiDev.host.hostqBusy ≤ 3 * hostqCost ∧ spiDev.host.hostqW = [] ∧ spiDev.host.frame = none
    ∧ spiDev.host.spiWrWait = 0 ∧ (0x1000 ≤ 0x1FC0 ∧ 0x1FC0 + 64 ≤ 0x2000) ∧ (0x8000 ≤ 0xFFC0 ∧ 0xFFC0 + 64 ≤ 0x10000)
    ∧ 3 * 1000 ≤ spiDev.host.spiRdDummy.toNat * 10000 ∧ (0x99 : Byte) ≠ 0x02 ∧ (0x99 : Byte) ≠ 0x38 ∧ (0x99 : Byte) ≠ 0x0B
    ∧ (0x99 : Byte) ≠ 0xEB := by decide
theorem test_w_event : base.host.evtHead - base.host.evtTail ≠ 64 ∧ (zeros 16).length = 16
    ∧ ({ base with host := { base.host with evtHead := 63, evtTail := 0xFFFF } } : State).host.evtHead
      - ({ base with host := { base.host with evtHead := 63, evtTail := 0xFFFF } } : State).host.evtTail = 64 := by decide
/-! ### Hypotheses met: front end, slots and reception -/

/-- Input 0 with its converter, changed. -/
def withInput (f : FeInput → FeInput) (g : TemperConv → TemperConv) (s : State) : State :=
  modConv (modInput s 0 fun x => f { x with enabled := true }) 0 fun v => g { v with state := .wait }
/-- Slot 0 receives FM at 98 MHz on input 0, in TRACK; it is then changed. -/
def withSlot (f : Slot → Slot) : State :=
  modSlot (withInput (fun x => { x with state := .track }) id atTick) 0 fun x =>
    f { x with state := .live, tune := { x.tune with type := .fm, input := 0, freq := 98000000 } }
/-- Slot 0 receives an ensemble; its receiver is then changed. -/
def withDab (st : SlotState) (f : DabRx → DabRx) : State :=
  withSlot fun x => { x with state := st, tune := { x.tune with type := .dab, freq := 227360000 }, dab := f x.dab }

/-- Input 0 on, `n` frames into its epoch; its converter is in WAIT unless it is then changed. -/
def feAt (n : Nat) (f : FeInput → FeInput) (g : TemperConv → TemperConv) : State :=
  withInput (fun x => f { x with state := .track, frameNo := n }) g atTick
theorem test_w_frame : frameOpen 0 (feAt 1 id id) = true ∧ frameOpen 0 base = false ∧ clipMet (clippedIn [8190]) (feAt 1 id id).inputs[0] = false
    ∧ (feAt 1 id id).inputs[0].giMove = none ∧ (feAt 1 id id).inputs[0].overDue = false
    ∧ frameOpen 0 (feAt 1 (fun x => { x with overDue := true }) id) = true
    ∧ stepsDiscarded 0 ((feAt 1 id id).inputs[0].frameTs + frameUnits 0) (feAt 1 id id).inputs[0] = false
    ∧ (feAt 1 (fun x => { x with giMove := some 3 }) id).inputs[0].giMove = some 3
    ∧ (feAt 1 id id).inputs[0].cfgAt * 25 ≤ (feAt 1 id id).inputs[0].frameTs + frameUnits 0
    ∧ clipMet (clippedIn (List.replicate BellowsCfg.vhf.clipLimit (-8192))) (feAt 1 (fun x => { x with gi := 2 }) id).inputs[0] = true
    ∧ (feAt 1 (fun x => { x with gi := 2 }) id).inputs[0].gi < (cfgFor (feAt 1 id id).inputs[0] (feAt 1 id id).inputs[0].frameTs).giLow
    ∧ reads (withSlot id).slots[0] 0 = true ∧ reads (withSlot id).slots[0] 1 = false ∧ combines (withSlot id).slots[0] = false
    ∧ onHf (tuneFor (withSlot id).slots[0] 0) = ((0 : Fin 3) == 2) ∧ 25 * (withSlot id).slots[0].pathA.since ≤ 0 := by decide
theorem test_w_epoch : epochEnded 0 (feAt 256 id id) = true ∧ epochEnded 0 base = false ∧ (feAt 256 id id).convs[0].fgPending = none
    ∧ epochEnded 0 (feAt 256 id fun v => { v with state := .cycle }) = true
    ∧ epochEnded 0 (feAt 0 id fun v => { v with state := .startup, startupLeft := 1 }) = true
    ∧ epochEnded 0 (feAt 256 id fun v => { v with state := .foreground, fgLeft := 2000 }) = true
    ∧ foregroundGi 0 (2800 - (2000 - 1)) = some 0 ∧ BellowsCfg.vhf.upper < 0 ∧ -6000 ≤ BellowsCfg.vhf.upper
    ∧ (feAt 256 (fun x => { x with gi := 2 }) id).inputs[0].stepped = false ∧ 2 < BellowsCfg.vhf.giLow
    ∧ (feAt 256 (fun x => { x with state := .acquire, acqEpochs := 1 }) id).inputs[0].acqEpochs = 1
    ∧ (feAt 256 (fun x => { x with state := .overload, epochWhole := true }) id).inputs[0].epochClip = false := by decide
theorem test_w_bellows : acquireDone (feAt 0 (fun x => { x with state := .acquire, acqEpochs := 3 }) id).inputs[0] = true
    ∧ riseDue 0 (feAt 0 (fun x => { x with quietFrom := some 0, gi := 7, frameTs := 25 * ticksOfMs BellowsCfg.vhf.upHoldMs }) id).inputs[0] = true
    ∧ 25 * 0 < 0 + 25 * (BellowsCfg.vhf.recoverMs * 24576) ∧ 0 + 25 * (BellowsCfg.vhf.recoverMs * 24576) ≤ 25 * (BellowsCfg.vhf.recoverMs * 24576)
    ∧ (feAt 0 (fun x => { x with state := .recover }) id).inputs[0].state = .recover
    ∧ acquireDone base.inputs[0] = false ∧ riseDue 0 base.inputs[0] = false ∧ base.inputs[0].state ≠ .recover := by decide
theorem test_w_temper_start : startupDone (modConv base 0 fun v => { v with state := .startup }).convs[0] = true
    ∧ (modConv base 0 fun v => { v with state := .startup }).convs[0].valid = false
    ∧ requestIn (modConv base 0 fun v => { v with state := .startup, valid := true }).convs[0].fgPending 0 = false
    ∧ (modConv base 0 fun v => { v with state := .startup, valid := true }).convs[0].restored = none
    ∧ retiredUnits (modConv base 0 fun v => { v with state := .startup, valid := true }).convs[0] = []
    ∧ foregroundOver (modConv base 0 fun v => { v with state := .foreground }).convs[0] = true
    ∧ (List.replicate 9 (⟨1024, -7864, 10000, 13107⟩ : UnitValues)).length = unitCount 0
    ∧ base.convs[0].units.length = unitCount 0 ∧ (List.replicate 8 ((0 : Int), (0 : Int))).length = giCount 0 ∧ measuresAll 0 [] [] = false
    ∧ (∀ u ∈ List.replicate 9 (⟨1024, -7864, 10000, 13107⟩ : UnitValues), inService u = true)
    ∧ startupDone base.convs[0] = false ∧ foregroundOver base.convs[0] = false := by decide
/-- Converter 0 at the end of STARTUP with values to take force there. -/
def restoring (b : RestoredSet) : State := modConv base 0 fun v => { v with state := .startup, valid := true, restored := some b }
theorem test_w_restored (b : RestoredSet) : startupDone (restoring b).convs[0] = true ∧ (restoring b).convs[0].valid = true
    ∧ requestIn (restoring b).convs[0].fgPending 0 = false ∧ (restoring b).convs[0].restored = some b := ⟨rfl, rfl, rfl, rfl⟩
/-- Converter 0 in a cycle at a phase. -/
def cycling (p : TemperPhase) (f : TemperConv → TemperConv) : State :=
  modConv base 0 fun v => f { v with state := .cycle, phase := p, phaseLeft := 0, spare := some 8, map := List.range 8 }
theorem test_w_temper_cycle :
    cycleDue 0 (feAt 0 id fun v => { v with bgPending := some 0, cfg := ⟨true, 0, 0⟩ }) = true ∧ cycleDue 0 base = false
    ∧ measureOver (cycling .measure id).convs[0] = true ∧ measureOver (cycling .lastMeasure id).convs[0] = true ∧ measureOver base.convs[0] = false
    ∧ (cycling .measure id).convs[0].spare = some 8 ∧ 8 < (cycling .measure id).convs[0].units.length
    ∧ inService ⟨1025, 0, 0, 0⟩ = false ∧ inService ⟨1024, 0, 0, 0⟩ = true
    ∧ verifyOver (cycling .verify id).convs[0] = true ∧ verifyOver base.convs[0] = false
    ∧ (cycling .verify fun v => { v with verifyVoid := true }).convs[0].verifyVoid = true
    ∧ (cycling .verify id).convs[0].verifyVoid = false ∧ (cycling .verify id).convs[0].step < (cycling .verify id).convs[0].map.length
    ∧ (32 : Int) < 33 ∧ (cycling .verify id).convs[0].verifyFails < 2
    ∧ ¬ (cycling .verify fun v => { v with verifyFails := 2 }).convs[0].verifyFails < 2
    ∧ cycleOver (cycling .ended id).convs[0] = true ∧ cycleOver base.convs[0] = false
    ∧ requestIn (cycling .ended id).convs[0].fgPending (cycling .ended id).inputs[0].frameTs = false
    ∧ retiredUnits (cycling .ended id).convs[0] = [] ∧ (cycling .ended id).convs[0].result ≠ 3 := by decide
/-- The channel waits for a tone at 98 MHz and -60.00 dBm, with so many epochs to come. -/
def tracing (left : Option Nat) (abort : BitVec 4) : State :=
  { busyWith (.levelTrace 0 3 98000 (-6000) left) base with abortPending := abort }
/-- Input 0 with a MANUAL Bellows, its converter in WAIT. -/
def manualInput : State := withInput (fun x => { x with state := .manual }) id base
theorem test_w_temper_save : serves (asked 0x0312 [0] base) 0 0x0312 .read ∧ body (asked 0x0312 [0] base) 0 = [BitVec.ofNat 8 (0 : Fin 3).val]
    ∧ isLocal base = false ∧ saveRefused base.latch.convs[0] = true
    ∧ saveRefused { base.latch.convs[0] with state := .wait } = false ∧ base.latch.convs[0].units.length ≤ 9
    ∧ base.latch.convs[0].giComp.length ≤ 8 ∧ base.latch.convs[0].levels.length ≤ 4
    ∧ serves (asked 0x0315 ([0, 3] ++ u32 98000 ++ s16 (-600)) manualInput) 0 0x0315 .long
    ∧ wet (asked 0x0315 ([0, 3] ++ u32 98000 ++ s16 (-600)) manualInput) 0
    ∧ parseLevelTrace (body (asked 0x0315 ([0, 3] ++ u32 98000 ++ s16 (-600)) manualInput) 0) = some (0, 3, 98000, -600)
    ∧ levelTraceOk 0 manualInput = true ∧ levelTraceOk 0 base = false
    ∧ opOf (tracing (some 0) 0) 0 = some ⟨.levelTrace 0 3 98000 (-6000) (some 0), false, 0⟩
    ∧ opOf (tracing (some 64) 0) 0 = some ⟨.levelTrace 0 3 98000 (-6000) (some 64), false, 0⟩
    ∧ opOf (tracing none 0) 0 = some ⟨.levelTrace 0 3 98000 (-6000) none, false, 0⟩ ∧ abortLanded (tracing (some 0) 0) 0 = false
    ∧ abortLanded (tracing none 0) 0 = false ∧ abortLanded (tracing (some 0) 1) 0 = true ∧ (-1000 : Int) ≤ -6000 - (-5000) ∧ (-6000 : Int) - (-7000) ≤ 1000 := by
  unfold serves wet; decide

theorem test_w_slot_states : atBoundary (withSlot id) = true ∧ isLocal (withSlot id) = false ∧ (withSlot id).slots[0].visit = false
    ∧ holdDue (withSlot fun x => { x with held := true }) (withSlot fun x => { x with held := true }).slots[0] = true
    ∧ holdDue (withSlot id) (withSlot id).slots[0] = false
    ∧ acquireDue (withSlot fun x => { x with state := .acquiring }) (withSlot fun x => { x with state := .acquiring }).slots[0] = true
    ∧ 10 ≤ (withSlot fun x => { x with state := .acquiring, metRun := 10 }).slots[0].metRun
    ∧ (withSlot fun x => { x with state := .acquiring, metRun := 9 }).slots[0].metRun < 10
    ∧ lossDue (withSlot fun x => { x with failRun := x.fm.lossMs }) (withSlot fun x => { x with failRun := x.fm.lossMs }).slots[0] = true
    ∧ recoveryDue (withSlot fun x => { x with state := .noSignal, metRun := 10 })
        (withSlot fun x => { x with state := .noSignal, metRun := 10 }).slots[0] = true := by decide
/-- An ensemble slot with its runs. -/
def dabRuns1 (st : SlotState) (met fail : Nat) : State :=
  modSlot { withDab st id with now := 24576 * 600, latch := { atTick.latch with stroke := 600 } } 0 fun x =>
    { x with metRun := met, failRun := fail }
theorem test_w_dab_states : atBoundary (dabRuns1 .acquiring 24 0) = true
    ∧ dabAcquireDue (dabRuns1 .acquiring 24 0) (dabRuns1 .acquiring 24 0).slots[0] = true
    ∧ dabAcquireDue (dabRuns1 .acquiring 23 0) (dabRuns1 .acquiring 23 0).slots[0] = true
    ∧ dabRulesOpen (dabRuns1 .live 0 500) (dabRuns1 .live 0 500).slots[0] = true ∧ (dabRuns1 .live 0 500).slots[0].failRun = 500
    ∧ dabRulesOpen (dabRuns1 .noSignal 24 0) (dabRuns1 .noSignal 24 0).slots[0] = true := by decide
theorem test_w_receiver : (withSlot fun x => { x with settling := true }).slots[0].settling = true
    ∧ (withSlot fun x => { x with settling := true }).slots[0].settleEnd ≤ atTick.now
    ∧ widenDue (withSlot fun x => { x with bwIndex := 9, bwHold := x.fm.widenMs }).slots[0] = true
    ∧ isFm (withSlot fun x => { x with pilotHigh := 20 }).slots[0].tune.type = true
    ∧ (withSlot fun x => { x with stereo := true, pilotLow := 5 }).slots[0].pilotLow = 5
    ∧ (withSlot fun x => { x with lockRun := 20, tune := { x.tune with type := .am } }).slots[0].am.detector = 0
    ∧ (withSlot fun x => { x with tune := { x.tune with type := .fmDiversity } }).slots[0].state ≠ .free := by decide
/-- Slot 0 receives by diversity; its combiner is then changed. -/
def divSlot (f : Diversity → Diversity) : State :=
  withSlot fun x => { x with tune := { x.tune with type := .fmDiversity }, div := f x.div }
/-- A window of both branches at one gain. -/
def divWindow (v : Cplx) : List (Cplx × Cplx × Cplx) := List.replicate 256 (v, v, v)
theorem test_w_diversity :
    windowOver (divSlot fun d => { d with windowAt := divWindow ⟨1, 0⟩ }).slots[0] = true ∧ windowOver base.slots[0] = false
    ∧ (divSlot id).slots[0].div.fallDue = none ∧ (divSlot id).slots[0].div.falling = false
    ∧ (divSlot fun d => { d with falling := true }).slots[0].div.falling = true
    ∧ (divSlot fun d => { d with fallDue := some 0 }).slots[0].div.fallDue ≠ none
    ∧ windowSettled (divSlot id).slots[0].div = true
    ∧ (mrcWeights (estimateBranch [⟨1, 0⟩, ⟨2, 0⟩] [⟨1, 0⟩, ⟨1, 0⟩]) (estimateBranch [⟨1, 0⟩, ⟨3, 0⟩] [⟨1, 0⟩, ⟨1, 0⟩])).isSome = true
    ∧ mrcWeights ⟨⟨0, 0⟩, 1⟩ ⟨⟨0, 0⟩, 1⟩ = none
    ∧ windowSettled (divSlot fun d => { d with newUntil := some 1 }).slots[0].div = false
    ∧ (divSlot id).inputs[1].state ≠ .overload
    ∧ (modInput (divSlot id) 0 fun x => { x with state := .overload }).inputs[0].state = .overload := by decide +kernel
theorem test_w_dab_reception : dabRuns (withDab .live id) (withDab .live id).slots[0] = true ∧ (withDab .live id).slots[0].dab.sync = .search
    ∧ 2592 ≤ 2720 ∧ 196600 ≤ 196616 ∧ (2720 : Nat) < 2721 ∧ 12 < 13
    ∧ (withDab .live fun d => { d with sync := .coarse, framesIn := 3 }).slots[0].dab.framesIn = 3
    ∧ (withDab .live fun d => { d with sync := .fine, framesIn := 4 }).slots[0].dab.sync = .fine
    ∧ (withDab .live fun d => { d with sync := .track, prsFails := 4 }).slots[0].dab.prsFails = 4
    ∧ (withDab .live fun d => { d with sync := .coarse, tracked := true }).slots[0].dab.tracked = true
    ∧ (withDab .live id).slots[0].dab.cifAt + (withDab .live id).slots[0].dab.period / 2 ≤ 25 * atTick.now
    ∧ (withDab .live id).slots[0].dab.reconfAt = none ∧ (withDab .live id).slots[0].dab.tracked = false
    ∧ coarseOffset 0 ((List.replicate 61 119).set 60 120) = some 30 ∧ coarseOffset 0 (List.replicate 61 119) = none
    ∧ 98304 + 2359296 ≤ (withDab .live id).now ∧ (withDab .live id).now < 98305 + 2359296 := by decide
/-- A subchannel of a current and of a next organisation. -/
def sub1 : SubCh := { SubCh.reset with id := 5, start := 0, size := 84, protection := 3 }
def sub2 : SubCh := { sub1 with start := 84 }
/-- The next configuration announces the second organisation of the subchannel, at the CIFs of count 10. -/
def announcing : State :=
  withDab .live fun d =>
    { d with subchs := [sub1], nextFigs := [.f01 true [⟨5, 84, 84, 3, 64⟩]], reconfAt := some 10, tracked := true, cif := 9 }
theorem test_w_multiplex : occurrenceTs announcing.slots[0].dab = some 589824 ∧ 589824 ≤ announcing.now
    ∧ (nextOrgs 589824 announcing.slots[0].dab.nextFigs).map (fun u => (u.id, u.start)) = [(5, 84)]
    ∧ discDue announcing announcing.slots[0] = false ∧ sameOrg sub1 sub2 = false
    ∧ (∀ o ∈ [sub1], o.id = sub2.id → sameOrg o sub2 = false)
    ∧ (sub2, 2) ∈ (withDab .live fun d => { d with candidates := [(sub2, 2)] }).slots[0].dab.candidates
    ∧ sub1 ∈ (withDab .live fun d => { d with subchs := [sub1] }).slots[0].dab.subchs
    ∧ sub1.lastSeen + 245760000 ≤ ({ withDab .live id with now := 245760000 } : State).now
    ∧ discDue (withDab .live id) (withDab .live fun d => { d with discDue := true }).slots[0] = true
    ∧ discDue (withDab .live id) (withDab .live fun d => { d with eid := some 1, eidNew := some (2, 2) }).slots[0] = true := by decide +kernel
/-- A logical frame that waits for its decoder, and a receiver that holds it with its subchannel. -/
def waiting : ReadyFrame := { ReadyFrame.reset with subch := 5 }
def unitRx (u : SubCh) : DabRx := { DabRx.reset with subchs := [u], ready := [waiting] }
/-- A DAB+ subchannel in sync, four logical frames into its superframe. -/
def super1 : SubCh := { sub1 with kind := 1, synced := true, align := 0, frames := List.replicate 4 MscFrame.reset }
theorem test_w_logical : nextReady (unitRx sub1) 5 = some (waiting, some sub1) ∧ nextReady (unitRx super1) 5 = some (waiting, some super1)
    ∧ nextReady (unitRx sub1) 6 = none ∧ generationReadable (unitRx sub1) 0 = true
    ∧ generationReadable { unitRx sub1 with orgGens := [(0, 0, none)] } 0 = false ∧ isRemote (withDab .live id) = false
    ∧ sub1.kind ≠ 1 ∧ super1.kind = 1 ∧ (∀ m : MscFrame, (keepLast 5 (super1.frames ++ [m])).length = 5)
    ∧ (∀ m : MscFrame, ((keepLast 5 (super1.frames ++ [m])).headD m).count % 5 = super1.align)
    ∧ (∀ b : Bool, (superframeSync b 0 super1).synced = true)
    ∧ (withDab .noSignal id).slots[0].state ≠ .live :=
  ⟨by decide, by decide, by decide, by decide, by decide, by decide, by decide, by decide, fun _ => rfl, fun _ => rfl, by decide, by decide⟩
/-- A slot whose RDS receiver is changed. -/
def withRds (f : RdsRx → RdsRx) : State := withSlot fun x => { x with rds := f x.rds }
/-- A group with its second block of a status. -/
def groupOf (st : Byte) : List RdsBlock := [⟨0x1234, 0⟩, ⟨0x0400, st⟩, ⟨0, 0⟩, ⟨0, 0⟩]
theorem test_w_rds : rdsCarrierHeld (withRds id).slots[0] 100 = true ∧ rdsCarrierHeld (withRds id).slots[0] 101 = false
    ∧ (withSlot id).slots[0].state = .live ∧ (seekRuns 0 0 (withRds id).slots[0].rds.acquire).1 < 3 ∧ isFm (withRds id).slots[0].tune.type = true ∧ (withRds id).slots[0].state ≠ .linkLost
    ∧ (withRds id).slots[0].rds.group.length < 4 ∧ (withRds id).slots[0].rds.synced = false ∧ blockPosition 0x0000001 = none
    ∧ 3 ≤ (seekRuns (rdsBlockTicks 2) 2 (seekRuns (rdsBlockTicks 1) 1 (seekRuns 0 0 []).2).2).1
    ∧ (withRds fun r => { r with synced := true }).slots[0].rds.synced = true ∧ rdsRemainder 0x0000001 ≠ 0
    ∧ 4 ≤ (withRds fun r => { r with group := groupOf 6 }).slots[0].rds.group.length
    ∧ (withRds fun r => { r with group := groupOf 6 }).slots[0].rds.group[1]? = some ⟨0x0400, 6⟩ ∧ 5 < (6 : Byte).toNat
    ∧ (5 : Byte).toNat ≤ 5 ∧ (withSlot fun x => { x with state := .noSignal }).slots[0].state ≠ .live
    ∧ (withSlot id).slots[0].state = .live := by decide +kernel
/-- Output 0 runs and its PAD is wanted. -/
def padDev : State :=
  { modOut base 0 (fun x => { x with state := .running }) with
    side := { base.side with cfg := { base.side.cfg with padOutputs := 1 } } }
theorem test_w_pad : (sideAt padDev 0).padOutputs.getLsbD 0 = true ∧ padDev.outs[0].state = .running
    ∧ padDev.follow[0].activeB = false ∧ padDev.outs[0].cfg.cursor = false
    ∧ (vmod padDev.side.pad 0 fun p => { p with motId := some 4 })[0].motId = some 4
    ∧ PadRx.reset.motFrom + 120 * 24576000 ≤ 2949120000 := by decide
/-- A change of each source that is due at stroke 100. -/
def changeOf (source : Nat) (key : DbKey) : DbChange := ⟨source, 100, 0, key, .touch, false, false, false⟩
def dlKey : DbKey := .service true (heardComponent atTick 0).1 0
/-- A database of one record, last confirmed at the start. -/
def oldRec (n : Nat) : State :=
  { atTick with
    now := 24576 * n
    latch := { atTick.latch with stroke := n }
    db := { base.db with recs := [{ DbRec.reset with index := 7, body := .linkage ⟨1, true, true, false, false, [], []⟩ }] } }
theorem test_w_database : atBoundary atTick = true
    ∧ changeOf 0 (.ensemble 0 0) ∈ ({ atTick with db := { base.db with pending := [changeOf 0 (.ensemble 0 0)] } } : State).db.pending
    ∧ (changeOf 0 (.ensemble 0 0)).due ≤ atTick.latch.stroke ∧ (changeOf 1 (.ensemble 0 0)).source = 1
    ∧ (changeOf 2 dlKey).key = .service true (heardComponent atTick 0).1 0
    ∧ atBoundary (oldRec ((oldRec 1).side.cfg.expiryS * 1000 + 1)) = true ∧ (oldRec 1).db.pending = []
    ∧ (∀ q ∈ (oldRec 1).db.recs, q.index = 7) ∧ (oldRec 1).side.cfg.expiryS ≠ 0
    ∧ (oldRec 1).db.recs.all (fun r => !pinnedNow (oldRec 1) (relink (oldRec 1).db.recs) r && !r.pinned) = true
    ∧ (oldRec 1).db.recs.all (fun r => r.confirmed + (oldRec 1).side.cfg.expiryS * 24576000
        < ((oldRec 1).side.cfg.expiryS * 1000 + 1) * 24576) = true
    ∧ atBoundary { atTick with now := 1 } = false
    ∧ generationDue { atTick with db := { base.db with stepsSince := 1 } } = true := by decide
/-- The census is on, with the front end powered. -/
def surveying : State :=
  { withInput (fun x => { x with state := .track }) id atTick with
    census := { base.census with cfg := { CensusCfg.reset with on := true, maxVisits := 1 } } }
/-- Slot 47 visits, and no signal was found. -/
def visiting : State :=
  modSlot { surveying with census := { surveying.census with visits := [⟨47, false, 87500000, 0, 0⟩] } } 47 fun x =>
    { x with visit := true, state := .noSignal }
theorem test_w_census : visitWanted surveying = true ∧ visitNumber surveying = some 47
    ∧ skipEntry surveying (planEntry surveying.census.cfg surveying.census.planPos) = false ∧ 0 < planLength surveying.census.cfg
    ∧ visitsFit (beginVisit 47 (planEntry surveying.census.cfg surveying.census.planPos)
        { surveying with census := advancePlan surveying.now surveying.census }) = true
    ∧ visitEndDue visiting 47 = true := by decide +kernel
/-- Snapshots open in the first `n` places. -/
def snapped (n : Nat) : State :=
  { base with db := { base.db with snaps := #v[if 0 < n then some ⟨0, false⟩ else none, if 1 < n then some ⟨0, false⟩ else none] } }
theorem test_w_snapshots : serves (asked 0x0501 [] (snapped 0)) 0 0x0501 .immediate ∧ wet (asked 0x0501 [] (snapped 0)) 0
    ∧ (snapped 0).db.snaps[0] = none ∧ (snapped 1).db.snaps[0] ≠ none ∧ (snapped 1).db.snaps[1] = none ∧ (snapped 2).db.snaps[1] ≠ none
    ∧ serves (asked 0x0503 [1, 0, 0xFF, 0x0F] (snapped 1)) 0 0x0503 .read
    ∧ parseDbRead (body (asked 0x0503 [1, 0, 0xFF, 0x0F] (snapped 1)) 0) = some (0, 4095)
    ∧ snapStatus (snapped 1).db 0 = none
    ∧ serves (asked 0x0502 [2] (snapped 2)) 0 0x0502 .immediate ∧ body (asked 0x0502 [2] (snapped 2)) 0 = [BitVec.ofNat 8 ((1 : Fin 2).val + 1)]
    ∧ serves (asked 0x0504 (zeros 8 |>.set 0 1) (snapped 1)) 0 0x0504 .read
    ∧ parseDbChanges (body (asked 0x0504 (zeros 8 |>.set 0 1) (snapped 1)) 0) = some (0, 0, 0, 0)
    ∧ serves (asked 0x0505 [1] (snapped 1)) 0 0x0505 .immediate ∧ (snapped 1).bulk.mapped = none
    ∧ (halfOut none).bulk.mapped ≠ none := by
  unfold serves wet; decide
/-! ### Hypotheses met: following, outputs, the store and the link -/

/-- Follower 0 between slots 0 and 5, changed. -/
def following (f : Follower → Follower) (s : State) : State :=
  modFollow s 0 fun x => f { x with
    state := .ready, legA := ⟨some 0, 0, 0⟩, legB := ⟨some 5, 0, 0⟩, cfg := { x.cfg with mode := 2, allow := 0xFF } }
theorem test_w_lag : (following id atTick).follow[0].state ≠ .off ∧ twoLegs (following id atTick).follow[0] = true
    ∧ (following id atTick).follow[0].lastMeasure + 6144000 ≤ 6144000 ∧ curStroke atTick = 100 ∧ atBoundary atTick = true
    ∧ (following (fun f => { f with lagDue := some (100, ⟨24576, 900⟩) }) atTick).follow[0].lagDue = some (100, ⟨24576, 900⟩)
    ∧ (following id atTick).follow[0].cfg.corrLock ≤ 900 ∧ 2 ≤ ([0, 49152] : List Int).length
    ∧ (∀ v ∈ ([0, 49152] : List Int), (v - 24576).natAbs ≤ 24576)
    ∧ (following (fun f => { f with lag := .locked, lagTicks := some 200000 }) atTick).follow[0].lagTicks = some 200000
    ∧ 122880 < ((200000 : Int) - 24576).natAbs
    ∧ (following (fun f => { f with lag := .searching }) { atTick with now := 24576 * 20000 }).follow[0].searchFrom + 20000
      ≤ curStroke { atTick with now := 24576 * 20000 } := by decide
/-- Two FM slots on one service, slot 1 being the candidate for a standby whose lag is beyond its limit. -/
def replacing : State :=
  let on (n : Fin 48) (s : State) : State := modSlot s n fun x =>
    { x with state := .live, tune := { x.tune with type := .fm }, rds := { x.rds with piLast := some 0x1234 } }
  following (fun f => { f with lag := .exceeded, target := some 7 }) (on 1 (on 0
    { atTick with db := { base.db with recs := (newBody [] (.service false 0x1234 0)).toList.map fun b =>
      { DbRec.reset with index := 7, body := b } } }))
theorem test_w_standby : atBoundary replacing = true ∧ replaceDue replacing replacing.follow[0] = true
    ∧ bestCandidate replacing replacing.follow[0] ((candidates replacing replacing.follow[0]).filter fun e =>
        e.1 != standbyLeg replacing.follow[0]) = some (⟨some 1, 0, 0⟩, 1) := by decide +kernel
theorem test_w_walk :
    (following (fun f => { f with need := some 1000000, lagTicks := some 1, delayA := 1000000 }) atTick).follow[0].need
      = some (delayOf (following (fun f => { f with need := some 1000000, delayA := 1000000 }) atTick).follow[0] false)
    ∧ standbyLag (following (fun f => { f with lagTicks := some 1 }) atTick).follow[0] = some 1000000 ∧ 1000000 ≤ delayCap
    ∧ levelWindowDue atTick { (following id atTick).follow[0] with levelFrom := some 0, cfg := { FollowCfg.reset with levelWindowMs := 100 } }
      = true := by decide
/-- Follower 0, with sums of squares over one stroke behind the alignment delays of its legs. -/
def levelled (a b : Nat) : State :=
  let q (n : Nat) : DetPoint := { DetPoint.reset with sums := [(0, 0, 0, 0), (0, 0, n, 1)] }
  let s := following id atTick
  { s with audio := vmod s.audio 0 fun p => { p with points := #v[q a, q b, DetPoint.reset] } }
theorem test_w_levels : legLevels atTick 0 100 = none
    ∧ (legLevels (levelled (fullScale * fullScale) (fullScale * fullScale)) 0 100).any (fun e => -5000 ≤ e.1 && -5000 ≤ e.2) = true
    ∧ (legLevels (levelled 0 (fullScale * fullScale)) 0 100).any (fun e => e.1 < -5000) = true := by decide +kernel
/-- Follower 0 with a fade or dip decided on the stroke before. -/
def fadingTo (dip : Bool) (st : FollowState) (leave : Nat) : State :=
  following (fun f => { f with state := st, fade := some { Fade.reset with
    dip := dip, decided := 99, leave := leave, toB := true, mid := 24576000 } }) atTick
theorem test_w_fades : (fadingTo false .ready 200).follow[0].fade.isSome = true
    ∧ (fadingTo false .ready 200).follow[0].fade.all (fun w => w.decided + 1 ≤ 100 && !w.dip && !w.stopAfter) = true
    ∧ (fadingTo false .fading 100).follow[0].fade.all (fun w => w.leave ≤ 100) = true ∧ (fadingTo false .fading 100).follow[0].heldSet = none
    ∧ (fadingTo true .ready 200).follow[0].fade.all (fun w => w.dip && decide ((fadingTo true .ready 200).now < w.mid)) = true
    ∧ (fadingTo true .dip 100).follow[0].fade.all (fun w => w.dip && decide (w.leave ≤ 100) && !w.stopAfter) = true := by decide
/-- The standby is LIVE, LOCKED and trimmed. -/
def readyDev : State :=
  following (fun f => { f with lag := .locked, trimSet := true }) (modSlot atTick 5 fun x => { x with state := .live })
theorem test_w_switch : serves (asked 0x0602 [0, 0] readyDev) 0 0x0602 .long ∧ wet (asked 0x0602 [0, 0] readyDev) 0
    ∧ parseFollowSwitch (body (asked 0x0602 [0, 0] readyDev) 0) = some (0, false) ∧ readyDev.follow[0].fade = none
    ∧ followReady (asked 0x0602 [0, 0] readyDev) readyDev.follow[0] = true ∧ followReady atTick (following id atTick).follow[0] = false
    ∧ (fadingTo false .ready 200).follow[0].fade.isSome = true
    ∧ opOf (busyWith (.followSwitch 0 false 100) readyDev) 0 = some ⟨.followSwitch 0 false 100, false, 2457600⟩
    ∧ 100 * 24576 ≤ readyDev.now ∧ atBoundary (busyWith (.followSwitch 0 false 100) readyDev) = true
    ∧ abortLanded (busyWith (.followSwitch 0 false 100) readyDev) 0 = false
    ∧ abortLanded { busyWith (.followSwitch 0 false 100) readyDev with abortPending := 1 } 0 = true := by
  unfold serves wet; decide
/-- Port 0 in target mode, or in controller mode, changed. -/
def portDev (target : Bool) (f : Port → Port) : State :=
  modPort atTick 0 fun x => f { x with cfg := { x.cfg with enable := true, target := target } }
theorem test_w_ports : (portDev true fun x => { x with state := .starting, goodFrom := some 0 }).ports[0].since + 2457600 ≤ atTick.now
    ∧ (portDev true fun x => { x with state := .starting, goodFrom := some 0 }).ports[0].goodFrom = some 0
    ∧ (portDev true fun x => { x with state := .starting }).ports[0].goodFrom = none
    ∧ (portDev true fun x => { x with state := .run }).ports[0].lastFsync + fourFrames (portDev true id) 0 ≤ atTick.now
    ∧ (500000 : Int) < 500001 ∧ (portDev true fun x => { x with state := .clockError }).ports[0].state = .clockError
    ∧ base.ports[0].state = .off ∧ base.ports[0].state ≠ .clockError ∧ (portDev false id).ports[0].cfg.target = false := by decide
/-- A frame of four slots, each with its word. -/
def tdmRow : QueueFrame := ⟨List.replicate 4 (none, 7), Vector.replicate 8 FrameInfo.reset⟩
theorem test_w_tdm : (portDev false fun x => { x with state := .starting }).ports[0].state ≠ .run
    ∧ frameBegun (portDev false fun x => { x with state := .run }) 0 = true ∧ frameBegun (portDev true id) 0 = true
    ∧ frameBegun (portDev false fun x => { x with state := .run, nextAt := 2457601 * 441 }) 0 = false
    ∧ (portDev true fun x => { x with badRun := 1 }).ports[0].badRun = 1 ∧ (portDev true id).ports[0].badRun = 0
    ∧ (portDev false fun x => { x with state := .run, audq := List.replicate 32 tdmRow, refill := false }).ports[0].audq
        = tdmRow :: List.replicate 31 tdmRow
    ∧ (List.replicate 32 tdmRow).length ≤ 32 ∧ tdmRow.words[3]? = some (none, 7)
    ∧ (takeEdge 2457600 (portDev true fun x => { x with edges := [] }).ports[0]).eps = 0
    ∧ 500000 < (takeEdge 2457600 (portDev true fun x => { x with edges := (List.range 600).map fun k => 2457600 - 500 * k }).ports[0]).eps
    ∧ (portDev false fun x => { x with state := .run, refill := true, audq := List.replicate 14 tdmRow }).ports[0].refill = true
    ∧ (portDev false fun x => { x with state := .run, refill := false, audq := [] }).ports[0].audq = [] := by decide +kernel
/-- Output 0, changed. -/
def outDev (f : Output → Output) : State := modOut atTick 0 f
theorem test_w_outputs : atBoundary (outDev id) = true
    ∧ (outDev fun x => { x with state := .settling, firstValid := some 0 }).outs[0].firstValid = some 0 ∧ 0 < atTick.now
    ∧ (outDev fun x => { x with state := .running, stopAt := some 100 }).outs[0].stopAt = some 100 ∧ 100 ≤ curStroke atTick
    ∧ (outDev fun x => { x with heldSwap := some (1, 1) }).outs[0].heldSwap = some (1, 1)
    ∧ followBusy (outDev id) 0 100 = false ∧ restartBusy (outDev id) 0 = false ∧ base.audio[0].legA.drift.natAbs < 1000000000
    ∧ 1000000000 ≤ (modLeg atTick 0 false fun p => { p with drift := -1000000000 }).audio[0].legA.drift.natAbs
    ∧ (modLeg atTick 0 false fun p => { p with drift := -1000000000 }).audio[0].legB.drift.natAbs < 1000000000 := by decide

/-- Output 0 runs on a component of an ensemble, a Layer II unit of which stands in Hearth at tick 589,824; leg A is changed. -/
def decoding (f : LegPath → LegPath) : State :=
  let s := withDab .live fun d => { d with
    comps := [⟨7, some 0, some 5, none, 0, 0, true, false, 0⟩]
    units := [⟨{ UnitHeader.reset with subch := 5, timestamp := 589824, length := 2, bitrate := 64 }, [0xFF, 0xFD]⟩] }
  modLeg (modOut s 0 fun x => { x with state := .running, cfg := { x.cfg with srcSid := 7 } }) 0 false f
/-- What the decoder of leg A would take. -/
def taking (s : State) : Option (Nat × Nat × Bool) := match pathOf s 0 .a with
  | some (p, src) =>
    (nextFrameOf p.lastEnd ((readyFrames s 0 p.rate src).filter fun f => decide (p.takeFrom ≤ 25 * (f.finish : Int)))).map fun f => (f.ts, f.rate, f.bad)
  | none => none
theorem test_w_decoding : taking (decoding id) = some (589824, 48000, false)
    ∧ taking (decoding fun p => { p with lastEnd := some 589823 }) = some (589824, 48000, false)
    ∧ taking (decoding fun p => { p with lastEnd := some 589824 }) = some (589824, 48000, false)
    ∧ taking (decoding fun p => { p with rate := 32000 }) = some (589824, 48000, false)
    ∧ (pathOf (decoding id) 0 .a).all (fun e => !takesSlotAudio (decoding id) e.2 && conceals (decoding id) e.2 && !e.2.cursor) = true
    ∧ pathOf (decoding id) 0 .b = none ∧ pathOf base 0 .old = none ∧ heardB (decoding id) 0 = false
    ∧ (decoding id).outs[0].state = .running ∧ (decoding id).outs[0].stopAt = none
    ∧ (pathOf (decoding id) 0 .a).all (fun e => lineEnds e.1 (decoding id).now (arrivalOf (decoding id) 0 e.2)) = true
    ∧ lineEnds { LegPath.reset with line := [{ Sample.reset with stamp := 25 * (2457600 + 73729) }] } 2457600 0 = false := by decide +kernel

/-- A die that identifies. -/
def die : Geometry :=
  { Geometry.reset with
    onfiOk := true, maxMode := 4, bitsPerCell := 3, pageBytes := 16384, spareBytes := 2048, pagesPerBlock := 1024, blocks := 1024
    luns := 1, eccBits := 72, tProgUs := 2000, tResetUs := 500, featuresOk := true }
/-- One die with a volume of this unit, and the store in a state. -/
def storeDev (st : StoreState) (f : Store → Store) : State :=
  { atTick with
    media := { base.media with ce0 := some die }
    store := f { base.store with state := st, vol := { base.store.vol with geometry := die, ceCount := 1 } } }
theorem test_w_format : serves (asked 0x0801 [] (storeDev .unmounted id)) 0 0x0801 .long ∧ wet (asked 0x0801 [] (storeDev .unmounted id)) 0
    ∧ pd6Ready (storeDev .unmounted id) = true ∧ pd6Ready State.reset = false ∧ (storeDev .unmounted id).store.bootWriting = false
    ∧ (storeDev .mounted id).store.state ≠ .unmounted
    ∧ opOf (busyWith .storeFormat (storeDev .formatting id)) 0 = some ⟨.storeFormat, false, 2457600⟩
    ∧ abortLanded (busyWith .storeFormat (storeDev .formatting id)) 0 = false
    ∧ identify (storeDev .formatting id).media = some die ∧ identify base.media = none
    ∧ (formatSlag (storeDev .formatting id).media die []).length ≤ 1536
    ∧ systemRefused (storeDev .formatting id).media die ⟨false, zeros 16, [], (2047, 0)⟩ = false
    ∧ systemRefused (storeDev .formatting id).media die ⟨false, zeros 16, [], (2048, 0)⟩ = true := by
  unfold serves wet; decide
theorem test_w_mount : serves (asked 0x0802 [4, 0, 0] (storeDev .quenched id)) 0 0x0802 .long
    ∧ parseMount (body (asked 0x0802 [4, 0, 0] (storeDev .quenched id)) 0) = some (4, 0, 0)
    ∧ ((storeDev .mounted id).store.state ≠ .unmounted ∧ (storeDev .mounted id).store.state ≠ .quenched)
    ∧ mountsOn (busyWith (.storeMount 4 0 0) (storeDev .mounting id)) 0 = true
    ∧ (∀ c : Fin 4, c ≠ 0 → mountsOn (busyWith (.storeMount 4 0 0) (storeDev .mounting id)) c = false)
    ∧ abortLanded (busyWith (.storeMount 4 0 0) (storeDev .mounting id)) 0 = false
    ∧ (storeDev .mounted id).store.quenching = false
    ∧ (storeDev .mounted fun x => { x with quenching := true }).store.bootWriting = false := by
  unfold serves; decide
set_option maxRecDepth 1000000 in
/-- R389: the clear codeword of a system page of this unit is recognised as one, and as its own. -/
theorem test_system_page : clearOk ((systemPage (newVolume (storeDev .formatting id) die ⟨false, zeros 16, [], (0, 0)⟩)).take 1024) = true
    ∧ ownVolume base.otp ((systemPage (newVolume (storeDev .formatting id) die ⟨false, zeros 16, [], (0, 0)⟩)).take 1024) = true := by
  decide +kernel
theorem test_w_boot_area : serves (asked 0x080C (u32 272) (storeDev .unmounted id)) 0 0x080C .long
    ∧ wet (asked 0x080C (u32 272) (storeDev .unmounted id)) 0
    ∧ parseBootWrite (body (asked 0x080C (u32 272) (storeDev .unmounted id)) 0) = some 272 ∧ (storeDev .unmounted id).bulk.mapped = none
    ∧ (storeDev .mounted fun x => { x with bootWriting := true }).store.bootWriting = true
    ∧ (storeDev .mounting id).store.state = .mounting
    ∧ (storeDev .mounted id).media.ce0 ≠ none ∧ bootWriteOf base 0 = none
    ∧ abortLanded { busyWith (.bootWrite 272 []) (storeDev .mounted id) with abortPending := 1 } 0 = true := by
  unfold serves wet; decide +kernel
theorem test_w_boot_image : image.length = 272
    ∧ (let s : State := { busyWith (.bootWrite 272 image) (storeDev .mounted id) with rom := testRom }
       bootWriteOf s 0 = some (272, image) ∧ imageOk s.otp s.rom image = imageOk Otp.reset testRom image)
    ∧ (let s : State := { busyWith .bootEnd (loading 0) with rom := testRom, boot := { (loading 0).boot with image := image } }
       bootEnding s = some 0 ∧ imageOk s.otp s.rom s.boot.image = imageOk Otp.reset testRom image) :=
  ⟨by decide +kernel, ⟨rfl, rfl⟩, by decide +kernel, rfl⟩
/-- Rec 3 records slot 0, which has been LIVE from the start, at stroke 200. -/
def recDev (f : Rec → Rec) : State :=
  { withSlot (fun x => { x with liveSpells := [(0, none)] }) with
    now := 4915200
    store := { base.store with state := .mounted, recs := [f { Rec.reset with recNo := 3, recording := true, slot := 0, policeBurst := 1000 }] } }
/-- Six access units, which fill a Billet's 120 ms. -/
def sixAus : List (List Byte) := List.replicate 6 (zeros 1)
theorem test_w_stream : (recDev id).store.state = .mounted ∧ (recDev id).store.quenching = false
    ∧ (stagedBillet (recDev id) (recOf (recDev id).store 3) 0 sixAus).map (·.units) = some sixAus
    ∧ stagedBillet base (recOf base.store 3) 0 sixAus = none ∧ 32 + (billetPayload 0 sixAus).length = 52
    ∧ 52 * tokenUnit ≤ tokensNow 4915200 (recOf (recDev fun r => { r with tokens := 52 * tokenUnit }).store 3)
    ∧ stagingFull (recDev id) 52 = false
    ∧ tokensNow 4915200 (recOf (recDev fun r => { r with tokens := 0, tokensAt := 4915200 }).store 3) < 52 * tokenUnit
    ∧ (∀ r ∈ (storeDev .mounted id).store.recs, r.recNo < 256)
    ∧ (recOf (recDev fun r => { r with dropping := true }).store 3).dropping = true
    ∧ (recOf (recDev id).store 3).dropping = false ∧ base.store.state ≠ .mounted
    ∧ 500 % 500 = 0 ∧ (storeDev .mounted id).store.ckptStroke ≠ some 500
    ∧ (storeDev .mounted fun x => { x with expiring := [1], vol := { x.vol with blocks := [{ RingBlock.reset with seq := 1 }] } }).store.expiring = [1]
    ∧ ([{ RingBlock.reset with seq := 1 }].find? fun x => x.seq == 1) = some { RingBlock.reset with seq := 1 }
    ∧ RingBlock.reset.failed = false ∧ RingBlock.reset.weak = false ∧ (storeDev .mounted id).store.vol.slag.length < 1536 := by decide
/-- A page that waits in NW, and one in its array. -/
def page : Packet := { Packet.reset with tag := tagPage, length := 16384 }
def nandDev2 (k : NandKind) (p : Packet) (f : Store → Store) : State :=
  storeDev .mounted fun x => f { x with arrays := [⟨0, k, p, 2457550, []⟩] }
theorem test_w_nand :
    (queueOf (modQueue base.dispatch 0 fun q => { q with items := [page] }) 0).items = page :: []
    ∧ (storeDev .mounted id).store.op = none ∧ (storeDev .mounted id).store.arrays = [] ∧ page.tag = tagPage ∧ page.tag ≠ tagSystem
    ∧ page.tag ≠ tagCheckpoint ∧ arrayOn (nandDev2 .program page id) 0 0 = some 0
    ∧ (nandDev2 .program page id).store.arrays[0]? = some ⟨0, .program, page, 2457550, []⟩ ∧ arrayOn (nandDev2 .program page id) 1 0 = none
    ∧ pollsNow (nandDev2 .program page id).now ⟨0, .program, page, 2457550, []⟩ = true
    ∧ pollsNow 2457600 ⟨0, .program, page, 2457600, []⟩ = false
    ∧ (nandDev2 .program { page with tag := tagCheckpoint } fun x => { x with ckpts := [Checkpoint.reset] }).store.ckpts = Checkpoint.reset :: []
    ∧ (nandDev2 .program page fun x => { x with tries := 2 }).store.tries = 2
    ∧ (nandDev2 .erase { page with total := 1 } fun x => { x with vol := { x.vol with blocks := [{ RingBlock.reset with seq := 1 }] } }).store.vol.slag.length < 1536
    ∧ ([{ RingBlock.reset with seq := 1 }].find? fun x => x.seq == 1) = some { RingBlock.reset with seq := 1 } ∧ tagPage ≠ tagSysErase
    ∧ pollOver (nandDev2 .erase page id) ⟨0, .erase, page, 0, []⟩ = true ∧ pollOver atTick ⟨0, .program, page, 2457600, []⟩ = false ∧ (nandDev2 .erase page id).faults = [] := by decide
/-- An array read of a cursor's queue whose packet waits at its head. -/
def fetching : State :=
  let s := nandDev2 .read { page with tag := tagRead } fun x => { x with arrays := [⟨0x10, .read, { page with tag := tagRead }, 2457550, []⟩] }
  { s with dispatch := { s.dispatch with queues := [(0x10, { DQueue.reset with items := [{ page with tag := tagRead }] })] } }
theorem test_w_array_read : arrayOn fetching 0 0 = some 0 ∧ fetching.store.arrays[0]? = some ⟨0x10, .read, { page with tag := tagRead }, 2457550, []⟩
    ∧ (queueOf fetching.dispatch 0x10).items = { page with tag := tagRead } :: [] := by decide
theorem test_w_data_out : (storeDev .mounted fun x => { x with op := some ⟨0x10, .read, page, 0, []⟩ }).store.op = some ⟨0x10, .read, page, 0, []⟩
    ∧ (storeDev .mounted id).store.state = .mounted := by decide
theorem test_w_quench_done : (storeDev .mounted fun x => { x with quenching := true, ckpts := [Checkpoint.reset] }).store.ckpts.getLast?
    = some Checkpoint.reset := by decide
/-- A patrol or a check of block 1 that has read its pages, `worst` bits wrong in its worst codeword. -/
def checking (kind worst : Nat) : State := storeDev .mounted fun x => { x with nh := some ⟨kind, 1, 0, [], worst⟩ }
/-- Cursor 0 plays. -/
def playing (f : Cursor → Cursor) : State :=
  storeDev .mounted fun x => { x with cursors := vmod x.cursors 0 fun c => f { c with set := true, run := true } }
theorem test_w_housekeeping : (checking 0 0).store.nh = some ⟨0, 1, 0, [], 0⟩
    ∧ 0 < (storeDev .mounted id).store.maint.scrubBits ∧ 0 < (storeDev .mounted id).store.maint.retireBits
    ∧ (checking 1 0).store.nh = some ⟨1, 1, 0, [], 0⟩ ∧ (checking 0 72).store.maint.scrubBits ≤ 72
    ∧ (∀ e ∈ (checking 0 72).store.reloc, e.1 ≠ 1) ∧ 1 ∉ (checking 0 72).store.relocWait
    ∧ (storeDev .mounted id).store.nh = none
    ∧ (playing fun c => { c with ready := true }).store.cursors[0].ready = true ∧ (playing id).store.cursors[0].ready = false
    ∧ (playing id).store.cursors[0].set = true ∧ (playing id).store.cursors[0].run = true ∧ (playing id).store.quenching = false
    ∧ nextBillet (playing id).store (playing id).store.cursors[0] = none ∧ base.store.cursors[0].set = false := by decide
/-- The side-data stream with one record waiting. -/
def streaming : State :=
  { base with
    bulk := { base.bulk with mapped := some .sideData }
    side := { base.side with staging := [⟨1, 0, 0, [7]⟩] }
    dispatch := modQueue base.dispatch 0x70 fun q => { q with active := true, rate := 1000, burst := 4096, items := [{ Packet.reset with length := 20 }] } }
theorem test_w_bulk : deviceFills (accrue streaming) = true ∧ hostPick (accrue streaming) = some 0x70
    ∧ streaming.bulk.fillUsed + headBytes (accrue streaming) 0x70 ≤ halfBytes
    ∧ halfClosed (accrue { streaming with bulk := { streaming.bulk with fillUsed := 16384 } }) = true
    ∧ hostOwns streaming streaming.bulk.fillHalf = false ∧ streaming.bulk.mapped ≠ none ∧ streaming.bulk.hostToDev = false
    ∧ hostOwns { base with bulk := { base.bulk with mapped := some .bootImage, hostToDev := true } } false = false
    ∧ (let s : State := { base with bulk := { base.bulk with mapped := some .bootImage, hostToDev := true, hostOwned := 1, fillHalf := false } }
       hostOwns s s.bulk.fillHalf = true ∧ hostOwns s (!s.bulk.fillHalf) = false ∧ s.bulk.fillUsed = 0)
    ∧ hostActive (halfOut (some true)) = true ∧ (landed (halfOut (some true))).bulk.finalHalf = some ((1 : Fin 2) == 1)
    ∧ (landed (halfOut (some true))).bulk.mapped ≠ some .exportStream := by decide
/-- The host has filled half 0 of an image. -/
def imageHalf : State :=
  { busyWith (.bootWrite 272 []) base with bulk := { base.bulk with mapped := some .bootImage, hostToDev := true, hostOwned := 3, fillHalf := false } }
theorem test_w_bulk_image : (landed imageHalf).bulk.hostOwned.getLsbD 0 = true ∧ (landed imageHalf).bulk.fillHalf = ((0 : Fin 2) == 1)
    ∧ (landed imageHalf).bulk.fillUsed = 0 ∧ bootWriter (landed imageHalf) = some 0
    ∧ bootWriteOf (landed imageHalf) 0 = some (272, []) := by decide

/-- A control frame waits at a local in RUN, and one has gone unacknowledged for 4 superframes. -/
def ctrl : Packet := { Packet.reset with ftype := 1, length := 64 }
def linkDev : State :=
  { localDev with
    now := 24576 * 4
    dispatch := modQueue base.dispatch 0x20 fun q => { q with active := true, items := [ctrl] }
    link := { localDev.link with winLeft := Vector.replicate 3 64, unacked := [⟨1, 0, ctrl⟩] } }
/-- What a window finds when it is granted. -/
def offered (s : State) : State := accrue (feedWaiting (feedImage s))
theorem test_w_link : linkDev.link.state = .run ∧ (offered linkDev).link.fillLast = none
    ∧ pickQueue (offered linkDev).dispatch.lastLink (windowCandidates (offered linkDev) .control) = some 0x20
    ∧ (queueOf (offered linkDev).dispatch 0x20).items = ctrl :: [] ∧ ctrl.length ≤ (offered linkDev).link.winLeft[windowIndex .control]
    ∧ base.link.state ≠ .run ∧ linkDev.link.unacked.find? (resendDue linkDev) = some ⟨1, 0, ctrl⟩
    ∧ base.link.unacked.find? (resendDue base) = none ∧ linkUp linkDev = true ∧ linkUp base = false
    ∧ queueOf linkDev.dispatch 0x20 ≠ DQueue.reset := by decide
/-- The window is too small for what waits. -/
theorem test_w_link_full :
    ({ offered linkDev with link := { (offered linkDev).link with fillLast := some [(32, 100)] } } : State).link.fillLast = some [(32, 100)]
    ∧ ∀ id ∈ windowCandidates (offered linkDev) .control, 63 < headLength (offered linkDev) id := by decide
/-- A local that has received a superframe whose control window begins with a frame. -/
def hearing (bytes : List Byte) : State :=
  { linkDev with
    link := { linkDev.link with downCtl := 256, downStream := 0, downBulk := 0 }
    phy := { linkDev.phy with rxWords := [some (bytes ++ zeros (239 - bytes.length))] } }
/-- A frame of 24 bytes with a sequence number, its CRC-32 computed here. -/
def frameOf (seq : Nat) : List Byte :=
  let b := [0xA7, 1, 24, 0, 0, 0] ++ u16 seq ++ zeros 12
  b ++ u32 (crc32 b).toNat
theorem test_w_link_frame : nextFrame (hearing (frameOf 9)) 4 0 = some (⟨frameOf 9, false⟩, 24) ∧ frameStands ⟨frameOf 9, false⟩ = true
    ∧ getU 1 1 (frameOf 9) = 1 ∧ BitVec.ofNat 16 (getU 2 6 (frameOf 9)) ≠ linkDev.link.ctlSeqRx + 1
    ∧ BitVec.ofNat 16 (getU 2 6 (frameOf 1)) = linkDev.link.ctlSeqRx + 1 ∧ frameStands ⟨frameOf 1, false⟩ = true
    ∧ nextFrame (hearing []) 4 0 = none
    ∧ nextFrame (hearing [7]) 4 0 = some (⟨7 :: zeros 238, true⟩, 256) ∧ frameStands ⟨7 :: zeros 238, true⟩ = false := by
  decide +kernel
/-- Full tables, tone 0 low for 100 superframes. -/
def swapDev : State :=
  { linkDev with
    link := { linkDev.link with downCtl := 256, upCtl := 64, unacked := [] }
    dispatch := base.dispatch
    phy := { base.phy with
      lowRuns := 100 :: List.replicate 101 0, bTx := List.replicate 102 8, bRx := List.replicate 102 8, snr := List.replicate 102 300 } }
theorem test_w_bitswap : swapDev.link.swapRx = none ∧ swapDev.phy.lowRuns.any (100 ≤ ·) = true
    ∧ layoutFits swapDev swapDev.phy.bTx (proposal swapDev.phy) = true
    ∧ roomFor swapDev 0x20 (framesOf (frameMax swapDev 0x20) 7 0x0500 59
        (swapRequest ⟨proposal swapDev.phy, superframe swapDev + 16, false⟩)) = true
    ∧ base.phy.lowRuns.any (100 ≤ ·) = false ∧ (4 : Nat) ≤ superframe swapDev
    ∧ ({ swapDev with link := { swapDev.link with swapTx := some ⟨[], 4, false⟩ } } : State).link.swapTx = some ⟨[], 4, false⟩
    ∧ swapDev.link.swapTx.all (superframe swapDev < ·.atSf) = true := by
  decide +kernel
/-- The synthesiser in a state since the start, at tick 24,576. -/
def synthAt (st : SynthState) : State := { base with now := 24576, phy := { base.phy with synth := st } }
theorem test_w_synth : usPassed (synthAt .cal) (synthAt .cal).phy.synthSince 200 = true
    ∧ usPassed (synthAt .settle) (synthAt .settle).phy.synthSince 40 = true ∧ (synthAt .locked).phy.synth = .locked
    ∧ ({ synthAt .settle with phy := { (synthAt .settle).phy with txHeld := some 0 } } : State).phy.txHeld = some 0
    ∧ 0 + 24576 ≤ (synthAt .settle).now ∧ base.phy.synth ≠ .cal ∧ base.phy.synth ≠ .settle ∧ base.phy.synth ≠ .locked
    ∧ base.phy.txHeld = none := by decide
/-- A local or a remote in a state of training, its synthesiser LOCKED. -/
def trainDev (role : BitVec 2) (st : LinkState) (f : Phy → Phy) : State :=
  { synthAt .locked with
    host := { base.host with role := role }, link := { base.link with state := st }, phy := f { base.phy with synth := .locked } }
theorem test_w_bursts : (trainDev 3 .beacon id).link.state = .beacon ∧ remoteEnd (trainDev 3 .beacon id) = false
    ∧ atSuperframe (trainDev 3 .beacon id) = true ∧ beaconOrigin (trainDev 3 .beacon id) ≤ superframe (trainDev 3 .beacon id)
    ∧ (superframe { trainDev 3 .beacon id with now := 24576 * 10 } - beaconOrigin (trainDev 3 .beacon id)) % PhyCfg.reset.beaconPeriod = 0
    ∧ (trainDev 3 .beacon fun p => { p with beaconsSent := 7, powerNow := 15 }).phy.cfg.powerIndex < 15
    ∧ (trainDev 2 .beacon fun p => { p with answerDue := some (0, 5, 0) }).phy.answerDue = some (0, 5, 0)
    ∧ remoteEnd (trainDev 2 .beacon id) = true ∧ burstState (trainDev 3 .beacon id) = true
    ∧ transmittingNow (trainDev 3 .beacon id) = false ∧ (trainDev 3 .beacon id).phy.commitEnd ≤ 24576
    ∧ (trainDev 3 .beacon id).phy.reception = none
    ∧ (trainDev 3 .beacon fun p => { p with reception := some 3 }).phy.reception = some 3
    ∧ (0 : Int) + 60 ≤ 60 ∧ ¬ (0 : Int) + 60 ≤ 59 := by decide +kernel
/-- A device that has heard a preamble at the level 0. -/
def heard (role : BitVec 2) (st : LinkState) : State := trainDev role st fun p => { p with reception := some 0 }
/-- A burst as received: its header on its tones, its round trip and its payload's bits, 204 to a symbol. -/
def burstIn (header : List Byte) (rtt : Nat) (bits : List Bool) : BurstRx :=
  ⟨[], (List.range 2).map fun h => toneValues (headerPoints header h),
    (List.range (bits.length / 204)).map fun k => toneValues (qpskPoints ((bits.drop (204 * k)).take 204)), 550000 + rtt, 0⟩
/-- The header of a remote's burst of a kind with 10 payload symbols, serial number 5. -/
def farHeader (kind : Nat) : List Byte := burstHeader kind true 0 0 5 0 10 none 0
theorem test_w_round_trip : (burstIn (farHeader 2) 800 []).roundTripNs = 800 ∧ (burstIn (farHeader 2) 801 []).roundTripNs = 801 := by decide
theorem test_w_burst_headers : (burstIn (farHeader 2) 800 []).header = farHeader 2 ∧ headerCrcOk (farHeader 2) = true
    ∧ getU 1 1 (farHeader 2) = 1 ∧ getU 1 0 (farHeader 2) = 2 ∧ remoteEnd (heard 3 .beacon) = false
    ∧ (getU 1 1 (burstHeader 1 false 0 0 5 0 0 none 0) == 1) = remoteEnd (heard 3 .beacon)
    ∧ headerCrcOk (burstHeader 1 false 0 0 5 0 0 none 0) = true
    ∧ headerCrcOk (burstIn (zeros 24) 801 []).header = false ∧ (heard 3 .beacon).phy.reception = some 0
    ∧ burstState (heard 3 .beacon) = true ∧ (heard 3 .beacon).phy.commitEnd ≤ (heard 3 .beacon).now
    ∧ base.phy.reception = none ∧ burstState base = false := by decide +kernel
/-- The 10 payload symbols of a verdict that passes and asks for half duplex, coded and interleaved (calculated apart). -/
def verdictLine : List Byte :=
  [3, 1, 63, 0, 15, 252, 3, 224, 248, 255, 255, 206, 0, 12, 28, 3, 31, 56, 193, 240, 65, 255, 240, 252, 3, 222, 248, 240, 3, 205, 224, 244, 227, 252, 209, 56]
    ++ [205, 236, 66, 224, 200, 61, 243, 159, 7, 0, 255, 206, 62, 12, 19, 255, 28, 216, 57, 15, 190, 49, 240, 240, 31, 221, 231, 200, 194, 61, 161, 11, 19, 0, 210, 230]
    ++ [53, 28, 65, 45, 40, 201, 16, 99, 214, 56, 50, 34, 124, 236, 219, 194, 239, 71, 62, 15, 65, 255, 206, 252, 12, 34, 251, 16, 251, 50, 31, 58, 227, 240, 205, 59]
    ++ [210, 212, 131, 16, 137, 194, 3, 99, 4, 222, 7, 62, 61, 193, 243, 11, 255, 36, 232, 55, 115, 221, 178, 16, 215, 224, 20, 87, 197, 61, 94, 197, 45, 12, 193, 25]
    ++ [41, 196, 120, 34, 150, 248, 224, 147, 201, 229, 213, 234, 190, 209, 122, 201, 252, 71, 236, 233, 116, 227, 143, 209, 36, 235, 235, 115, 45, 10, 45, 24, 159, 28, 22, 249]
    ++ [61, 147, 189, 31, 200, 61, 205, 159, 8, 252, 252, 46, 198, 243, 236, 49, 28, 212, 37, 12, 161, 9, 49, 0, 94, 34, 23, 52, 193, 227, 89, 251, 16, 205, 50, 18]
    ++ [214, 224, 144, 21, 229, 37, 82, 131, 30, 5, 193, 189, 123, 236, 36, 12, 209, 75, 45, 240, 93, 39, 247, 68, 254, 33, 137, 208, 255, 190, 198, 42, 249, 203, 126, 93]
    ++ [174, 87, 200]
theorem test_w_verdict_header : headerCrcOk (farHeader 3) = true ∧ getU 1 0 (farHeader 3) = 3 ∧ getU 2 14 (farHeader 3) = 10
    ∧ (burstIn (farHeader 3) 0 []).header = farHeader 3 ∧ (getU 1 1 (farHeader 3) == 1) = !remoteEnd (heard 3 .handshake)
    ∧ burstState (heard 3 .handshake) = true ∧ (heard 3 .handshake).link.state = .handshake
    ∧ (heard 3 .handshake).link.pair.outbox = [] := by decide +kernel
theorem test_w_verdict_bits : (burstIn (farHeader 3) 0 (bitsOfBytes verdictLine)).bits = bitsOfBytes verdictLine := by decide +kernel
set_option maxRecDepth 1000000 in
theorem test_w_verdict : (burstBytes 10 (bitsOfBytes verdictLine)).map readMessage = some (.verdict true true) := by
  decide +kernel
/-- A DER element, and a name of one common name. -/
def der (tag : Byte) (c : List Byte) : List Byte :=
  if c.length < 128 then tag :: u8 c.length ++ c else [tag, 0x82] ++ beNat 2 c.length ++ c
def nameOf (cn : List Byte) : List Byte := der 0x30 (der 0x31 (der 0x30 (der 6 [0x55, 4, 3] ++ der 0x0C cn)))
/-- The algorithm of the CA's signature. -/
def algo : List Byte := der 0x30 (der 6 [0x2A, 0x86, 0x48, 0xCE, 0x3D, 4, 3, 2])
/-- What the CA signs for serial number 5 and the base point as key (R141). -/
def tbs : List Byte :=
  der 0x30 (der 0xA0 (der 2 [2]) ++ der 2 [5] ++ algo ++ nameOf caName
    ++ der 0x30 (der 0x17 (ascii "250101000000Z") ++ der 0x18 (ascii "99991231235959Z"))
    ++ nameOf (ascii "FSM4848 " ++ hexSerial 5)
    ++ der 0x30 (der 0x30 (der 6 [0x2A, 0x86, 0x48, 0xCE, 0x3D, 2, 1] ++ der 6 [0x2A, 0x86, 0x48, 0xCE, 0x3D, 3, 1, 7])
      ++ der 3 ([0, 4] ++ beNat 32 curveG.1 ++ beNat 32 curveG.2))
    ++ der 0xA3 (der 0x30 (der 0x30 (der 6 [0x55, 0x1D, 0x0F] ++ der 1 [0xFF] ++ der 4 (der 3 [7, 0x80])))))
/-- The certificate, signed with the private key 1 of the test ROM's CA (the signature calculated apart). -/
def caSig : List Byte :=
  [142, 83, 59, 111, 160, 191, 123, 70, 37, 187, 48, 102, 124, 1, 251, 96, 126, 249, 248, 184, 168, 15, 239, 91, 48, 6, 40, 112, 49, 135, 178, 163, 100, 126, 245, 141]
    ++ [135, 238, 119, 228, 18, 138, 243, 190, 178, 195, 6, 171, 80, 243, 23, 222, 40, 132, 87, 36, 53, 223, 144, 221, 74, 237, 194, 107]
def certOf5 : List Byte :=
  der 0x30 (tbs ++ algo ++ der 3 (0 :: der 0x30 (der 2 (0 :: caSig.take 32) ++ der 2 (0 :: caSig.drop 32))))
theorem test_w_certificate : ((readCert certOf5).map fun c => (certVerifies testRom c, c.serial, c.key))
    = some (true, getU 8 4 (farHeader 3), curveG) := by decide +kernel
theorem test_w_certificate_rules : ((readCert certOf5).map fun c => certMeets c 5 curveG) = some true
    ∧ readMessage (u8 1 ++ u8 0 ++ u16 3 ++ zeros 32 ++ [7, 8, 9]) = .certificate false (zeros 32) [7, 8, 9]
    ∧ readCert [7, 8, 9] = none ∧ (heard 3 .handshake).link.cfg.pinned.toNat = 0
    ∧ readMessage (u8 2 ++ zeros 64) = .signature (zeros 64) ∧ readMessage [3, 0, 0] = .verdict false false := by
  decide +kernel
/-- A local in HANDSHAKE that has taken the certificate of the device with the serial number 5. -/
def pairDev : State :=
  let s := heard 3 .handshake
  { s with link := { s.link with
      remoteSerial := 5
      pair := { s.link.pair with
        ownNonce := List.replicate 32 1, farNonce := List.replicate 32 2, farKey := curveG, certOk := true, sigOk := true } } }
/-- The far device's signature over the transcript of that pairing (calculated apart). -/
def pairSig : List Byte :=
  [234, 104, 215, 182, 254, 223, 11, 113, 135, 137, 56, 213, 29, 113, 248, 114, 158, 10, 203, 140, 44, 109, 248, 179, 215, 158, 138, 75, 144, 148, 158, 224, 135, 0, 217, 141]
    ++ [248, 143, 249, 46, 129, 178, 156, 181, 109, 85, 17, 128, 21, 100, 92, 177, 72, 62, 88, 141, 72, 216, 180, 191, 199, 197, 131, 136]
theorem test_w_signature : pairDev.link.pair.certOk = true ∧ pairDev.link.pair.sigOk = true
    ∧ ecdsaVerify pairDev.link.pair.farKey (sha256 (pairTranscript pairDev)) pairSig = true := by decide +kernel
theorem test_w_signature_bad : ecdsaVerify pairDev.link.pair.farKey (sha256 (pairTranscript pairDev)) (zeros 64) = false := by
  decide +kernel
theorem test_w_training : (trainDev 3 .measure id).link.sfCount ≠ superframe (trainDev 3 .measure id)
    ∧ ({ trainDev 3 .measure id with link := { base.link with state := .measure, sfCount := 1, since := 24576 } } : State).now ≤ 24576
    ∧ atSuperframe (trainDev 3 .measure id) = true
    ∧ ({ trainDev 3 .measure id with phy := { base.phy with synth := .settle } } : State).phy.synth ≠ .locked
    ∧ atSuperframe { trainDev 3 .measure id with now := 24577 } = false ∧ syncState (trainDev 3 .measure id) = true
    ∧ (trainDev 3 .measure id).link.syncLost = false ∧ syncState base = false
    ∧ echoPhaseOver (trainDev 3 .echoTrain fun p => { p with echo := .quiet, echoSfs := 4 }).phy = true
    ∧ echoPhaseOver (trainDev 3 .echoTrain fun p => { p with echo := .localPhase, echoOk := 4 }).phy = true
    ∧ echoPhaseOver (trainDev 3 .echoTrain fun p => { p with echo := .remotePhase, echoOk := 4 }).phy = true
    ∧ echoPhaseOver (trainDev 3 .echoTrain id).phy = false
    ∧ (trainDev 3 .echoTrain id).phy.echoLimited ≤ 10 ∧ (0 : Nat) ≤ 10
    ∧ ({ trainDev 3 .halfDuplex id with link := { base.link with state := .halfDuplex, hdLocal := 8, hdRemote := 8 } } : State).link.hdLocal
      = 8
    ∧ base.link.hdLocal < 8 ∧ 64 ≤ (trainDev 3 .measure fun p => { p with measured := 64 }).phy.measured
    ∧ (trainDev 3 .measure id).phy.measured < 64
    ∧ trainingLimit .load = some 20 ∧ base.link.since + ticksOfMs 20 ≤ 491520 ∧ base.now < base.link.since + ticksOfMs 20 := by decide
theorem test_w_sync_loss : 32 ≤ ({ trainDev 3 .measure id with link := { base.link with state := .measure, syncFails := 32 } } : State).link.syncFails
    ∧ (trainDev 3 .measure id).link.syncFails < 32 := by decide
theorem test_w_run_start :
    (let s := trainDev 3 .load fun p => { p with nextTx := List.replicate 102 8, nextRx := List.replicate 102 8 }
     let s : State := { s with link := { s.link with downCtl := 256, upCtl := 64, runAt := some 1 } }
     layoutFits s s.phy.nextTx s.phy.nextRx = true ∧ remoteEnd s = false ∧ s.link.runAt = some 1 ∧ 1 ≤ superframe s)
    ∧ (let s := trainDev 2 .load fun p => { p with nextTx := List.replicate 102 8, nextRx := List.replicate 102 8 }
       let s : State := { s with link := { s.link with downCtl := 256, upCtl := 64 } }
       layoutFits s s.phy.nextTx s.phy.nextRx = true ∧ remoteEnd s = true ∧ atSuperframe s = true)
    ∧ (let s := trainDev 3 .load fun p => { p with nextTx := List.replicate 102 0, nextRx := List.replicate 102 0 }
       let s : State := { s with link := { s.link with downCtl := 6144 } }
       layoutFits s s.phy.nextTx s.phy.nextRx = false) := by decide +kernel
/-- A local in RUN that has lost sync. -/
def outDev2 : State := { localDev with link := { localDev.link with outageDue := some 8 } }
theorem test_w_outage : outDev2.link.outageDue = some 8 ∧ isLocal outDev2 = true ∧ linkUp outDev2 = true
    ∧ (∀ ch : Fin 4, waitsForRemote outDev2 ch = false) ∧ base.link.outageDue = none ∧ localDev.link.resync = false
    ∧ ({ localDev with link := { localDev.link with resync := true } } : State).link.resync = true
    ∧ isLocal remoteDev = false ∧ linkUp remoteDev = true
    ∧ ({ remoteDev with link := { remoteDev.link with rdsHeld := some (true, 1) } } : State).link.rdsHeld = some (true, 1) := by decide
/-- A bundle of stroke 0 with slot 2 LIVE. -/
def bundle : List Byte := u64 0 ++ [1, 0, 74, 0] ++ u64 0 ++ [2, 2] ++ zeros 64
/-- A local at stroke 3 that holds that bundle, in or out of a rebuild, the whole database of stroke 0 received. -/
def mirrorDev (rebuilding : Bool) : State :=
  { localDev with
    latch := { base.latch with stroke := 3 }
    link := { localDev.link with bundles := [bundle], resync := rebuilding, resyncIn := [zeros 8] } }
theorem test_w_mirror : isLocal (mirrorDev false) = true ∧ linkUp (mirrorDev false) = true ∧ (mirrorDev false).link.resync = false
    ∧ (mirrorDev false).link.bundles = [bundle] ∧ (bundleOf bundle).stroke + 4 ≤ (mirrorDev false).latch.stroke + 1
    ∧ (bundleOf bundle).slots.map (fun e => (e.1.val, getU 1 1 e.2)) = [(2, 2)] ∧ (mirrorDev false).slots[2].state ≠ .linkLost
    ∧ (∀ m ∈ localDev.link.bundles, localDev.latch.stroke + 1 < (bundleOf m).stroke + 4)
    ∧ resyncReady ((mirrorDev true).latch.stroke + 1) (mirrorDev true) = true
    ∧ resyncReady ((mirrorDev false).latch.stroke + 1) (mirrorDev false) = false
    ∧ (mirrorDev true).db.steppedAt ≠ some (strokeOf (toBoundary (mirrorDev true)).now) := by decide +kernel
/-- A part of a transaction with one command, with `dry_run` or not. -/
def part (dry : Nat) : List Byte :=
  let r := cfgRequest (.slotRelease 3)
  u16 0x0111 ++ u16 0 ++ u16 (8 + r.length) ++ u16 dry ++ u32 5 ++ u32 0 ++ u64 200 ++ r
def partDev (dry : Nat) : State := { remoteDev with link := { remoteDev.link with partsIn := [part dry] } }
theorem test_w_part : isRemote (partDev 0) = true ∧ linkUp (partDev 0) = true ∧ (partDev 0).link.partsIn = part 0 :: []
    ∧ judgePart (part 0) (partDev 0) = none ∧ getU 2 6 (part 0) % 2 = 0 ∧ getU 2 6 (part 1) % 2 = 1
    ∧ partCfgs (part 0) (partDev 0) = [some (.slotRelease 3)]
    ∧ roomFor (partDev 0) 0x20 (partReply (part 0) none (partDev 0)) = true ∧ ((part 0).take 24).length ≤ 24 := by decide +kernel
theorem test_w_link_image : (atStage 0x10 .linkBoot).boot.phase = .linkBoot ∧ linkUp remoteDev = true
    ∧ ({ remoteDev with link := { remoteDev.link with imageIn := some image } } : State).link.imageIn = some image
    ∧ remoteDev.link.imageIn = none := ⟨rfl, rfl, rfl, rfl⟩
theorem test_w_forwarded : serves (asked 0x0A05 [1] localDev) 0 0x0A05 .read ∧ body (asked 0x0A05 [1] localDev) 0 = [1]
    ∧ linkUp (asked 0x0A05 [1] localDev) = true
    ∧ linkUp (asked 0x0A05 [1] { localDev with link := { localDev.link with state := .beacon } }) = false
    ∧ roomFor (asked 0x0A05 [1] localDev) 0x20 (controlFrames (asked 0x0A05 [1] localDev) (requestBytes (reqOf (asked 0x0A05 [1] localDev) 0)))
      = true
    ∧ splitOp (busyWith (.splitCommit 5 1 [.slotRelease 3]) localDev) 0 = some (5, 1, [.slotRelease 3])
    ∧ 1 * 24576 ≤ 18432 + 6144 ∧ localDev.now + 6144 < 1 * 24576 := by
  unfold serves; decide +kernel
/-! ### Hypotheses met: aux bus, GPIO, trace and the stroke boundary -/

/-- The aux controller enabled, with a transfer in a phase. -/
def auxDev (x : Option AuxXfer) : State :=
  { base with aux := { base.aux with regs := { AuxRegs.reset with ctrl := 0x00003201 }, xfer := x } }
/-- A read of two bytes from address 0x50. -/
def auxReq : List Byte := [0, 0x50, 1, 0, 1, 0, 2, 0]
/-- A transfer of that read in a phase. -/
def xferIn (p : AuxPhase) : AuxXfer := { AuxXfer.reset with addr := 0x50, segs := [(true, 2)], phase := p, attemptsLeft := 3 }
theorem test_w_aux_xfer : serves (asked 0x0B02 auxReq (auxDev none)) 0 0x0B02 .long ∧ wet (asked 0x0B02 auxReq (auxDev none)) 0
    ∧ parseAuxXfer (body (asked 0x0B02 auxReq (auxDev none)) 0) = some (false, 0x50, [(true, 2)], [])
    ∧ (asked 0x0B02 auxReq (auxDev (some (xferIn .transferring)))).aux.xfer ≠ none
    ∧ auxEnable base.aux.regs = false ∧ auxEnable (auxDev none).aux.regs = true ∧ auxBusReady (asked 0x0B02 auxReq (auxDev none)) = true
    ∧ auxBusReady { auxDev none with aux := { (auxDev none).aux with busBusy := true } } = false ∧ (auxDev none).aux.clearFailing = false := by
  unfold serves wet; decide
theorem test_w_aux_events : (auxDev (some (xferIn .waitBus))).aux.xfer = some (xferIn .waitBus) ∧ (xferIn .waitBus).phase = .waitBus
    ∧ auxBusReady (auxDev (some (xferIn .waitBus))) = true ∧ abortLanded (auxDev none) (xferIn .waitBus).ch = false
    ∧ abortLanded { auxDev none with abortPending := 1 } (xferIn .waitBus).ch = true ∧ (xferIn .waitBus).started = false
    ∧ (xferIn .arbLost).phase = .arbLost ∧ (xferIn .waitBus).waitFrom + 24576000 < 24576001
    ∧ (auxBytes (xferIn .transferring).segs).getD 0 .read ≠ .read ∧ (0 : Nat) < (auxBytes (xferIn .transferring).segs).length
    ∧ 0 < (xferIn .transferring).attemptsLeft ∧ (auxDev none).aux.clearRunning = false ∧ (auxDev none).aux.clearFailing = false
    ∧ (auxDev none).aux.pending = none ∧ auxEnable ((auxDev none).aux.pending.getD (auxDev none).aux.regs) = true
    ∧ parseAuxXfer [1, 0x50, 1, 0, 1, 0, 2, 0] = some (true, 0x50, [(true, 2)], [])
    ∧ ({ xferIn .transferring with attemptsLeft := 0 } : AuxXfer).attemptsLeft = 0 := by decide
theorem test_w_aux_timers : auxSclLimit (auxDev none).aux.regs ≠ 0 ∧ (auxDev none).aux.afterTimeout = false
    ∧ auxSclLimit { AuxRegs.reset with timeout := 0x61A80000 } = 0 ∧ auxSdaLimit (auxDev none).aux.regs ≠ 0
    ∧ ({ auxDev none with aux := { (auxDev none).aux with afterTimeout := true } } : State).aux.afterTimeout = true
    ∧ ({ auxDev none with aux := { (auxDev none).aux with clearRunning := true } } : State).aux.clearRunning = true
    ∧ auxEnable { AuxRegs.reset with ctrl := 0 } = false ∧ base.aux.pending = none
    ∧ ({ auxDev none with aux := { (auxDev none).aux with pending := some AuxRegs.reset } } : State).aux.pending = some AuxRegs.reset
    ∧ auxOnBus (auxDev (some { xferIn .transferring with started := true })) = true ∧ auxSdaLimit { AuxRegs.reset with timeout := 0 } = 0 := by
  decide
/-- GPIO 0 as an event input that has seen its pin high since tick 0. -/
def gpioDev (edge : Nat) : State :=
  { atTick with gpio := vmod base.gpio 0 fun g =>
      { g with function := 5, pin := true, candidate := some (true, 0), cfg := { g.cfg with edge := edge, debounceUs := 1000 } } }
theorem test_w_gpio : base.gpio[0].pin = false ∧ gpioFunction base 0 ≠ 5 ∧ gpioFunction (gpioDev 0) 0 = 5
    ∧ (gpioDev 0).gpio[0].candidate = some (true, 0) ∧ usPassed (gpioDev 0) 0 (gpioDev 0).gpio[0].cfg.debounceUs = true
    ∧ usPassed (gpioDev 0) (gpioDev 0).now (gpioDev 0).gpio[0].cfg.debounceUs = false
    ∧ usPassed (gpioDev 0) (gpioDev 0).now 0 = true ∧ (gpioDev 1).gpio[0].cfg.edge = 1
    ∧ (vmod base.gpio 0 fun g => { g with function := 5 })[0].candidate = none := by decide
/-- The trace port on, after `n` words were dropped. -/
def traceDev (n : Nat) (q : List (List Word)) : State :=
  { base with trace := { base.trace with cfg := { TraceCfg.reset with enable := true }, dropped := n, queue := q } }
/-- An FW packet of one word as it enters TRCQ. -/
def packet : List Word := [traceHeader 4 1 0, 0]
theorem test_w_trace : (traceDev 0 []).trace.cfg.enable = true ∧ fwStands [0] = true ∧ traceWanted TraceCfg.reset packet = true
    ∧ packet.length ≤ traceRoom (overflowRule (drainTo 0 (traceDev 0 []))).trace ∧ base.trace.cfg.enable = false
    ∧ (traceDev 0 []).trace.happened = [] ∧ fwStands [] = false ∧ (traceDev 0 []).host.evtHead - (traceDev 0 []).host.evtTail ≠ 64
    ∧ (traceDev 0 []).slots[0].visit = false ∧ (traceDev 0 []).slots[0].state ≠ .acquiring
    ∧ traceWanted TraceCfg.reset [traceHeader 2 2 0, 0x00020001, 0] = true
    ∧ traceWanted TraceCfg.reset [traceHeader 3 1 0, traceWord 0 0 0 1] = true ∧ (drainTrace (traceDev 3 [])).trace.dropped ≠ 0 ∧ 6 ≤ traceRoom (drainTrace (traceDev 3 [])).trace
    ∧ ({ traceDev 0 [] with trace := { (traceDev 0 []).trace with restartAt := some 0 } } : State).trace.restartAt = some 0
    ∧ base.trace.restartAt = none := by decide
theorem test_w_trace_full : traceRoom (overflowRule (drainTo 0 (traceDev 0 [List.replicate 512 0]))).trace < packet.length
    ∧ traceRoom (drainTrace (traceDev 3 [List.replicate 512 0])).trace < 2 := by decide +kernel
theorem test_w_boundary : State.reset.pd1 = false ∧ base.pd1 = true ∧ base.resetAt = none ∧ base.accepted = [] ∧ base.link.parts = []
    ∧ base.link.outageDue = none ∧ base.link.returning = [] ∧ bootEnding base = none ∧ base.evq = [] ∧ base.trace.cfg.enable = false
    ∧ base.trace.happened = [] := by decide
theorem test_w_applied : isLocal base = false ∧ base.census.visits = [] ∧ base.slots[0].state = .free ∧ base.slots[0].visit = false
    ∧ isRemote base = false ∧ base.aux.xfer = none ∧ base.aux.busBusy = false
    ∧ (applyTxn [.dispatchSet false ⟨0x70, 0x73, 5, 6, 7⟩] base).dispatch.queues.any (fun e => 0x70 ≤ e.1 && e.1 ≤ 0x73) = true := by
  decide +kernel

end Sys2Proof.Tests
end

section
/-! What the host's write of each register does when it lands, what a read of each register returns, and what the
machine holds right after reset (R14, R15, R64, R73, R83, R101, R108). -/

namespace Sys2Proof.Registers

open Sys2Proof Sys2Proof.Machine

/-! ### Write commands of the table land after the words that wait (R82) -/

theorem landRow_of_hostActive (f : State → State) {s : State} (h : hostActive s = true) :
    landRow f s = .next (f (landAll (finishHold s))) := by
  simp [landRow, h]

theorem exec_irqStatusClear {s : State} (h : hostActive s = true) (w : Word) :
    exec (.irqStatusClear w) s = .next (writeIrqStatus w (landAll (finishHold s))) :=
  landRow_of_hostActive _ h

theorem exec_i2cTimeoutWrite {s : State} (h : hostActive s = true) (w : Word) :
    exec (.i2cTimingWrite true w) s = .next (writeI2cTimeout w (landAll (finishHold s))) :=
  landRow_of_hostActive _ h

theorem exec_i2cTimingWrite {s : State} (h : hostActive s = true) (w : Word) :
    exec (.i2cTimingWrite false w) s = .next (writeI2cTiming w (landAll (finishHold s))) :=
  landRow_of_hostActive _ h

theorem exec_hostRegisterWrite {s : State} (h : hostActive s = true) (off : Half) (w : Word) :
    exec (.hostRegisterWrite off w) s = .next
      (if off.toNat % 4 = 0 then landWrite off.toNat w (landAll (finishHold s))
        else setAddrError (landAll (finishHold s))) := by
  show execHostRegisterWrite off w s = _
  rw [execHostRegisterWrite, landRow_of_hostActive _ h]

/-- A register write at an aligned offset lands as a whole word. -/
theorem exec_hostRegisterWrite_aligned {s : State} (h : hostActive s = true) (w : Word) {off : Half}
    (ha : off.toNat % 4 = 0) :
    exec (.hostRegisterWrite off w) s = .next (landWrite off.toNat w (landAll (finishHold s))) := by
  rw [exec_hostRegisterWrite h, if_pos ha]

/-- A register write at an unaligned offset lands nothing (R64). -/
theorem exec_hostRegisterWrite_unaligned {s : State} (h : hostActive s = true) (w : Word) {off : Half}
    (ha : off.toNat % 4 ≠ 0) :
    exec (.hostRegisterWrite off w) s = .next (setAddrError (landAll (finishHold s))) := by
  rw [exec_hostRegisterWrite h, if_neg ha]

/-! ### What a write does when it lands -/

/-- A set bit of the word written clears the interrupt of its place, and no other (W1C, R83). -/
theorem getLsbD_irqStatus_writeIrqStatus (w : Word) (s : State) {k : Nat} (hk : k < 10) :
    (writeIrqStatus w s).host.irqStatus.getLsbD k = (s.host.irqStatus.getLsbD k && !w.getLsbD k) := by
  simp [writeIrqStatus, hk]

/-- An `sda_setup` of at least 2 is kept with the fields beside it, until the next STOP (R73). -/
theorem writeI2cTiming_of_two_le (w : Word) (s : State) (h : 2 ≤ w.toNat / 65536 % 256) :
    writeI2cTiming w s = { s with host := { s.host with
      i2cTimingNext := some (BitVec.ofNat 32
        (w.toNat / 65536 % 256 * 65536 + w.toNat / 256 % 256 * 256 + w.toNat % 16)) } } :=
  if_pos h

theorem landWrite_irqEnable (w : Word) (s : State) :
    landWrite 0x000C w s = { s with host := { s.host with irqEnable := w.truncate 10 } } := rfl

theorem landWrite_readOnly {off : Nat} (h : off = 0x0000 ∨ off = 0x0014 ∨ off = 0x0020) (w : Word) (s : State) :
    landWrite off w s = s :=
  if_pos h

/-- No register lies between `I2C_STATUS` and the mailboxes: a write there is rejected (R68). -/
theorem landWrite_reserved {off : Nat} (hlo : 0x004C ≤ off) (hhi : off < 0x1000) (w : Word) (s : State) :
    landWrite off w s = setWriteRejected s := by
  have hreg : ∀ r < 0x004C, off ≠ r := fun r hr e => by omega
  have hbox : ¬ (0x1000 ≤ off ∧ off < 0x2000) := by omega
  have hwin : ¬ (0x8000 ≤ off ∧ off < 0x10000) := by omega
  simp [landWrite, hreg, hbox, hwin]

/-! ### What PD1 holds right after reset reads 0 (R15) -/

theorem leNat_eq_zero {bs : List Byte} (h : ∀ b ∈ bs, b = 0) : leNat bs = 0 := by
  induction bs with
  | nil => rfl
  | cons b bs ih =>
    obtain ⟨hb, hbs⟩ := List.forall_mem_cons.mp h
    simp [leNat, hb, ih hbs]

theorem bytesWord_eq_zero {bs : List Byte} (h : ∀ b ∈ bs, b = 0) : bytesWord bs = 0 := by
  simp [bytesWord, leNat_eq_zero h]

theorem zeros_append (m n : Nat) : zeros m ++ zeros n = zeros (m + n) := List.replicate_append_replicate

theorem flatMap_u32_replicate_zero (n : Nat) :
    ((Vector.replicate n (0 : BitVec 32)).toList.flatMap fun b => u32 b.toNat) = zeros (n * 4) := by
  have h32 : u32 (0 : BitVec 32).toNat = List.replicate 4 0 := rfl
  rw [Vector.toList_replicate, List.flatMap_replicate, h32]
  exact List.flatten_replicate_replicate

/-- Nothing has been counted at reset: the whole counter region is 0 (R546). -/
theorem counterBytes_reset : counterBytes CounterLatch.reset = zeros 384 := by
  have h32 : u32 (0 : BitVec 32).toNat = zeros 4 := rfl
  have h64 : u64 (0 : BitVec 64).toNat = zeros 8 := rfl
  have hstroke : u64 0 = zeros 8 := rfl
  dsimp only [counterBytes, CounterLatch.reset]
  simp only [h32, h64, hstroke, flatMap_u32_replicate_zero, zeros_append]

theorem memBytes_nil_eq_zero {a k : Nat} {b : Byte} (h : b ∈ memBytes [] a k) : b = 0 := by
  obtain ⟨i, -, rfl⟩ := List.mem_map.mp h
  exact Laws.memRead_nil (a + i)

/-- Above the hardware registers stand the mailboxes, the ring, the counters and the bulk window, all empty at reset. -/
theorem readWord_reset_of_ge {off : Nat} (h : 0x1000 ≤ off) : readWord State.reset off = 0 := by
  have hreg : ∀ r < 0x1000, off ≠ r := fun r hr e => by omega
  have hmem : bytesWord (memBytes State.reset.mem off 4) = 0 := bytesWord_eq_zero fun _ hb => memBytes_nil_eq_zero hb
  have hcnt : bytesWord (((counterBytes (frameCounters State.reset)).drop (off - 0x4000)).take 4) = 0 :=
    bytesWord_eq_zero fun b hb =>
      have hin : b ∈ zeros 384 := counterBytes_reset ▸ List.mem_of_mem_drop (List.mem_of_mem_take hb)
      List.eq_of_mem_replicate hin
  simp [readWord, hreg, hmem, hcnt]

/-! ### The obligations -/

/-- Settles O29: each write is its row landed after the words that wait, each read a branch of the window's map. -/
theorem hostRegisters : Obligations.HostRegisters := by
  unfold Obligations.HostRegisters
  refine ⟨fun w s h => ⟨⟨_, exec_irqStatusClear h w, fun _ => getLsbD_irqStatus_writeIrqStatus w _⟩,
      exec_i2cTimeoutWrite h w, fun hsetup => ?_, ?_, fun off ho => ?_,
      fun _ hun => exec_hostRegisterWrite_unaligned h w hun, fun off hal ⟨hlo, hhi⟩ => ?_⟩,
    fun s => ⟨rfl, rfl, rfl, rfl, rfl, rfl, rfl, rfl, fun _ => readWord_reset_of_ge⟩⟩
  · rw [exec_i2cTimingWrite h, writeI2cTiming_of_two_le w _ hsetup]
  · exact exec_hostRegisterWrite_aligned h w (by decide)
  · have hoff : off.toNat = 0x0000 ∨ off.toNat = 0x0014 ∨ off.toNat = 0x0020 := by
      rcases ho with rfl | rfl | rfl <;> decide
    rw [exec_hostRegisterWrite_aligned h w (by omega), landWrite_readOnly hoff]
  · rw [exec_hostRegisterWrite_aligned h w hal, landWrite_reserved hlo hhi]

/-- Settles O3: each is a field of the reset state, or a register word computed from its fields. -/
theorem resetValues : Obligations.ResetValues := by
  have hslots : ∀ i : Fin 48, State.reset.slots[i].state = .free := by simp [State.reset, Slot.reset]
  have houts : ∀ o : Fin 8, State.reset.outs[o].state = .stopped := by simp [State.reset, Output.reset]
  exact ⟨rfl, rfl, rfl, rfl, rfl, rfl, rfl, rfl, rfl, by decide, by decide, hslots, houts, rfl, rfl, rfl, rfl, rfl⟩

end Sys2Proof.Registers
end

section
/-! A function that keeps the element it is given changes no vector. -/

namespace Sys2Proof.Laws

open Sys2Proof.Machine

theorem vmod_eq_self {α : Type} {n : Nat} {v : Vector α n} {k : Fin n} {f : α → α} (h : f v[k] = v[k]) :
    vmod v k f = v := by
  rw [vmod, h]
  exact Vector.set_getElem_self k.isLt

end Sys2Proof.Laws
end

section
/-! What the rows of a slot's receiver change, and how a combining window of a diversity slot ends (R172, R209, R220,
R224, R227, R236). -/

namespace Sys2Proof.Receiver

open Sys2Proof Sys2Proof.Machine Sys2Proof.Safety

/-! ### A row that replaces one slot by a function of it -/

variable {s : State} {i : Fin 48}

theorem modSlot_self (f : Slot → Slot) : (modSlot s i f).slots[i] = f s.slots[i] := Laws.vmod_self s.slots i f

theorem onlySlot_modSlot (f : Slot → Slot) : onlySlot s (modSlot s i f) i :=
  ⟨fun _ hk => Laws.vmod_other s.slots (Ne.symm hk) f, rfl⟩

/-- On a boundary a rule of one slot is its function, with the slot's record latched beside it (R49). -/
theorem slotRule_modSlot (f : State → Slot → Slot) (hb : atBoundary s = true) (hl : isLocal s = false) :
    slotRule (fun i s => modSlot s i (f s)) i s = relatchSlot i (modSlot s i (f s)) := by
  simp [slotRule, hb, hl]

/-- On a boundary such a rule gives its function of the slot, and nothing else changes. -/
theorem slotRule_modSlot_spec (f : State → Slot → Slot) (hb : atBoundary s = true) (hl : isLocal s = false) :
    ∃ t, Host.Outcome.next (slotRule (fun i s => modSlot s i (f s)) i s) = (.next t : Out) ∧ onlySlot s t i ∧
      t.slots[i] = f s s.slots[i] :=
  ⟨_, congrArg _ (slotRule_modSlot f hb hl), ⟨(onlySlot_modSlot (f s)).1, rfl⟩, modSlot_self (f s)⟩

/-! ### The rules of a receiver, when they are due -/

variable {x : Slot} {now : Nat}

theorem exec_settleEnd_of_due (hon : s.slots[i].settling = true) (hend : s.slots[i].settleEnd ≤ s.now) :
    exec (.settleEnd i) s = .next (modSlot s i fun x => { x with settling := false, holdEnd := x.settleEnd }) := by
  have hdue : settleDue s s.slots[i] = true := by rw [settleDue, hon, decide_eq_true hend]; rfl
  exact congrArg Host.Outcome.next (if_pos hdue)

theorem widenBw_of_due (h : widenDue x = true) :
    widenBw now x = if bwHeld now x then x else { setBw now (x.bwIndex - 1) x with bwHold := 0 } := by
  cases hh : bwHeld now x <;> simp [widenBw, h, hh]

theorem stereoOnRule_of_pilot (hfm : isFm x.tune.type = true) (hst : x.state ≠ .free) (hmono : x.stereo = false)
    (hp : x.pilotHigh = 20) : stereoOnRule x = { x with stereo := true } := by
  have hdue : stereoOnDue x = true := by simp [stereoOnDue, *]
  exact if_pos hdue

theorem stereoOffRule_of_lost (hfm : isFm x.tune.type = true) (hst : x.state ≠ .free) (hon : x.stereo = true)
    (hp : x.pilotLow = 5 ∨ x.reading.pilotLocked = false) :
    stereoOffRule x = { x with stereo := false, pilotHigh := 0 } := by
  have hdue : stereoOffDue x = true := by simp [stereoOffDue, *]
  exact if_pos hdue

theorem amSyncRule_of_lock (ht : x.tune.type = .am) (hst : x.state ≠ .free) (hauto : x.am.detector = 0)
    (henv : x.syncDet = false) (hl : x.lockRun = 20) :
    amSyncRule now x = { x with syncDet := true, detectAt := now } := by
  have hdue : amSyncDue x = true := by simp [amSyncDue, *]
  exact if_pos hdue

/-! ### The end of a combining window (R172, R209) -/

theorem windowRule_of_over (h : windowOver x = true) : windowRule x = { x with div := takeWindow x.div } := if_pos h

theorem windowRule_of_open (h : windowOver x = false) : windowRule x = x := by simp [windowRule, h]

theorem exec_diversityWindow_of_open (h : windowOver s.slots[i] = false) : exec (.diversityWindow i) s = .next s := by
  show Host.Outcome.next { s with slots := vmod s.slots i windowRule } = .next s
  rw [Laws.vmod_eq_self (windowRule_of_open h)]

variable {d : Diversity}

/-- The branches of the window in progress, each estimated against the combined output. -/
def windowEstimates (d : Diversity) : BranchEstimate × BranchEstimate :=
  (estimateBranch (d.windowAt.map (·.1)) (d.windowAt.map (·.2.2)),
    estimateBranch (d.windowAt.map (·.2.1)) (d.windowAt.map (·.2.2)))

theorem takeWindow_of_falling (h : d.falling = true) : takeWindow d = oneBranch d.keepB := if_pos h

/-- A window that is not the last goes on from the weights in force at its end. -/
theorem takeWindow_turns (h : d.falling = false) :
    (takeWindow d).windowAt = [] ∧ (takeWindow d).fromA = d.toA ∧ (takeWindow d).fromB = d.toB := by
  unfold takeWindow
  rw [if_neg (by simp [h])]
  split
  · exact ⟨rfl, rfl, rfl⟩
  · split
    · dsimp only
      split <;> exact ⟨rfl, rfl, rfl⟩
    · exact ⟨rfl, rfl, rfl⟩

theorem takeWindow_of_weights {w : Cplx × Cplx} (h : d.falling = false) (hdue : d.fallDue = none)
    (hset : windowSettled d = true) (hw : mrcWeights (windowEstimates d).1 (windowEstimates d).2 = some w) :
    takeWindow d = { d with windowAt := [], fromA := d.toA, fromB := d.toB, toA := w.1, toB := w.2, newUntil := none } := by
  unfold windowEstimates at hw
  simp [takeWindow, h, hdue, hset, hw]

/-- A window without new estimates leaves the weights that are aimed at. -/
theorem takeWindow_of_noWeights (h : d.falling = false)
    (hno : d.fallDue ≠ none ∨ windowSettled d = false ∨ mrcWeights (windowEstimates d).1 (windowEstimates d).2 = none) :
    (takeWindow d).toA = d.toA ∧ (takeWindow d).toB = d.toB := by
  unfold windowEstimates at hno
  unfold takeWindow
  rw [if_neg (by simp [h])]
  split
  · exact ⟨rfl, rfl⟩
  next hdue =>
    have hnone : d.fallDue = none := by simpa using hdue
    split
    next hset =>
      have hw := (hno.resolve_left (absurd hnone)).resolve_left (by simp [hset])
      simp [hw]
    · exact ⟨rfl, rfl⟩

/-! ### The weights of branches in OVERLOAD (R172) -/

theorem branchWeights_of_overloadA (ha : s.inputs[0].state = .overload) (hb : s.inputs[1].state ≠ .overload) :
    (branchWeights s x).1 = ⟨0, 0⟩ := by
  simp [branchWeights, ha, hb]

theorem branchWeights_of_overloadB (hb : s.inputs[1].state = .overload) (ha : s.inputs[0].state ≠ .overload) :
    (branchWeights s x).2 = ⟨0, 0⟩ := by
  simp [branchWeights, ha, hb]

theorem branchWeights_of_bothOverloaded (ha : s.inputs[0].state = .overload) (hb : s.inputs[1].state = .overload) :
    branchWeights s x = (⟨unitOne / 2, 0⟩, ⟨unitOne / 2, 0⟩) := by
  simp [branchWeights, ha, hb]

/-- Two branches of one weight that is not zero share evenly. -/
theorem shareOf_equal {w : Cplx} (h : 0 < cAbs w) : shareOf (w, w) = 50 := by
  simp only [shareOf]
  rw [if_neg (by omega)]
  exact Nat.div_eq_of_lt_le (by omega) (by omega)

/-! ### The obligation -/

/-- Settles O38: each receiver row is a rule of one slot that is due, and a window that is over ends by `takeWindow`. -/
theorem slotReceiver : Obligations.SlotReceiver := by
  unfold Obligations.SlotReceiver
  refine ⟨fun i s => ⟨fun hon hend => ?_, fun hb hl => ⟨fun hw => ?_, fun hfm hst hmono hp => ?_,
      fun hfm hst hon hp => ?_, fun ht hst hauto henv hrun => ?_⟩⟩,
    fun i s => ⟨exec_diversityWindow_of_open, fun hover => ?_⟩, fun s x => ⟨branchWeights_of_overloadA,
      branchWeights_of_overloadB, fun ha hb => ?_⟩⟩
  · exact ⟨_, exec_settleEnd_of_due hon hend, onlySlot_modSlot _, modSlot_self _⟩
  · rw [← widenBw_of_due hw]
    exact slotRule_modSlot_spec (fun s => widenBw s.now) hb hl
  · rw [← stereoOnRule_of_pilot hfm hst hmono hp]
    exact slotRule_modSlot_spec (fun _ => stereoOnRule) hb hl
  · rw [← stereoOffRule_of_lost hfm hst hon hp]
    exact slotRule_modSlot_spec (fun _ => stereoOffRule) hb hl
  · rw [← amSyncRule_of_lock ht hst hauto henv hrun]
    exact slotRule_modSlot_spec (fun s => amSyncRule s.now) hb hl
  · have hslot : (modSlot s i windowRule).slots[i] = { s.slots[i] with div := takeWindow s.slots[i].div } :=
      (modSlot_self windowRule).trans (windowRule_of_over hover)
    refine ⟨modSlot s i windowRule, rfl, onlySlot_modSlot windowRule, ?_⟩
    rw [hslot]
    refine ⟨rfl, takeWindow_of_falling, fun hf => ?_⟩
    obtain ⟨hat, hA, hB⟩ := takeWindow_turns hf
    refine ⟨hat, hA, hB, fun w hdue hset hw => ?_, takeWindow_of_noWeights hf⟩
    rw [takeWindow_of_weights hf hdue hset hw]
    exact ⟨rfl, rfl, rfl⟩
  · rw [branchWeights_of_bothOverloaded ha hb]
    exact ⟨rfl, shareOf_equal (by decide +kernel)⟩

end Sys2Proof.Receiver
end

section
/-! What a channeliser frame leaves of a slot: its state and tuning, and in a slot of one branch the oscillator of the path
that the frame ran through (R166, R169, R170). -/

namespace Sys2Proof.FrameSlots

open Sys2Proof Sys2Proof.Machine

/-! ### Demodulation leaves the tuner alone -/

/-- Two slots have one state, one tuning and the same synthesis paths. -/
def SameTuner (x y : Slot) : Prop := y.state = x.state ∧ y.tune = x.tune ∧ y.pathA = x.pathA ∧ y.pathB = x.pathB

theorem SameTuner.refl (x : Slot) : SameTuner x x := ⟨rfl, rfl, rfl, rfl⟩

theorem SameTuner.trans {x y z : Slot} (h : SameTuner x y) (h' : SameTuner y z) : SameTuner x z :=
  ⟨h'.1.trans h.1, h'.2.1.trans h.2.1, h'.2.2.1.trans h.2.2.1, h'.2.2.2.trans h.2.2.2⟩

theorem sameTuner_foldl {α : Type} {f : Slot → α → Slot} (h : ∀ x a, SameTuner x (f x a)) (l : List α) (x : Slot) :
    SameTuner x (l.foldl f x) := by
  induction l generalizing x with
  | nil => exact .refl x
  | cons a l ih => exact (h x a).trans (ih (f x a))

theorem sameTuner_of_underParams {α : Type} {f : Slot → Slot × α} {t : Nat} {x y : Slot} {a : α}
    (heq : underParams t f x = (y, a)) (h : ∀ x, SameTuner x (f x).1) : SameTuner x y := by
  obtain ⟨rfl, -⟩ := Prod.mk.inj heq
  exact h (withParams t x)

theorem sameTuner_stepDrives (x : Slot) : SameTuner x (stepDrives x) := ⟨rfl, rfl, rfl, rfl⟩

theorem sameTuner_shapeAudio (l r : Int) (x : Slot) : SameTuner x (shapeAudio l r x).1 := ⟨rfl, rfl, rfl, rfl⟩

theorem sameTuner_fmAudio (m d : Int) (x : Slot) : SameTuner x (fmAudio m d x).1 := by
  unfold fmAudio
  extract_lets
  exact (sameTuner_stepDrives x).trans (sameTuner_shapeAudio _ _ _)

theorem sameTuner_putAudio (ts : Nat) (l r : Int) (x : Slot) : SameTuner x (putAudio ts l r x) := ⟨rfl, rfl, rfl, rfl⟩

theorem sameTuner_fmSample (a b v : SlotSample) (x : Slot) : SameTuner x (fmSample a b v x) := by
  unfold fmSample
  extract_lets
  split
  · exact ⟨rfl, rfl, rfl, rfl⟩
  · split
    next heq => exact (sameTuner_of_underParams heq (sameTuner_fmAudio _ _)).trans (sameTuner_putAudio _ _ _ _)

theorem sameTuner_amFiltered (v : SlotSample) (x : Slot) : SameTuner x (amFiltered v x) := ⟨rfl, rfl, rfl, rfl⟩

theorem sameTuner_blankerStep (c : AmCfg) (v : SlotSample) (x : Slot) : SameTuner x (blankerStep c v x).1 := by
  unfold blankerStep
  extract_lets
  split <;> exact ⟨rfl, rfl, rfl, rfl⟩

theorem sameTuner_amSample (v : SlotSample) (x : Slot) : SameTuner x (amSample v x) :=
  (sameTuner_blankerStep _ v x).trans (sameTuner_foldl (fun x v => sameTuner_amFiltered v x) _ _)

theorem sameTuner_takeSample (e : SlotSample × SlotSample × SlotSample) (x : Slot) : SameTuner x (takeSample e x) := by
  obtain ⟨a, b, v⟩ := e
  unfold takeSample
  dsimp only
  split
  · exact .refl x
  · split
    · exact sameTuner_fmSample a b v _
    · exact sameTuner_fmSample a b v _
    · exact sameTuner_amSample v _
    · exact ⟨rfl, rfl, rfl, rfl⟩

/-- The demodulator takes the samples of a frame without touching the tuner. -/
theorem sameTuner_receiveFrame (s : State) (i : Fin 3) (line : List Int) (m t : Nat) (x : Slot) :
    SameTuner (slotFrame s i line m t x).1 (receiveFrame s i line m t x) :=
  sameTuner_foldl (fun x e => sameTuner_takeSample e x) _ _

/-! ### The combiner keeps state and tuning -/

variable (s : State) (i : Fin 3) (line : List Int) (m t : Nat) {x : Slot}

/-- Two slots have one state and one tuning. -/
def SameTuning (x y : Slot) : Prop := y.state = x.state ∧ y.tune = x.tune

theorem SameTuning.trans {x y z : Slot} (h : SameTuning x y) (h' : SameTuning y z) : SameTuning x z :=
  ⟨h'.1.trans h.1, h'.2.trans h.2⟩

theorem sameTuning_windowRule (x : Slot) : SameTuning x (windowRule x) := by
  unfold windowRule
  split <;> exact ⟨rfl, rfl⟩

theorem sameTuning_combinePair (a b : SlotSample) (x : Slot) : SameTuning x (combinePair s a b x).1 := by
  unfold combinePair
  dsimp only
  split
  · exact sameTuning_windowRule x
  · exact (sameTuning_windowRule x).trans ⟨rfl, rfl⟩

theorem sameTuning_combineWaiting (fuel : Nat) (x : Slot) (out : List (SlotSample × SlotSample × SlotSample)) :
    SameTuning x (combineWaiting s fuel x out).1 := by
  induction fuel generalizing x out with
  | zero => exact ⟨rfl, rfl⟩
  | succ fuel ih =>
    have hone (a b : SlotSample) (y : Slot) (out : List (SlotSample × SlotSample × SlotSample)) (hy : SameTuning x y) :
        SameTuning x (combineWaiting s fuel (combinePair s a b y).1 out).1 :=
      (hy.trans (sameTuning_combinePair s a b y)).trans (ih _ out)
    unfold combineWaiting
    split
    · dsimp only
      split
      · exact hone _ _ _ _ ⟨rfl, rfl⟩
      · split
        · exact hone _ _ _ _ ⟨rfl, rfl⟩
        · exact hone _ _ _ _ ⟨rfl, rfl⟩
    · exact ⟨rfl, rfl⟩

/-! ### A frame in the path of a slot -/

theorem slotFrame_of_not_reads (h : reads x i = false) : slotFrame s i line m t x = (x, []) := by
  simp [slotFrame, h]

/-- The path of a slot that an input's frames run through. -/
def pathOf (i : Fin 3) (x : Slot) : TunerPath := if onPathB i then x.pathB else x.pathA

/-- A slot of one branch takes the frame into its path alone. -/
theorem pathOf_slotFrame_of_oneBranch (hr : reads x i = true) (hc : combines x = false)
    (hb : onHf (tuneFor x t) = (i == 2)) :
    pathOf i (slotFrame s i line m t x).1 = (pathFrame (tuneFor x t) line m t (pathOf i x)).1 := by
  unfold slotFrame pathOf
  simp only [hr, hc, hb, bne_self_eq_false, Bool.not_true, Bool.or_self, Bool.not_false, Bool.false_eq_true, if_false, if_true]
  cases onPathB i <;> rfl

theorem sameTuning_slotFrame : SameTuning x (slotFrame s i line m t x).1 := by
  unfold slotFrame
  dsimp only
  split
  · exact ⟨rfl, rfl⟩
  · split
    · split <;> exact ⟨rfl, rfl⟩
    · split <;> split <;> exact .trans (y := _) ⟨rfl, rfl⟩ (sameTuning_combineWaiting s _ _ _)

theorem synthStep_nco (tune : SlotTune) (q : Nat) (y : Cplx) (p : TunerPath) :
    (synthStep tune q y p).1.nco = ncoStep tune p.nco := by
  unfold synthStep
  dsimp only
  split
  · rfl
  · split
    · rfl
    · split <;> rfl

/-- A frame is four synthesis samples of the oscillator (R169, R170). -/
theorem pathFrame_nco (tune : SlotTune) {p : TunerPath} (h : 25 * p.since ≤ t) :
    (pathFrame tune line m t p).1.nco = ncoStep tune (ncoStep tune (ncoStep tune (ncoStep tune p.nco))) := by
  unfold pathFrame
  rw [if_neg (by omega)]
  dsimp only
  rw [← List.foldl_hom (fun acc : TunerPath × List (Nat × Cplx) => acc.1.nco) (g₂ := fun n _ => ncoStep tune n)]
  · rfl
  · intro acc r
    split
    next hstep => rw [← synthStep_nco, hstep]
    next hstep => rw [← synthStep_nco, hstep]

end Sys2Proof.FrameSlots
end

section
/-! What the rows of an antenna input change: the end of a channeliser frame, the end of an epoch, and the ends of Bellows
states (R155 to R161, R166, R181, R191). -/

namespace Sys2Proof.FrontEnd

open Sys2Proof Sys2Proof.Machine Sys2Proof.Safety

/-! ### One input replaced by a function of it -/

section Inputs

variable (s : State) (i : Fin 3) (f : FeInput → FeInput)

theorem modInput_self : (modInput s i f).inputs[i] = f s.inputs[i] := Laws.vmod_self s.inputs i f

theorem modInput_other {k : Fin 3} (hk : k ≠ i) : (modInput s i f).inputs[k] = s.inputs[k] :=
  Laws.vmod_other s.inputs hk.symm f

theorem noteState_trace (t c o a b : Nat) :
    (noteState t c o a b s).trace = { s.trace with happened := (noteState t c o a b s).trace.happened } := by
  unfold noteState
  dsimp only
  split <;> rfl

/-- The packets of an input are all that its change adds to the trace. -/
theorem noteInput_trace (a b : FeInput) :
    (noteInput i a b s).trace = { s.trace with happened := (noteInput i a b s).trace.happened } := by
  unfold noteInput
  dsimp only
  split
  · exact noteState_trace s _ _ _ _ _
  · rw [Laws.noteTrace_trace, noteState_trace]

theorem onlyInput_modInput : onlyInput s (modInput s i f) i := by
  refine ⟨fun _ hk => modInput_other s i f hk, ?_⟩
  unfold modInput
  rw [noteInput_trace]

@[simp] theorem stepInput_inputs : (stepInput s i f).inputs = vmod s.inputs i f := rfl

theorem stepInput_self : (stepInput s i f).inputs[i] = f s.inputs[i] := Laws.vmod_self s.inputs i f

theorem stepInput_other {k : Fin 3} (hk : k ≠ i) : (stepInput s i f).inputs[k] = s.inputs[k] :=
  Laws.vmod_other s.inputs hk.symm f

/-- What `stepInput` leaves alone. -/
@[simp] theorem stepInput_frame : (stepInput s i f).now = s.now ∧ (stepInput s i f).convs = s.convs ∧
    (stepInput s i f).slots = s.slots ∧ (stepInput s i f).mem = s.mem ∧ (stepInput s i f).evq = s.evq := by
  simp [stepInput]

end Inputs

/-! ### Gain changes -/

variable {i : Fin 3} {x : FeInput} {t : Nat}

/-- A gain change is the GI, and its count when the GI moves (R163). -/
theorem setGi_eq (g : Nat) (x : FeInput) :
    setGi g x = { x with gi := g, gainSteps := if g = x.gi then x.gainSteps else x.gainSteps + 1 } := by
  unfold setGi
  split
  next h => rw [h]
  · rfl

theorem takeDueStep_of_none (hm : x.giMove = none) (ho : x.overDue = false) :
    takeDueStep i t x = { x with stepped := false, overDue := false } := by
  simp [takeDueStep, hm, ho]

/-- A step that is due and not discarded takes effect, clamped at `gi_low` (R160). -/
theorem takeDueStep_of_overDue (hm : x.giMove = none) (ho : x.overDue = true) (hd : stepsDiscarded i t x = false) :
    takeDueStep i t x = { setGi (min (x.gi + 2) (cfgFor x t).giLow) { x with stepped := false, overDue := false } with
      stepped := true, quietFrom := none } := by
  simp [takeDueStep, hm, ho, hd]

/-- A GI that a transaction set takes effect at the first frame at or after its stroke (R153). -/
theorem takeDueStep_of_giMove {g : Nat} (hm : x.giMove = some g) (hc : x.cfgAt * 25 ≤ t) :
    takeDueStep i t x = { setGi g { x with stepped := false, overDue := false } with giMove := none, quietFrom := none } := by
  simp [takeDueStep, hm, hc]

/-- A clip in TRACK above the lowest gain enters OVERLOAD with a step due (R160). -/
theorem clipFrame_of_track (hst : x.state = .track) (hg : x.gi < (cfgFor x x.frameTs).giLow) :
    clipFrame t x = { x with
      state := .overload, overDue := true, furtherDue := false, quietFrom := none, epochWhole := false, epochClip := true
      reportDue := true, clipFrames := x.clipFrames + 1, overloadEntries := x.overloadEntries + 1 } := by
  simp [clipFrame, hst, Nat.not_le.mpr hg, bump]

/-! ### The end of a frame at its input -/

/-- Two inputs have counted the same frames and samples of the epoch. -/
def SameCount (x y : FeInput) : Prop := y.frameNo = x.frameNo ∧ y.sumSq = x.sumSq

theorem sameCount_clipFrame (t : Nat) (x : FeInput) : SameCount x (clipFrame t x) := by
  unfold clipFrame
  dsimp only
  split <;> exact ⟨rfl, rfl⟩

theorem sameCount_takeDueStep (i : Fin 3) (t : Nat) (x : FeInput) : SameCount x (takeDueStep i t x) := by
  unfold takeDueStep
  simp only [setGi_eq]
  split
  · split
    · exact ⟨rfl, rfl⟩
    · split <;> exact ⟨rfl, rfl⟩
  · split <;> exact ⟨rfl, rfl⟩

/-- A frame is counted, and its samples enter the epoch's sum (R155, R166). -/
theorem frameInput_counts (i : Fin 3) (codes : List Int) (x : FeInput) :
    (frameInput i codes x).frameNo = x.frameNo + 1 ∧ (frameInput i codes x).frameTs = x.frameTs + frameUnits i ∧
      (frameInput i codes x).sumSq = x.sumSq + (codes.map fun c => c.natAbs * c.natAbs).sum := by
  have hclip : SameCount x (if clipMet (clippedIn codes) x then clipFrame (x.frameTs + frameUnits i) x else x) := by
    split
    · exact sameCount_clipFrame _ x
    · exact ⟨rfl, rfl⟩
  obtain ⟨hno, hsum⟩ := sameCount_takeDueStep i (x.frameTs + frameUnits i)
    { (if clipMet (clippedIn codes) x then clipFrame (x.frameTs + frameUnits i) x else x) with overDue := x.overDue }
  exact ⟨congrArg (· + 1) (hno.trans hclip.1), rfl, congrArg (· + _) (hsum.trans hclip.2)⟩

/-- Without a clip a frame takes the step that waits, and leaves none due. -/
theorem frameInput_of_noClip {codes : List Int} (h : clipMet (clippedIn codes) x = false) :
    frameInput i codes x = countLevels codes { takeDueStep i (x.frameTs + frameUnits i) x with
      overDue := false, frameNo := (takeDueStep i (x.frameTs + frameUnits i) x).frameNo + 1
      frameTs := x.frameTs + frameUnits i } := by
  simp [frameInput, h]

/-- With no clip, no step and no GI that waits, a frame leaves the Bellows as it was. -/
theorem frameInput_of_still {codes : List Int} (h : clipMet (clippedIn codes) x = false) (hm : x.giMove = none)
    (ho : x.overDue = false) : (frameInput i codes x).gi = x.gi ∧ (frameInput i codes x).state = x.state ∧
      (frameInput i codes x).clipFrames = x.clipFrames ∧ (frameInput i codes x).gainSteps = x.gainSteps := by
  rw [frameInput_of_noClip h, takeDueStep_of_none hm ho]
  exact ⟨rfl, rfl, rfl, rfl⟩

theorem frameInput_of_overDue {codes : List Int} (h : clipMet (clippedIn codes) x = false) (hm : x.giMove = none)
    (ho : x.overDue = true) (hd : stepsDiscarded i (x.frameTs + frameUnits i) x = false) :
    (frameInput i codes x).gi = min (x.gi + 2) (cfgFor x (x.frameTs + frameUnits i)).giLow ∧
      (frameInput i codes x).overDue = false := by
  rw [frameInput_of_noClip h, takeDueStep_of_overDue hm ho hd, setGi_eq]
  exact ⟨rfl, rfl⟩

theorem frameInput_of_giMove {codes : List Int} {g : Nat} (h : clipMet (clippedIn codes) x = false)
    (hm : x.giMove = some g) (hc : x.cfgAt * 25 ≤ x.frameTs + frameUnits i) :
    (frameInput i codes x).gi = g ∧ (frameInput i codes x).giMove = none ∧
      (g ≠ x.gi → (frameInput i codes x).gainSteps = x.gainSteps + 1) := by
  rw [frameInput_of_noClip h, takeDueStep_of_giMove hm hc, setGi_eq]
  exact ⟨rfl, rfl, fun hne => if_neg hne⟩

/-- With a clip and no step waiting a frame is what the clip does; a step that it brings stays due. -/
theorem frameInput_of_clipMet {codes : List Int} {y : FeInput} (h : clipMet (clippedIn codes) x = true)
    (ho : x.overDue = false) (hy : clipFrame (x.frameTs + frameUnits i) x = y) (hm : y.giMove = none)
    (hf : y.furtherDue = false) : frameInput i codes x = countLevels codes { y with
      stepped := false, frameNo := y.frameNo + 1, frameTs := x.frameTs + frameUnits i } := by
  have hstep : takeDueStep i (x.frameTs + frameUnits i) { y with overDue := false } =
      { y with stepped := false, overDue := false } := takeDueStep_of_none hm rfl
  simp only [frameInput, h, if_true, ho, hy, hstep]
  simp [hf]

/-- The frame that brings OVERLOAD is taken at the old GI, and so is the next: its step waits (R160). -/
theorem frameInput_of_clip {codes : List Int} (h : clipMet (clippedIn codes) x = true) (hst : x.state = .track)
    (hm : x.giMove = none) (ho : x.overDue = false) (hg : x.gi < (cfgFor x x.frameTs).giLow) :
    (frameInput i codes x).state = .overload ∧ (frameInput i codes x).overDue = true ∧
      (frameInput i codes x).gi = x.gi ∧ (frameInput i codes x).clipFrames = x.clipFrames + 1 ∧
      (frameInput i codes x).overloadEntries = x.overloadEntries + 1 := by
  rw [frameInput_of_clipMet h ho (clipFrame_of_track hst hg) hm rfl]
  exact ⟨rfl, rfl, rfl, rfl, rfl⟩

/-! ### The end of a frame in the state (R155, R166, R178, R188) -/

section Frame

variable (i : Fin 3) (codes : List Int) (s : State)

/-- What a frame makes of its input: its samples pass the correction, and the Bellows tests it. -/
def frameOf : FeInput := frameInput i codes (takeSamples i s.convs[i] codes s.inputs[i])

/-- The correction takes the samples and leaves the Bellows alone (R178). -/
theorem frameOf_eq : ∃ tail line, frameOf i codes s = frameInput i codes { s.inputs[i] with tail := tail, line := line } :=
  ⟨_, _, rfl⟩

theorem frameEnds_self : (frameEnds i codes s).inputs[i] = frameOf i codes s := by
  unfold frameEnds
  dsimp only
  split <;> exact Laws.vmod_self s.inputs i _

/-- What the end of a frame leaves alone. -/
theorem frameEnds_frame : (∀ k : Fin 3, k ≠ i →
      (frameEnds i codes s).inputs[k] = s.inputs[k] ∧ (frameEnds i codes s).convs[k] = s.convs[k]) ∧
    (frameEnds i codes s).slots = s.slots ∧ (frameEnds i codes s).mem = s.mem ∧ (frameEnds i codes s).evq = s.evq := by
  have hin (k : Fin 3) (hk : k ≠ i) (f : FeInput → FeInput) : (vmod s.inputs i f)[k] = s.inputs[k] :=
    Laws.vmod_other s.inputs hk.symm f
  unfold frameEnds
  dsimp only
  split
  · exact ⟨fun k hk => ⟨hin k hk _, Laws.vmod_other s.convs hk.symm _⟩, rfl, rfl, rfl⟩
  · exact ⟨fun k hk => ⟨hin k hk _, rfl⟩, rfl, rfl, rfl⟩

/-- A frame steps the hardware counters of its input by its gain steps and its clip (R546). -/
theorem frameEnds_counters : (frameEnds i codes s).counters = { s.counters with
    gainSteps := vmod s.counters.gainSteps i fun c => c + ((frameOf i codes s).gainSteps - s.inputs[i].gainSteps)
    clipFrames := vmod s.counters.clipFrames i fun c => if clipMet (clippedIn codes) s.inputs[i] then bump c 1 else c } := by
  unfold frameEnds
  dsimp only
  split <;> rfl

/-- A frame that neither clips nor steps counts nothing. -/
theorem frameEnds_counters_of_still (hclip : clipMet (clippedIn codes) s.inputs[i] = false)
    (hgain : (frameOf i codes s).gainSteps = s.inputs[i].gainSteps) :
    (frameEnds i codes s).counters = s.counters := by
  have hkeep {n : Nat} (v : Vector (BitVec 32) n) (k : Fin n) : vmod v k (fun c => c) = v := Laws.vmod_eq_self rfl
  simp only [frameEnds_counters, hgain, hclip, BitVec.sub_self, BitVec.add_zero, Bool.false_eq_true, if_false, hkeep]

end Frame

/-! ### The end of a frame at the slots (R169, R170) -/

section FrameState

variable (i : Fin 3) (codes : List Int) (s : State)

/-- The state that a due frame leaves: its input, then the slots that read the bank. -/
def afterFrame : State :=
  let s1 := frameEnds i codes s
  { s1 with slots := s1.slots.map (receiveFrame s1 i s1.inputs[i].line s.inputs[i].frameNo s.inputs[i].frameTs) }

theorem exec_channeliserFrame_of_open {s : State} (h : frameOpen i s = true) :
    exec (.channeliserFrame i codes) s = .next (afterFrame i codes s) := if_pos h

theorem exec_channeliserFrame_of_closed {s : State} (h : frameOpen i s = false) :
    exec (.channeliserFrame i codes) s = .next s := if_neg (by simp [h])

/-- Each slot takes the frame. -/
theorem afterFrame_slot (k : Fin 48) : ∃ (e : State) (line : List Int),
    (afterFrame i codes s).slots[k] = receiveFrame e i line s.inputs[i].frameNo s.inputs[i].frameTs s.slots[k] := by
  obtain ⟨-, hslots, -⟩ := frameEnds_frame i codes s
  exact ⟨frameEnds i codes s, (frameEnds i codes s).inputs[i].line,
    (Vector.getElem_map _ k.isLt).trans (congrArg (fun v : Vector Slot 48 => receiveFrame _ i _ _ _ v[k]) hslots)⟩

theorem afterFrame_slot_sameTuning (k : Fin 48) :
    (afterFrame i codes s).slots[k].state = s.slots[k].state ∧ (afterFrame i codes s).slots[k].tune = s.slots[k].tune := by
  obtain ⟨e, line, hk⟩ := afterFrame_slot i codes s k
  rw [hk]
  obtain ⟨hst, htune⟩ := FrameSlots.sameTuning_slotFrame e i line s.inputs[i].frameNo s.inputs[i].frameTs (x := s.slots[k])
  obtain ⟨hst', htune', -⟩ :=
    FrameSlots.sameTuner_receiveFrame e i line s.inputs[i].frameNo s.inputs[i].frameTs s.slots[k]
  exact ⟨hst'.trans hst, htune'.trans htune⟩

theorem afterFrame_slot_of_not_reads {k : Fin 48} (h : reads s.slots[k] i = false) :
    (afterFrame i codes s).slots[k] = s.slots[k] := by
  obtain ⟨e, line, hk⟩ := afterFrame_slot i codes s k
  rw [hk, receiveFrame, FrameSlots.slotFrame_of_not_reads e i line _ _ h]
  rfl

/-- A slot of one branch that reads the bank moves its path's oscillator by the four synthesis samples of the frame. -/
theorem afterFrame_slot_nco {k : Fin 48} (hr : reads s.slots[k] i = true) (hc : combines s.slots[k] = false)
    (hb : onHf (tuneFor s.slots[k] s.inputs[i].frameTs) = (i == 2))
    (hs : 25 * (FrameSlots.pathOf i s.slots[k]).since ≤ s.inputs[i].frameTs) :
    let step := ncoStep (tuneFor s.slots[k] s.inputs[i].frameTs)
    (FrameSlots.pathOf i (afterFrame i codes s).slots[k]).nco
      = step (step (step (step (FrameSlots.pathOf i s.slots[k]).nco))) := by
  obtain ⟨e, line, hk⟩ := afterFrame_slot i codes s k
  obtain ⟨-, -, hA, hB⟩ :=
    FrameSlots.sameTuner_receiveFrame e i line s.inputs[i].frameNo s.inputs[i].frameTs s.slots[k]
  have hpath := FrameSlots.pathOf_slotFrame_of_oneBranch e i line s.inputs[i].frameNo _ hr hc hb
  dsimp only
  rw [hk, ← FrameSlots.pathFrame_nco line s.inputs[i].frameNo _ _ hs, ← hpath, FrameSlots.pathOf, FrameSlots.pathOf, hA, hB]

end FrameState

/-! ### The end of an epoch at its input (R155, R158, R159) -/

/-- The input with the levels of the epoch that ended, its counts begun anew. -/
def epochLevels (i : Fin 3) (x : FeInput) : FeInput :=
  { x with frameNo := 0, sumSq := 0, peakCode := 0, rms := some (epochRms i x), peak := some (epochPeak x), epochClip := false }

/-- The fall of the track rules is due: an RMS above `upper` with the GI below `gi_low`, and no other step there. -/
def fallDue (i : Fin 3) (x : FeInput) : Bool :=
  (cfgFor x x.frameTs).upper < epochRms i x && x.gi < (cfgFor x x.frameTs).giLow && !x.stepped
    && !stepsDiscarded i x.frameTs x

/-- The input after the fall, where one is due. -/
def epochFall (i : Fin 3) (x : FeInput) : FeInput :=
  if fallDue i x then
    { setGi (x.gi + 1) (epochLevels i x) with quietFrom := none, overDue := x.overDue && !x.furtherDue }
  else epochLevels i x

theorem epochInput_of_off (h : x.state = .off) :
    epochInput i x = { x with frameNo := 0, sumSq := 0, peakCode := 0 } := if_pos h

theorem epochInput_of_acquire (h : x.state = .acquire) : epochInput i x =
    if x.acqEpochs = 0 then { setGi (cfgFor x x.frameTs).giLow (epochLevels i x) with acqEpochs := 1 }
    else if x.acqEpochs = 1 then
      { setGi (acquireChoice i (cfgFor x x.frameTs) (epochRms i x) (epochPeak x)) (epochLevels i x) with acqEpochs := 2 }
    else { epochLevels i x with acqEpochs := 3 } := by
  cases x
  cases h
  simp only [epochInput, epochLevels, reduceCtorEq, if_false]

theorem epochInput_of_track (h : x.state = .track) : ∃ q, epochInput i x = { epochFall i x with quietFrom := q } := by
  cases x
  cases h
  simp only [epochInput, epochFall, fallDue, epochLevels, reduceCtorEq, if_false]
  exact ⟨_, rfl⟩

theorem epochInput_of_overload (h : x.state = .overload) : epochInput i x =
    if x.epochWhole && !x.epochClip then { epochFall i x with state := .recover, recoverFrom := x.frameTs, epochWhole := false }
    else { epochFall i x with epochWhole := true } := by
  cases x
  cases h
  simp only [epochInput, epochFall, fallDue, epochLevels, reduceCtorEq, if_false]
  rfl

theorem epochInput_of_recover (h : x.state = .recover) : epochInput i x = epochFall i x := by
  cases x
  cases h
  simp only [epochInput, epochFall, fallDue, epochLevels, reduceCtorEq, if_false]
  rfl

theorem epochInput_of_manual (h : x.state = .manual) : epochInput i x = epochLevels i x := by
  cases x
  cases h
  simp only [epochInput, epochLevels, reduceCtorEq, if_false]

/-- Two inputs stand at one point of an epoch with the same levels. -/
def SameLevels (x y : FeInput) : Prop :=
  y.frameNo = x.frameNo ∧ y.sumSq = x.sumSq ∧ y.peakCode = x.peakCode ∧ y.rms = x.rms ∧ y.peak = x.peak

/-- The progress of the Bellows through its states leaves the levels alone. -/
theorem SameLevels.progress {x y : FeInput} (h : SameLevels x y) (st : BellowsState) (quiet : Option Nat) (from_ : Nat)
    (whole : Bool) :
    SameLevels x { y with state := st, quietFrom := quiet, recoverFrom := from_, epochWhole := whole } := h

theorem sameLevels_epochFall (i : Fin 3) (x : FeInput) : SameLevels (epochLevels i x) (epochFall i x) := by
  unfold epochFall
  split
  · rw [setGi_eq]
    exact ⟨rfl, rfl, rfl, rfl, rfl⟩
  · exact ⟨rfl, rfl, rfl, rfl, rfl⟩

/-- In every state but OFF the Bellows holds the levels of the epoch. -/
theorem sameLevels_epochInput (h : x.state ≠ .off) : SameLevels (epochLevels i x) (epochInput i x) := by
  cases hst : x.state with
  | off => exact absurd hst h
  | acquire =>
    rw [epochInput_of_acquire hst]
    simp only [setGi_eq]
    split
    · exact ⟨rfl, rfl, rfl, rfl, rfl⟩
    · split <;> exact ⟨rfl, rfl, rfl, rfl, rfl⟩
  | track =>
    obtain ⟨q, hq⟩ := epochInput_of_track (i := i) hst
    rw [hq]
    exact (sameLevels_epochFall i x).progress _ _ _ _
  | overload =>
    rw [epochInput_of_overload hst]
    split <;> exact (sameLevels_epochFall i x).progress _ _ _ _
  | recover =>
    rw [epochInput_of_recover hst]
    exact sameLevels_epochFall i x
  | manual =>
    rw [epochInput_of_manual hst]
    exact ⟨rfl, rfl, rfl, rfl, rfl⟩

/-- The counts of an epoch begin anew in every state. -/
theorem epochInput_counts (i : Fin 3) (x : FeInput) :
    (epochInput i x).frameNo = 0 ∧ (epochInput i x).sumSq = 0 ∧ (epochInput i x).peakCode = 0 := by
  by_cases h : x.state = .off
  · rw [epochInput_of_off h]
    exact ⟨rfl, rfl, rfl⟩
  · obtain ⟨hno, hsum, hpk, -⟩ := sameLevels_epochInput (i := i) h
    exact ⟨hno, hsum, hpk⟩

/-- A fall in TRACK raises the GI by one and counts it. -/
theorem epochInput_of_fall (h : x.state = .track) (hf : fallDue i x = true) :
    (epochInput i x).gi = x.gi + 1 ∧ (epochInput i x).gainSteps = x.gainSteps + 1 := by
  obtain ⟨q, hq⟩ := epochInput_of_track (i := i) h
  have hne : x.gi + 1 ≠ (epochLevels i x).gi := Nat.succ_ne_self x.gi
  rw [hq, epochFall, if_pos hf, setGi_eq, if_neg hne]
  exact ⟨rfl, rfl⟩

theorem epochInput_gi_of_noFall (h : x.state = .track) (hf : fallDue i x = false) : (epochInput i x).gi = x.gi := by
  obtain ⟨q, hq⟩ := epochInput_of_track (i := i) h
  rw [hq, epochFall, if_neg (by simp [hf])]
  rfl

theorem epochInput_of_firstAcquire (h : x.state = .acquire) (hn : x.acqEpochs = 1) :
    (epochInput i x).gi = acquireChoice i (cfgFor x x.frameTs) (epochRms i x) (epochPeak x) ∧
      (epochInput i x).state = .acquire := by
  rw [epochInput_of_acquire h, if_neg (by omega), if_pos hn, setGi_eq]
  exact ⟨rfl, h⟩

/-- A whole epoch of OVERLOAD without a clip leads to RECOVER (R157). -/
theorem epochInput_of_quietOverload (h : x.state = .overload) (hw : x.epochWhole = true) (hc : x.epochClip = false) :
    (epochInput i x).state = .recover ∧ (epochInput i x).recoverFrom = x.frameTs := by
  rw [epochInput_of_overload h, if_pos (by simp [hw, hc])]
  exact ⟨rfl, rfl⟩

/-! ### The end of an epoch in the state (R155, R181, R195) -/

section Epoch

variable (i : Fin 3) (temperature : Int) (s : State)

/-- What an input takes at the end of an epoch: in start-up time alone passes (R181). -/
def epochStep (x : FeInput) : FeInput :=
  if s.convs[i].state = .startup then { x with frameTs := x.frameTs + epochUnits } else epochInput i x

/-- The end of an epoch at the Bellows. -/
def bellowsEpoch : State :=
  if s.convs[i].state = .startup then modInput s i fun x => { x with frameTs := x.frameTs + epochUnits }
  else stepInput s i (epochInput i)

/-- The end of an epoch at the Bellows and at Temper, which reads its temperature. -/
def temperEpoch : State :=
  { modConv (bellowsEpoch i s) i (epochConv temperature) with ops := s.ops.map (countTrace i) }

/-- The state after the end of an epoch in which no foreground request is served. -/
def afterEpoch : State := foregroundGain i (temperEpoch i temperature s)

theorem exec_epochBoundary_of_ended {s : State} (h : epochEnded i s = true) (hfg : s.convs[i].fgPending = none) :
    exec (.epochBoundary i temperature) s = .next (afterEpoch i temperature s) := by
  have hreq : ¬ (s.convs[i].state = .wait ∧
      requestIn s.convs[i].fgPending (afterEpoch i temperature s).inputs[i].frameTs = true) := by
    simp only [hfg, requestIn, Option.any_none, Bool.false_eq_true, and_false, not_false_eq_true]
  show execEpochBoundary i temperature s = _
  rw [execEpochBoundary, if_pos h]
  exact congrArg Host.Outcome.next (if_neg hreq)

theorem exec_epochBoundary_of_open {s : State} (h : epochEnded i s = false) :
    exec (.epochBoundary i temperature) s = .next s := if_neg (by simp [h])

theorem bellowsEpoch_inputs : (bellowsEpoch i s).inputs = vmod s.inputs i (epochStep i s) := by
  unfold bellowsEpoch
  split
  next h => simp only [Laws.modInput_inputs, vmod, epochStep, h, if_true]
  next h => simp only [stepInput_inputs, vmod, epochStep, h, if_false]

theorem bellowsEpoch_frame : (bellowsEpoch i s).convs = s.convs ∧ (bellowsEpoch i s).slots = s.slots ∧
    (bellowsEpoch i s).mem = s.mem := by
  unfold bellowsEpoch
  split <;> exact ⟨rfl, rfl, rfl⟩

theorem temperEpoch_convs : (temperEpoch i temperature s).convs = vmod s.convs i (epochConv temperature) := by
  obtain ⟨hconvs, -⟩ := bellowsEpoch_frame i s
  exact congrArg (vmod · i (epochConv temperature)) hconvs

theorem temperEpoch_self : (temperEpoch i temperature s).inputs[i] = epochStep i s s.inputs[i] :=
  (congrArg (fun v : Vector FeInput 3 => v[i]) (bellowsEpoch_inputs i s)).trans (Laws.vmod_self s.inputs i _)

theorem temperEpoch_other {k : Fin 3} (hk : k ≠ i) : (temperEpoch i temperature s).inputs[k] = s.inputs[k] :=
  (congrArg (fun v : Vector FeInput 3 => v[k]) (bellowsEpoch_inputs i s)).trans (Laws.vmod_other s.inputs hk.symm _)

/-- A foreground calibration may set the gain of its input, and does nothing else (R183, R195). -/
theorem foregroundGain_cases : foregroundGain i s = s ∨ ∃ g, foregroundGain i s = stepInput s i (setGi g) := by
  unfold foregroundGain
  split
  · exact .inr ⟨_, rfl⟩
  · exact .inl rfl

theorem foregroundGain_frame : (foregroundGain i s).convs = s.convs ∧ (foregroundGain i s).slots = s.slots ∧
    (foregroundGain i s).mem = s.mem ∧ ∀ k : Fin 3, k ≠ i → (foregroundGain i s).inputs[k] = s.inputs[k] := by
  obtain h | ⟨g, h⟩ := foregroundGain_cases i s <;> rw [h]
  · exact ⟨rfl, rfl, rfl, fun _ _ => rfl⟩
  · exact ⟨rfl, rfl, rfl, fun _ hk => stepInput_other s i _ hk⟩

theorem sameLevels_foregroundGain : SameLevels s.inputs[i] (foregroundGain i s).inputs[i] := by
  obtain h | ⟨g, h⟩ := foregroundGain_cases i s <;> rw [h]
  · exact ⟨rfl, rfl, rfl, rfl, rfl⟩
  · rw [stepInput_self, setGi_eq]
    exact ⟨rfl, rfl, rfl, rfl, rfl⟩

theorem foregroundGain_of_not_foreground {s : State} (h : s.convs[i].state ≠ .foreground) : foregroundGain i s = s := by
  unfold foregroundGain
  split
  next hfg _ => exact absurd hfg h
  · rfl

theorem foregroundGain_gi {s : State} {g : Nat} (h : s.convs[i].state = .foreground)
    (hg : foregroundGi i (2800 - s.convs[i].fgLeft) = some g) : (foregroundGain i s).inputs[i].gi = g := by
  have hstep : foregroundGain i s = stepInput s i (setGi g) := by rw [foregroundGain, h, hg]
  rw [hstep, stepInput_self, setGi_eq]

/-! ### The converter's count of epochs (R181, R187, R195) -/

variable (v : TemperConv)

theorem epochConv_reads : (epochConv temperature v).readings.head? = some temperature ∧
    (epochConv temperature v).state = v.state := by
  unfold epochConv
  dsimp only
  split <;> exact ⟨rfl, rfl⟩

variable {v}

theorem epochConv_of_cycle (h : v.state = .cycle) : (epochConv temperature v).phaseLeft = v.phaseLeft - 1 := by
  simp only [epochConv, h]

theorem epochConv_of_startup (h : v.state = .startup) : (epochConv temperature v).startupLeft = v.startupLeft - 1 := by
  simp only [epochConv, h]

theorem epochConv_of_foreground (h : v.state = .foreground) : (epochConv temperature v).fgLeft = v.fgLeft - 1 := by
  simp only [epochConv, h]

/-! ### The state that the end of an epoch leaves -/

theorem afterEpoch_convs : (afterEpoch i temperature s).convs = vmod s.convs i (epochConv temperature) := by
  obtain ⟨hconvs, -⟩ := foregroundGain_frame i (temperEpoch i temperature s)
  exact hconvs.trans (temperEpoch_convs i temperature s)

theorem afterEpoch_conv_self : (afterEpoch i temperature s).convs[i] = epochConv temperature s.convs[i] :=
  (congrArg (fun v : Vector TemperConv 3 => v[i]) (afterEpoch_convs i temperature s)).trans (Laws.vmod_self s.convs i _)

theorem afterEpoch_other {k : Fin 3} (hk : k ≠ i) : (afterEpoch i temperature s).inputs[k] = s.inputs[k] ∧
    (afterEpoch i temperature s).convs[k] = s.convs[k] := by
  obtain ⟨-, -, -, hin⟩ := foregroundGain_frame i (temperEpoch i temperature s)
  exact ⟨(hin k hk).trans (temperEpoch_other i temperature s hk),
    (congrArg (fun v : Vector TemperConv 3 => v[k]) (afterEpoch_convs i temperature s)).trans
      (Laws.vmod_other s.convs hk.symm _)⟩

theorem afterEpoch_slots_mem : (afterEpoch i temperature s).slots = s.slots ∧ (afterEpoch i temperature s).mem = s.mem := by
  obtain ⟨-, hslots, hmem, -⟩ := foregroundGain_frame i (temperEpoch i temperature s)
  obtain ⟨-, hslots', hmem'⟩ := bellowsEpoch_frame i s
  exact ⟨hslots.trans hslots', hmem.trans hmem'⟩

theorem temperEpoch_conv_self : (temperEpoch i temperature s).convs[i] = epochConv temperature s.convs[i] :=
  (congrArg (fun v : Vector TemperConv 3 => v[i]) (temperEpoch_convs i temperature s)).trans (Laws.vmod_self s.convs i _)

theorem temperEpoch_conv_state : (temperEpoch i temperature s).convs[i].state = s.convs[i].state := by
  rw [temperEpoch_conv_self]
  exact (epochConv_reads temperature s.convs[i]).2

/-- Outside a foreground calibration the input is as the Bellows left it. -/
theorem afterEpoch_self_of_not_foreground {s : State} (h : s.convs[i].state ≠ .foreground) :
    (afterEpoch i temperature s).inputs[i] = epochStep i s s.inputs[i] := by
  rw [afterEpoch, foregroundGain_of_not_foreground i (by rw [temperEpoch_conv_state]; exact h), temperEpoch_self]

theorem afterEpoch_frameTs_of_startup {s : State} (h : s.convs[i].state = .startup) :
    (afterEpoch i temperature s).inputs[i].frameTs = s.inputs[i].frameTs + 65536 := by
  rw [afterEpoch_self_of_not_foreground i temperature (by rw [h]; decide), epochStep, if_pos h]
  rfl

theorem afterEpoch_gi_of_foreground {s : State} {g : Nat} (h : s.convs[i].state = .foreground)
    (hg : foregroundGi i (2800 - (s.convs[i].fgLeft - 1)) = some g) : (afterEpoch i temperature s).inputs[i].gi = g := by
  refine foregroundGain_gi i ((temperEpoch_conv_state i temperature s).trans h) ?_
  rw [temperEpoch_conv_self, epochConv_of_foreground temperature h]
  exact hg

/-- Once start-up is over the counts of the epoch begin anew. -/
theorem afterEpoch_counts {s : State} (h : s.convs[i].state ≠ .startup) :
    (afterEpoch i temperature s).inputs[i].frameNo = 0 ∧ (afterEpoch i temperature s).inputs[i].sumSq = 0 ∧
      (afterEpoch i temperature s).inputs[i].peakCode = 0 := by
  obtain ⟨hno, hsum, hpk, -⟩ := sameLevels_foregroundGain i (temperEpoch i temperature s)
  rw [temperEpoch_self, epochStep, if_neg h] at hno hsum hpk
  obtain ⟨hno', hsum', hpk'⟩ := epochInput_counts i s.inputs[i]
  exact ⟨hno.trans hno', hsum.trans hsum', hpk.trans hpk'⟩

end Epoch

/-! ### The ends of Bellows states (R157, R159) -/

section States

variable {i : Fin 3} {s : State}

theorem exec_bellowsAcquireDone (h : acquireDone s.inputs[i] = true) : exec (.bellowsAcquireDone i) s =
    .next (modInput s i fun x => endHold (tickUp x.frameTs) (enterTrack (some x.frameTs) x)) := if_pos h

/-- A rise: the GI falls by one, and the hold interval starts anew (R159). -/
def riseStep (x : FeInput) : FeInput := { setGi (x.gi - 1) x with quietFrom := some x.frameTs }

theorem exec_bellowsRise (h : riseDue i s.inputs[i] = true) :
    exec (.bellowsRise i) s = .next (stepInput s i riseStep) := if_pos h

theorem recoverDue_iff {now : Nat} {x : FeInput} : recoverDue now x = true ↔
    x.state = .recover ∧ x.recoverFrom + 25 * (x.cfg.recoverMs * 24576) ≤ 25 * now := by
  rw [recoverDue, Bool.and_eq_true, beq_iff_eq, decide_eq_true_iff]
  rfl

theorem exec_bellowsRecoverExpiry (h : recoverDue s.now s.inputs[i] = true) :
    exec (.bellowsRecoverExpiry i) s = .next (modInput s i (enterTrack none)) := if_pos h

theorem exec_bellowsRecoverExpiry_of_not (h : ¬ recoverDue s.now s.inputs[i] = true) :
    exec (.bellowsRecoverExpiry i) s = .next s := if_neg h

/-- A rise that is due finds the Bellows in TRACK with a GI above `gi_high`, so that the GI moves. -/
theorem riseStep_of_due {x : FeInput} (h : riseDue i x = true) :
    (riseStep x).gi = x.gi - 1 ∧ (riseStep x).state = .track ∧ (riseStep x).quietFrom = some x.frameTs ∧
      (riseStep x).gainSteps = x.gainSteps + 1 := by
  simp only [riseDue, Bool.and_eq_true, beq_iff_eq, decide_eq_true_eq] at h
  obtain ⟨⟨⟨⟨hst, -⟩, hgi⟩, -⟩, -⟩ := h
  rw [riseStep, setGi_eq, if_neg (by omega)]
  exact ⟨rfl, hst, rfl, rfl⟩

end States

/-! ### The Bellows at the end of a frame and of an epoch -/

section Parts

variable (i : Fin 3) (s : State)

/-- What a due frame does to the Bellows of its input. -/
theorem afterFrame_bellows (codes : List Int) : let x := s.inputs[i]; let t := afterFrame i codes s
    (clipMet (clippedIn codes) x = false → x.giMove = none →
      (x.overDue = false → t.inputs[i].gi = x.gi ∧ t.inputs[i].state = x.state ∧
        t.inputs[i].clipFrames = x.clipFrames ∧ t.counters = s.counters) ∧
      (x.overDue = true → stepsDiscarded i (x.frameTs + frameUnits i) x = false →
        t.inputs[i].gi = min (x.gi + 2) (cfgFor x (x.frameTs + frameUnits i)).giLow ∧ t.inputs[i].overDue = false)) ∧
    (∀ g, clipMet (clippedIn codes) x = false → x.giMove = some g → x.cfgAt * 25 ≤ x.frameTs + frameUnits i →
      t.inputs[i].gi = g ∧ t.inputs[i].giMove = none ∧ (g ≠ x.gi → t.inputs[i].gainSteps = x.gainSteps + 1)) ∧
    (clipMet (clippedIn codes) x = true → x.state = .track → x.giMove = none → x.overDue = false →
      x.gi < (cfgFor x x.frameTs).giLow → t.inputs[i].state = .overload ∧ t.inputs[i].overDue = true ∧
        t.inputs[i].gi = x.gi ∧ t.inputs[i].clipFrames = x.clipFrames + 1 ∧
        t.inputs[i].overloadEntries = x.overloadEntries + 1) := by
  obtain ⟨tail, line, hframe⟩ := frameOf_eq i codes s
  have hself : (afterFrame i codes s).inputs[i] = frameInput i codes { s.inputs[i] with tail := tail, line := line } :=
    (frameEnds_self i codes s).trans hframe
  dsimp only
  rw [hself]
  refine ⟨fun hclip hm => ⟨fun ho => ?_, fun ho hd => ?_⟩, fun g hclip hm hc => ?_, fun hclip hst hm ho hg => ?_⟩
  · obtain ⟨hgi, hst, hcf, hgs⟩ := frameInput_of_still (i := i) (x := { s.inputs[i] with tail := tail, line := line })
      hclip hm ho
    exact ⟨hgi, hst, hcf, frameEnds_counters_of_still i codes s hclip (hframe ▸ hgs)⟩
  · exact frameInput_of_overDue hclip hm ho hd
  · exact frameInput_of_giMove hclip hm hc
  · exact frameInput_of_clip hclip hst hm ho hg

/-- What the end of an epoch does to the Bellows of its input, in start-up and calibration apart. -/
theorem epochInput_bellows (x : FeInput) (hon : x.state ≠ .off) :
    (epochInput i x).rms = some (epochRms i x) ∧ (epochInput i x).peak = some (epochPeak x) ∧
    (x.state = .track → (cfgFor x x.frameTs).upper < epochRms i x → x.gi < (cfgFor x x.frameTs).giLow → x.stepped = false →
      stepsDiscarded i x.frameTs x = false →
        (epochInput i x).gi = x.gi + 1 ∧ (epochInput i x).gainSteps = x.gainSteps + 1) ∧
    (x.state = .track → epochRms i x ≤ (cfgFor x x.frameTs).upper → (epochInput i x).gi = x.gi) ∧
    (x.state = .acquire → x.acqEpochs = 1 →
      (epochInput i x).gi = acquireChoice i (cfgFor x x.frameTs) (epochRms i x) (epochPeak x) ∧
        (epochInput i x).state = .acquire) ∧
    (x.state = .overload → x.epochWhole = true → x.epochClip = false →
      (epochInput i x).state = .recover ∧ (epochInput i x).recoverFrom = x.frameTs) := by
  obtain ⟨-, -, -, hrms, hpeak⟩ := sameLevels_epochInput (i := i) hon
  refine ⟨hrms, hpeak, fun ht hup hgi hs hd => epochInput_of_fall ht ?_, fun ht hup => epochInput_gi_of_noFall ht ?_,
    epochInput_of_firstAcquire, epochInput_of_quietOverload⟩
  · simp [fallDue, hup, hgi, hs, hd]
  · simp [fallDue, Int.not_lt.mpr hup]

end Parts

/-! ### The obligation -/

/-- Settles O34: a due frame leaves `afterFrame`, an epoch that has ended `afterEpoch`, and the ends of Bellows states are
functions of the input. -/
theorem frontEnd : Obligations.FrontEnd := by
  unfold Obligations.FrontEnd
  refine ⟨fun i codes s => ⟨exec_channeliserFrame_of_closed i codes, fun hopen => ?_⟩,
    fun i temperature s => ⟨exec_epochBoundary_of_open i temperature, fun hended hfg => ?_⟩,
    fun i s => ⟨fun hdone => ?_, fun hrise => ?_, fun hst hwait => ?_, fun hst hdue => ?_, fun hno => ?_, fun hno => ?_,
      fun hst => ?_⟩⟩
  · obtain ⟨hother, -, hmem, hevq⟩ := frameEnds_frame i codes s
    obtain ⟨tail, line, hframe⟩ := frameOf_eq i codes s
    obtain ⟨hno, hts, hsum⟩ := frameInput_counts i codes { s.inputs[i] with tail := tail, line := line }
    have hself := (frameEnds_self i codes s).trans hframe
    refine ⟨afterFrame i codes s, exec_channeliserFrame_of_open i codes hopen, hother, hmem, hevq,
      (congrArg FeInput.frameNo hself).trans hno, (congrArg FeInput.frameTs hself).trans hts,
      (congrArg FeInput.sumSq hself).trans hsum, afterFrame_slot_sameTuning i codes s,
      fun k => afterFrame_slot_of_not_reads i codes s, fun k hr hc hb hs => afterFrame_slot_nco i codes s hr hc hb hs,
      afterFrame_bellows i s codes⟩
  · obtain ⟨hslots, hmem⟩ := afterEpoch_slots_mem i temperature s
    refine ⟨afterEpoch i temperature s, exec_epochBoundary_of_ended i temperature hended hfg,
      fun k hk => afterEpoch_other i temperature s hk, hslots, hmem, ?_⟩
    rw [afterEpoch_conv_self]
    obtain ⟨hread, hstate⟩ := epochConv_reads temperature s.convs[i]
    refine ⟨hread, hstate, epochConv_of_cycle temperature,
      fun hst => ⟨epochConv_of_startup temperature hst, afterEpoch_frameTs_of_startup i temperature hst⟩,
      fun hst => ⟨epochConv_of_foreground temperature hst, fun g => afterEpoch_gi_of_foreground i temperature hst⟩,
      afterEpoch_counts i temperature, fun hst hfore hon => ?_⟩
    rw [afterEpoch_self_of_not_foreground i temperature hfore, epochStep, if_neg hst]
    exact epochInput_bellows i s.inputs[i] hon
  · exact ⟨_, exec_bellowsAcquireDone hdone, onlyInput_modInput s i _, by rw [modInput_self]; exact ⟨rfl, rfl, rfl⟩⟩
  · obtain ⟨hgi, hst, hquiet, hsteps⟩ := riseStep_of_due hrise
    obtain ⟨-, hconvs, hslots, hmem, -⟩ := stepInput_frame s i riseStep
    refine ⟨stepInput s i riseStep, exec_bellowsRise hrise, ?_⟩
    rw [stepInput_self]
    exact ⟨hgi, hst, hquiet, hsteps, fun k hk => stepInput_other s i riseStep hk, hconvs, hslots, hmem⟩
  · exact exec_bellowsRecoverExpiry_of_not fun hdue => absurd (recoverDue_iff.mp hdue).2 (by omega)
  · exact ⟨_, exec_bellowsRecoverExpiry (recoverDue_iff.mpr ⟨hst, hdue⟩), onlyInput_modInput s i _,
      by rw [modInput_self]; exact ⟨rfl, rfl⟩⟩
  · exact if_neg (by rw [hno]; exact Bool.false_ne_true)
  · exact if_neg (by rw [hno]; exact Bool.false_ne_true)
  · exact exec_bellowsRecoverExpiry_of_not fun hdue => hst (recoverDue_iff.mp hdue).1

end Sys2Proof.FrontEnd
end

section
/-! What Temper's shared operations do: one converter replaced by a function of it, the arrangement of its units, and the
report of a calibration (R179, R190, R202). -/

namespace Sys2Proof.Temper

open Sys2Proof Sys2Proof.Machine Sys2Proof.Safety

/-! ### One converter replaced by a function of it -/

section Converters

variable (s : State) (i : Fin 3) (f : TemperConv → TemperConv)

theorem modConv_self : (modConv s i f).convs[i] = f s.convs[i] := Laws.vmod_self s.convs i f

theorem modConv_other {k : Fin 3} (hk : k ≠ i) : (modConv s i f).convs[k] = s.convs[k] :=
  Laws.vmod_other s.convs hk.symm f

theorem onlyConv_modConv : onlyConv s (modConv s i f) i := by
  refine ⟨fun _ hk => modConv_other s i f hk, ?_⟩
  unfold modConv
  rw [FrontEnd.noteState_trace]

variable {f} in
/-- What a converter becomes depends on the function's value at that converter alone. -/
theorem modConv_congr {g : TemperConv → TemperConv} (h : f s.convs[i] = g s.convs[i]) :
    modConv s i f = modConv s i g := by
  simp only [modConv, vmod, h]

/-- Between two states no input or converter but those of one number differ, and neither slots nor window memory. -/
structure KeepsOthers (i : Fin 3) (s t : State) : Prop where
  others : ∀ k : Fin 3, k ≠ i → t.convs[k] = s.convs[k] ∧ t.inputs[k] = s.inputs[k]
  slots : t.slots = s.slots
  mem : t.mem = s.mem

variable {i} {s} in
theorem KeepsOthers.trans {t u : State} (h : KeepsOthers i s t) (h' : KeepsOthers i t u) : KeepsOthers i s u where
  others k hk := ⟨(h'.others k hk).1.trans (h.others k hk).1, (h'.others k hk).2.trans (h.others k hk).2⟩
  slots := h'.slots.trans h.slots
  mem := h'.mem.trans h.mem

theorem keepsOthers_modConv : KeepsOthers i s (modConv s i f) :=
  ⟨fun _ hk => ⟨modConv_other s i f hk, rfl⟩, rfl, rfl⟩

theorem keepsOthers_modInput (g : FeInput → FeInput) : KeepsOthers i s (modInput s i g) :=
  ⟨fun _ hk => ⟨rfl, FrontEnd.modInput_other s i g hk⟩, rfl, rfl⟩

theorem keepsOthers_stepInput (g : FeInput → FeInput) : KeepsOthers i s (stepInput s i g) :=
  ⟨fun _ hk => ⟨rfl, FrontEnd.stepInput_other s i g hk⟩, rfl, rfl⟩

end Converters

/-! ### Retired units (R190) -/

section Retired

variable {v : TemperConv}

theorem retiredUnits_eq_nil (h : ∀ u ∈ v.units, u.retired = false) : retiredUnits v = [] :=
  List.filterMap_eq_nil_iff.mpr fun _ he => by simp [h _ (List.of_mem_zip he).2]

/-- With every unit in service a converter rests in WAIT (R184). -/
theorem restState_of_noneRetired (h : retiredUnits v = []) : restState v = .wait := by
  rw [restState, h]
  rfl

end Retired

/-! ### One unit replaced in a converter -/

section Units

variable {v : TemperConv} {k : Nat} {f : TemperUnit → TemperUnit}

theorem getElem?_setUnit_self (hk : k < v.units.length) :
    (setUnit k f v).units[k]? = some (f (v.units.getD k TemperUnit.reset)) := by
  simp [setUnit, hk]

end Units

/-! ### Reports (R202, R566) -/

theorem raiseFault_frame (s : State) (code object detail : Nat) : (raiseFault s code object detail).convs = s.convs ∧
    (raiseFault s code object detail).inputs = s.inputs ∧ (raiseFault s code object detail).slots = s.slots ∧
    (raiseFault s code object detail).mem = s.mem := by
  unfold raiseFault
  dsimp only
  split
  · split <;> exact ⟨rfl, rfl, rfl, rfl⟩
  · exact ⟨rfl, rfl, rfl, rfl⟩

/-- A calibration that ends with no result of FAULT is reported by one event of its converter, which leaves inputs,
converters and window memory as they were. -/
theorem temperDone_reports (i : Fin 3) (kind : Nat) {result : Nat} (s : State) (h : result ≠ 3) :
    (temperDone i kind result s).convs = s.convs ∧ (temperDone i kind result s).inputs = s.inputs ∧
    (temperDone i kind result s).mem = s.mem ∧
    ∃ e, (temperDone i kind result s).evq = s.evq ++ [e] ∧ e.code = 3 ∧ e.object = BitVec.ofNat 16 i.val := by
  rw [temperDone, if_neg h]
  exact ⟨rfl, rfl, rfl, _, rfl, rfl, rfl⟩

end Sys2Proof.Temper
end

section
/-! The end of a converter's start-up, and the end of its foreground calibration (R181 to R184, R190, R195, R198). -/

namespace Sys2Proof.Temper

open Sys2Proof Sys2Proof.Machine Sys2Proof.Safety

/-! ### The Bellows under Temper (R157, R183) -/

theorem bellowsEnter_state (x : FeInput) : (bellowsEnter x).state = if x.cfg.manual then .manual else .acquire := by
  unfold bellowsEnter
  split <;> rfl

/-! ### The end of start-up (R181, R184, R198) -/

/-- A converter at epoch 0: restored values are in force, and its epochs are counted from here. -/
def zeroConv (i : Fin 3) (t : Nat) (v : TemperConv) : TemperConv :=
  { takeRestored i v with epoch := 0, intervalFrom := if v.restored.isSome then t else v.intervalFrom }

/-- A converter with corrections at epoch 0: it rests, or a trigger that stands there starts a cycle (R191). -/
def openedConv (t : Nat) (v : TemperConv) : TemperConv :=
  if restState v = .wait ∧ triggerMet t v then startCycle t v else { v with state := restState v }

theorem zeroConv_of_noneRestored {i : Fin 3} {t : Nat} {v : TemperConv} (h : v.restored = none) :
    zeroConv i t v = { v with epoch := 0 } := by
  simp [zeroConv, takeRestored, h]

theorem zeroConv_of_restored {i : Fin 3} {t : Nat} {v : TemperConv} {b : RestoredSet} (h : v.restored = some b) :
    let w := zeroConv i t v
    w.restored = none ∧ w.units = b.units ∧ w.giComp = b.giComp ∧ w.levels = b.levels ∧ w.tLast = b.tLast := by
  simp only [zeroConv, takeRestored, h]
  exact ⟨rfl, rfl, rfl, rfl, rfl⟩

theorem openedConv_state {t : Nat} {v : TemperConv} (h : retiredUnits v = []) :
    (openedConv t v).state = .wait ∨ (openedConv t v).state = .cycle := by
  unfold openedConv
  split
  · exact .inr rfl
  · exact .inl (restState_of_noneRetired h)

/-- Whether it rests or calibrates, a converter keeps the values that are in force. -/
theorem openedConv_values (t : Nat) (v : TemperConv) : let w := openedConv t v
    w.restored = v.restored ∧ w.units = v.units ∧ w.giComp = v.giComp ∧ w.levels = v.levels ∧
      w.tLast = v.tLast := by
  dsimp only
  unfold openedConv
  split <;> exact ⟨rfl, rfl, rfl, rfl, rfl⟩

section Startup

variable (i : Fin 3) (s : State)

/-- The state in which epoch 0 begins. -/
def epochZero : State :=
  modConv (modInput s i fun x => { x with frameNo := 0 }) i fun _ => zeroConv i s.inputs[i].frameTs s.convs[i]

/-- The state in which a converter with corrections serves its input from epoch 0. -/
def opened : State :=
  beginFrames i (modConv (epochZero i s) i fun _ =>
    openedConv s.inputs[i].frameTs (zeroConv i s.inputs[i].frameTs s.convs[i]))

theorem keepsOthers_epochZero : KeepsOthers i s (epochZero i s) :=
  (keepsOthers_modInput s i _).trans (keepsOthers_modConv _ i _)

theorem epochZero_input : (epochZero i s).inputs[i] = { s.inputs[i] with frameNo := 0 } := FrontEnd.modInput_self s i _

theorem keepsOthers_startForeground : KeepsOthers i s (startForeground i s) :=
  (keepsOthers_modConv s i _).trans (keepsOthers_modInput _ i _)

theorem startForeground_input : (startForeground i s).inputs[i] = bellowsOff s.inputs[i] := Laws.vmod_self s.inputs i _

/-- A foreground calibration has 2,800 epochs to come (R195). -/
theorem startForeground_conv : (startForeground i s).convs[i].state = .foreground ∧
    (startForeground i s).convs[i].fgLeft = 2800 := by
  have hconv : (startForeground i s).convs[i] = _ := modConv_self s i _
  rw [hconv]
  exact ⟨rfl, rfl⟩

theorem keepsOthers_opened : KeepsOthers i s (opened i s) :=
  ((keepsOthers_epochZero i s).trans (keepsOthers_modConv _ i _)).trans (keepsOthers_stepInput _ i _)

theorem opened_conv : (opened i s).convs[i] =
    openedConv s.inputs[i].frameTs (zeroConv i s.inputs[i].frameTs s.convs[i]) :=
  modConv_self (epochZero i s) i _

theorem opened_input : (opened i s).inputs[i] = bellowsEnter { s.inputs[i] with frameNo := 0 } :=
  (FrontEnd.stepInput_self _ i bellowsEnter).trans (congrArg bellowsEnter (epochZero_input i s))

theorem opened_evq : (opened i s).evq = s.evq := by
  simp [opened, beginFrames, epochZero]

variable {i} {s}

/-- Without valid corrections a foreground calibration begins at epoch 0. -/
theorem exec_temperStartupDone_of_invalid (h : startupDone s.convs[i] = true) (hv : s.convs[i].valid = false) :
    exec (.temperStartupDone i) s = .next (startForeground i (epochZero i s)) := by
  show execTemperStartupDone i s = _
  rw [execTemperStartupDone, if_pos h]
  exact if_pos (by rw [hv]; rfl)

/-- With corrections the input is served from epoch 0, and units beyond the first that are retired raise a fault. -/
theorem exec_temperStartupDone_of_valid (h : startupDone s.convs[i] = true) (hv : s.convs[i].valid = true)
    (hr : requestIn s.convs[i].fgPending s.inputs[i].frameTs = false) :
    exec (.temperStartupDone i) s = .next (if restState (zeroConv i s.inputs[i].frameTs s.convs[i]) = .fault then
      raiseFault (opened i s) 1 i.val (retiredMask (opened i s).convs[i]) else opened i s) := by
  show execTemperStartupDone i s = _
  rw [opened_conv, execTemperStartupDone, if_pos h]
  exact if_neg (by rw [hv, hr]; decide)

/-- With corrections the input is served from epoch 0, whatever is reported of it. -/
theorem temperStartupDone_serves (h : startupDone s.convs[i] = true) (hv : s.convs[i].valid = true)
    (hr : requestIn s.convs[i].fgPending s.inputs[i].frameTs = false) :
    ∃ t, exec (.temperStartupDone i) s = .next t ∧ t.convs = (opened i s).convs ∧ t.slots = s.slots ∧
      t.mem = s.mem := by
  refine ⟨_, exec_temperStartupDone_of_valid h hv hr, ?_⟩
  have hrow := keepsOthers_opened i s
  split
  · obtain ⟨hconvs, -, hslots, hmem⟩ := raiseFault_frame (opened i s) 1 i.val (retiredMask (opened i s).convs[i])
    exact ⟨hconvs, hslots.trans hrow.slots, hmem.trans hrow.mem⟩
  · exact ⟨rfl, hrow.slots, hrow.mem⟩

/-- With all units in service the input is served, and nothing is reported. -/
theorem exec_temperStartupDone_of_inService (h : startupDone s.convs[i] = true) (hv : s.convs[i].valid = true)
    (hr : requestIn s.convs[i].fgPending s.inputs[i].frameTs = false)
    (hu : retiredUnits (zeroConv i s.inputs[i].frameTs s.convs[i]) = []) :
    exec (.temperStartupDone i) s = .next (opened i s) := by
  rw [exec_temperStartupDone_of_valid h hv hr, if_neg (by rw [restState_of_noneRetired hu]; decide)]

end Startup

/-! ### The end of a foreground calibration (R190, R195) -/

theorem measuresAll_of_lengths {i : Fin 3} {units : List UnitValues} {gi : List (Int × Int)}
    (hu : units.length = unitCount i) (hg : gi.length = giCount i) : measuresAll i units gi = true := by
  simp [measuresAll, hu, hg]

section Measured

variable {units : List UnitValues} {v : TemperConv}

theorem getElem?_foregroundUnits {k : Nat} {u : UnitValues} (hu : units[k]? = some u) (hk : k < v.units.length) :
    (foregroundUnits units v)[k]? = some { withValues (v.units.getD k TemperUnit.reset) u with
      retired := !inService u, pend := none } := by
  simp [foregroundUnits, hk, hu]

variable (hlen : v.units.length = units.length)
include hlen

/-- A foreground that measures every unit leaves each with its measured values in force. -/
theorem map_activeSet_foregroundUnits : (foregroundUnits units v).map activeSet = units := by
  refine List.ext_getElem? fun k => ?_
  rw [List.getElem?_map]
  cases hk : units[k]? with
  | some u =>
    have hlt : k < v.units.length := hlen ▸ (List.getElem?_eq_some_iff.mp hk).1
    rw [getElem?_foregroundUnits hk hlt]
    rfl
  | none =>
    have hge : units.length ≤ k := List.getElem?_eq_none_iff.mp hk
    simp [foregroundUnits, hlen, hge]

/-- A foreground whose units all stand in range retires none. -/
theorem not_retired_of_mem_foregroundUnits (hin : ∀ u ∈ units, inService u = true) :
    ∀ t ∈ foregroundUnits units v, t.retired = false := by
  intro t ht
  obtain ⟨k, hk⟩ := List.mem_iff_getElem?.mp ht
  have hlt : k < units.length := by
    have h := (List.getElem?_eq_some_iff.mp hk).1
    simpa [foregroundUnits, hlen] using h
  rw [getElem?_foregroundUnits (List.getElem?_eq_getElem hlt) (hlen ▸ hlt)] at hk
  obtain rfl := Option.some.inj hk
  simp [hin _ (List.getElem_mem hlt)]

end Measured

/-- A converter with the values of a foreground calibration that ended at a time. -/
def calibrated (i : Fin 3) (units : List UnitValues) (gi : List (Int × Int)) (t : Nat) (v : TemperConv) : TemperConv :=
  placeUnits i { v with
    units := foregroundUnits units v, giComp := gi, valid := true, giValid := true
    tLast := convTemp v, lastEnd := t, intervalFrom := v.lastStart, failedPos := none }

section Done

variable {i : Fin 3} {s : State} {units : List UnitValues} {gi : List (Int × Int)}

section Resumed

variable (i s units gi)

/-- The state in which a calibrated converter with all units in service serves its input again. -/
def resumed : State :=
  stepInput (modConv s i fun v => { calibrated i units gi s.inputs[i].frameTs v with state := .wait }) i bellowsEnter

theorem keepsOthers_resumed : KeepsOthers i s (resumed i s units gi) :=
  (keepsOthers_modConv s i _).trans (keepsOthers_stepInput _ i _)

theorem resumed_conv : (resumed i s units gi).convs[i] =
    { calibrated i units gi s.inputs[i].frameTs s.convs[i] with state := .wait } := modConv_self s i _

theorem resumed_input : (resumed i s units gi).inputs[i] = bellowsEnter s.inputs[i] := FrontEnd.stepInput_self _ i _

theorem resumed_evq : (resumed i s units gi).evq = s.evq := by
  simp [resumed]

end Resumed

theorem exec_foregroundDone_of_inService (h : foregroundOver s.convs[i] = true) (hm : measuresAll i units gi = true)
    (hr : retiredUnits (calibrated i units gi s.inputs[i].frameTs s.convs[i]) = []) :
    exec (.foregroundDone i units gi) s = .next (temperDone i 1 0 (resumed i s units gi)) := by
  have hrest := restState_of_noneRetired hr
  unfold calibrated at hrest
  show execForegroundDone i units gi s = _
  rw [execForegroundDone, if_pos (by rw [h, hm]; rfl)]
  simp only [hrest]
  rfl

end Done

/-! ### The obligation -/

/-- Settles O35: start-up leaves `startForeground` or `opened`, and a foreground with all units in range leaves `resumed`
with its report. -/
theorem temperStartAndForeground : Obligations.TemperStartAndForeground := by
  unfold Obligations.TemperStartAndForeground
  refine ⟨fun i s hdone hv => ?_, fun i s hdone hv hreq => ⟨fun hres hret => ?_, fun b hres => ?_⟩,
    fun i units gi s hover hu hg hlen hin => ?_,
    fun i units gi s => ⟨fun hno => if_neg (by rw [hno]; decide),
      fun hno => if_neg (by rw [Bool.and_eq_false_iff.mpr hno]; decide)⟩⟩
  · have hrow := (keepsOthers_epochZero i s).trans (keepsOthers_startForeground i _)
    obtain ⟨hst, hleft⟩ := startForeground_conv i (epochZero i s)
    refine ⟨_, exec_temperStartupDone_of_invalid hdone hv, hst, hleft, ?_⟩
    rw [startForeground_input, epochZero_input]
    exact ⟨rfl, rfl, rfl, hrow.others, hrow.slots, hrow.mem⟩
  · have hrow := keepsOthers_opened i s
    have hzero : retiredUnits (zeroConv i s.inputs[i].frameTs s.convs[i]) = [] := by
      rw [zeroConv_of_noneRestored hres]
      exact hret
    refine ⟨opened i s, exec_temperStartupDone_of_inService hdone hv hreq hzero, ?_⟩
    rw [opened_conv, opened_input, bellowsEnter_state]
    exact ⟨openedConv_state hzero, rfl, hrow.others, hrow.slots, opened_evq i s⟩
  · obtain ⟨hnone, hunits, hgi, hlev, htl⟩ := zeroConv_of_restored (i := i) (t := s.inputs[i].frameTs) hres
    obtain ⟨hres', hunits', hgi', hlev', htl'⟩ :=
      openedConv_values s.inputs[i].frameTs (zeroConv i s.inputs[i].frameTs s.convs[i])
    obtain ⟨t, hexec, hconvs, hslots, hmem⟩ := temperStartupDone_serves hdone hv hreq
    refine ⟨t, hexec, ?_⟩
    rw [hconvs, opened_conv]
    exact ⟨hres'.trans hnone, hunits'.trans hunits, hgi'.trans hgi, hlev'.trans hlev, htl'.trans htl, hslots, hmem⟩
  · have hsame : s.convs[i].units.length = units.length := hlen.trans hu.symm
    have hnone : retiredUnits (calibrated i units gi s.inputs[i].frameTs s.convs[i]) = [] :=
      retiredUnits_eq_nil (not_retired_of_mem_foregroundUnits hsame hin)
    obtain ⟨hconvs, hinputs, hmem, hevent⟩ := temperDone_reports i 1 (resumed i s units gi) (result := 0) (by decide)
    refine ⟨_, exec_foregroundDone_of_inService hover (measuresAll_of_lengths hu hg) hnone, ?_⟩
    rw [hconvs, hinputs, resumed_conv, resumed_input, bellowsEnter_state]
    exact ⟨rfl, rfl, map_activeSet_foregroundUnits hsame, rfl, rfl, (keepsOthers_resumed i s units gi).others,
      resumed_evq i s units gi ▸ hevent⟩

end Sys2Proof.Temper
end

section
/-! The background cycle of a converter (R182, R187, R188, R190, R191). -/

namespace Sys2Proof.Temper

open Sys2Proof Sys2Proof.Machine Sys2Proof.Safety

variable {i : Fin 3} {s : State}

theorem exec_temperCycleStart (h : cycleDue i s = true) :
    exec (.temperCycleStart i) s = .next (modConv s i (startCycle s.inputs[i].frameTs)) := if_pos h

/-! ### The end of a measurement (R187, R190) -/

section Measure

variable {u : UnitValues} {k : Nat}

/-- A unit with values in its pending set (R182). -/
def pendValues (u : UnitValues) (t : TemperUnit) : TemperUnit := { t with pend := some u }

/-- A unit with values in force, and none pending. -/
def takeValues (u : UnitValues) (t : TemperUnit) : TemperUnit := { withValues t u with pend := none }

/-- The spare's values wait for the verify. -/
def awaitVerify (k : Nat) (u : UnitValues) (v : TemperConv) : TemperConv :=
  { setUnit k (pendValues u) v with phase := .verify, phaseLeft := 1, verifyVoid := false }

/-- The spare's values take force as the cycle ends. -/
def endMeasured (k : Nat) (u : UnitValues) (v : TemperConv) : TemperConv :=
  { setUnit k (takeValues u) v with phase := .ended, result := 0 }

theorem awaitVerify_unit {v : TemperConv} (hk : k < v.units.length) :
    ∃ n, (awaitVerify k u v).units[k]? = some n ∧ n.pend = some u :=
  ⟨_, getElem?_setUnit_self (f := pendValues u) hk, rfl⟩

theorem endMeasured_unit {v : TemperConv} (hk : k < v.units.length) :
    ∃ n, (endMeasured k u v).units[k]? = some n ∧ activeSet n = u :=
  ⟨_, getElem?_setUnit_self (f := takeValues u) hk, rfl⟩

theorem exec_temperMeasureDone_of_retired (h : measureOver s.convs[i] = true) (hk : s.convs[i].spare = some k)
    (hu : inService u = false) : exec (.temperMeasureDone i u) s = .next (modConv s i (retireUnit k)) := by
  show execTemperMeasureDone i u s = _
  simp only [execTemperMeasureDone, h, hk, hu, if_true, Bool.not_false]

theorem exec_temperMeasureDone_of_measure (h : measureOver s.convs[i] = true) (hk : s.convs[i].spare = some k)
    (hu : inService u = true) (hp : s.convs[i].phase = .measure) :
    exec (.temperMeasureDone i u) s = .next (modConv s i (awaitVerify k u)) := by
  show execTemperMeasureDone i u s = _
  simp only [execTemperMeasureDone, h, hk, hu, hp, if_true, Bool.not_true, Bool.false_eq_true, if_false]
  rfl

theorem exec_temperMeasureDone_of_lastMeasure (h : measureOver s.convs[i] = true) (hk : s.convs[i].spare = some k)
    (hu : inService u = true) (hp : s.convs[i].phase = .lastMeasure) :
    exec (.temperMeasureDone i u) s = .next (modConv s i (endMeasured k u)) := by
  show execTemperMeasureDone i u s = _
  simp only [execTemperMeasureDone, h, hk, hu, hp, if_true, Bool.not_true, Bool.false_eq_true, if_false, reduceCtorEq]
  rfl

end Measure

/-! ### The verify (R188) -/

section Verify

variable {o g k : Int}

theorem verifyPasses_iff : verifyPasses o g k = true ↔
    (-32 ≤ o ∧ o ≤ 32) ∧ (-10000 ≤ g ∧ g ≤ 10000) ∧ -100 ≤ k ∧ k ≤ 100 := by
  simp only [verifyPasses, Bool.and_eq_true, decide_eq_true_eq]
  omega

theorem verifyOver_phase {v : TemperConv} (h : verifyOver v = true) : v.phase = .verify := by
  simp only [verifyOver, Bool.and_eq_true, beq_iff_eq] at h
  obtain ⟨⟨-, hphase⟩, -⟩ := h
  exact hphase

/-- A void verify epoch is repeated. -/
def repeatVerify (v : TemperConv) : TemperConv :=
  { v with verifyVoid := false, phaseLeft := 1, verifyRepeats := bump v.verifyRepeats 1 }

/-- A failed verify: the first two at a position measure again, the third ends the cycle. -/
def failVerify (v : TemperConv) : TemperConv :=
  if v.verifyFails + 1 < 3 then
    { v with verifyFails := v.verifyFails + 1, verifyFailures := bump v.verifyFailures 1, phase := .measure
             phaseLeft := 64 }
  else { v with verifyFailures := bump v.verifyFailures 1, phase := .ended, result := 1, failedPos := some v.step }

variable (i) (s) in
/-- The state in which the units at the position have swapped, counted and traced. -/
def swapped : State :=
  noteSwap i s.convs[i] { modConv s i (swapUnits i) with
    counters := { s.counters with temperSwaps := vmod s.counters.temperSwaps i (bump · 1) } }

theorem exec_temperVerify_of_void (h : verifyOver s.convs[i] = true) (hv : s.convs[i].verifyVoid = true) :
    exec (.temperVerify i o g k) s = .next (modConv s i repeatVerify) := by
  show execTemperVerify i o g k s = _
  rw [execTemperVerify, if_pos h]
  exact if_pos hv

theorem exec_temperVerify_of_pass (h : verifyOver s.convs[i] = true) (hv : s.convs[i].verifyVoid = false)
    (hp : verifyPasses o g k = true) : exec (.temperVerify i o g k) s = .next (swapped i s) := by
  show execTemperVerify i o g k s = _
  rw [execTemperVerify, if_pos h, if_neg (by rw [hv]; decide)]
  exact if_pos hp

theorem exec_temperVerify_of_fail (h : verifyOver s.convs[i] = true) (hv : s.convs[i].verifyVoid = false)
    (hp : verifyPasses o g k = false) : exec (.temperVerify i o g k) s = .next (modConv s i failVerify) := by
  show execTemperVerify i o g k s = _
  rw [execTemperVerify, if_pos h, if_neg (by rw [hv]; decide), if_neg (by rw [hp]; decide)]
  by_cases hf : s.convs[i].verifyFails + 1 < 3
  · rw [if_pos hf]
    exact congrArg Host.Outcome.next (modConv_congr s i (if_pos hf).symm)
  · rw [if_neg hf]
    exact congrArg Host.Outcome.next (modConv_congr s i (if_neg hf).symm)

/-- The spare takes the position, and the unit that it replaces is the spare. -/
theorem swapUnits_places {v : TemperConv} {j : Nat} (hj : v.spare = some j) (hstep : v.step < v.map.length) :
    (swapUnits i v).map[v.step]? = some j ∧ (swapUnits i v).spare = v.map[v.step]? := by
  have hset : (v.map.set v.step j)[v.step]? = some j := by simp [hstep]
  simp only [swapUnits, hj]
  split <;> exact ⟨hset, rfl⟩

theorem failVerify_measures {v : TemperConv} (h : v.verifyFails < 2) :
    (failVerify v).phase = .measure ∧ (failVerify v).phaseLeft = 64 := by
  rw [failVerify, if_pos (by omega)]
  exact ⟨rfl, rfl⟩

theorem failVerify_ends {v : TemperConv} (h : ¬ v.verifyFails < 2) :
    (failVerify v).phase = .ended ∧ (failVerify v).result = 1 := by
  rw [failVerify, if_neg (by omega)]
  exact ⟨rfl, rfl⟩

/-- A failure is counted, and the arrangement stays. -/
theorem failVerify_counts (v : TemperConv) :
    (failVerify v).verifyFailures = v.verifyFailures + 1 ∧ (failVerify v).map = v.map := by
  unfold failVerify
  split <;> exact ⟨rfl, rfl⟩

theorem swapped_conv : (swapped i s).convs[i] = swapUnits i s.convs[i] := modConv_self s i _

theorem swapped_count : (swapped i s).counters.temperSwaps[i] = s.counters.temperSwaps[i] + 1 :=
  Laws.vmod_self s.counters.temperSwaps i _

end Verify

/-! ### The end of a cycle (R184, R187, R202) -/

/-- A converter whose cycle has ended with all its units in service. -/
def cycleEnded (t : Nat) (v : TemperConv) : TemperConv :=
  { v with
    cycleCount := bump v.cycleCount 1, tLast := v.cycleTemp, intervalFrom := v.lastStart, lastEnd := t
    phase := .idle, state := .wait }

/-- A cycle that ends with all units in service and no foreground request is reported, and the converter is in WAIT. -/
theorem exec_temperCycleEnd (h : cycleOver s.convs[i] = true)
    (hreq : requestIn s.convs[i].fgPending s.inputs[i].frameTs = false) (hret : retiredUnits s.convs[i] = []) :
    exec (.temperCycleEnd i) s =
      .next (temperDone i 0 s.convs[i].result (modConv s i (cycleEnded s.inputs[i].frameTs))) := by
  show execTemperCycleEnd i s = _
  rw [execTemperCycleEnd, if_pos h]
  simp only [restState_of_noneRetired hret, if_true]
  exact congrArg Host.Outcome.next (if_neg (by rw [hreq]; decide))

end Sys2Proof.Temper
end

section
/-! The requests for a converter's blob and for a level trace (R196, R197, R204), and the statement on the background
cycle and on both. -/

namespace Sys2Proof.Temper

open Sys2Proof Sys2Proof.Machine Sys2Proof.Safety

/-! ### Requests -/

/-- A request that S0 serves is settled by its command's body. -/
theorem serve_of_serves {α : Type} {ch : Fin 4} {opcode : Nat} {k : Kind} {parse : List Byte → Option α}
    {run : α → Req → State → Served} {s : State} {a : α} (hs : serves s ch opcode k) (hown : ownsTxn opcode = false)
    (hp : parse (body s ch) = some a) : serve ch opcode k parse run s =
      settle ch (reqOf s ch).dry (takeOut s ch) (run a (reqOf s ch) (takeOut s ch)) :=
  have ⟨htaken, hpre⟩ := hs
  Laws.serveWith_served htaken (hown ▸ hpre) hp

/-- A long operation that no abort has met ends with `ST_OK` (R94). -/
theorem completeOp_of_notAborted {ch : Fin 4} {p : List Byte} {s : State} (h : abortLanded s ch = false) :
    completeOp ch p s = respond ch .ok p s := by
  rw [completeOp, h]
  rfl

/-! ### The blob (R197) -/

section Blob

variable {i : Fin 3} {serial : Nat} {v : TemperConv}

theorem blobBytes_take_four : (blobBytes i serial v).take 4 = u32 0x31504D54 := by
  simp only [blobBytes, blobBody, List.append_assoc]
  exact List.take_left' (Laws.u32_length _)

@[simp] theorem blobUnits_length : (blobUnits v).length = v.units.length := by simp [blobUnits]

/-- With no more units, gain indices and points than it has room for, the blob has its 192 bytes. -/
theorem blobBytes_length (hu : v.units.length ≤ 9) (hg : v.giComp.length ≤ 8) (hl : v.levels.length ≤ 4) :
    (blobBytes i serial v).length = 192 := by
  have hunits : (((blobUnits v).take 9).flatMap unitBytes).length = 8 * v.units.length := by
    rw [Laws.flatMap_length_const _ _ 8 fun _ _ => by simp [unitBytes], List.length_take, blobUnits_length,
      Nat.min_eq_right hu]
  have hcomp : ((v.giComp.take 8).flatMap fun g => s16 g.1 ++ s16 g.2).length = 4 * v.giComp.length := by
    rw [Laws.flatMap_length_const _ _ 4 fun _ _ => by simp, List.length_take, Nat.min_eq_right hg]
  have hlevels : ((v.levels.take 4).flatMap fun l => u32 l.freqKhz ++ s16 l.traceCdb ++ zeros 2).length =
      8 * v.levels.length := by
    rw [Laws.flatMap_length_const _ _ 8 fun _ _ => by simp, List.length_take, Nat.min_eq_right hl]
  simp only [blobBytes, blobBody, List.length_append, hunits, hcomp, hlevels, blobUnits_length, Laws.u8_length,
    Laws.u16_length, Laws.u32_length, Laws.u64_length, Laws.s16_length, Laws.zeros_length]
  omega

end Blob

/-! ### `TEMPER_SAVE` (R196) -/

section Save

variable {ch : Fin 4} {i : Fin 3} {s : State}

theorem indexPayload_byte (i : Fin 3) : indexPayload 3 [BitVec.ofNat 8 i.val] = some i := by
  revert i
  decide

theorem exec_temperSave_of_refused (hs : serves s ch 0x0312 .read) (hb : body s ch = [BitVec.ofNat 8 i.val])
    (hl : isLocal s = false) (hr : saveRefused s.latch.convs[i] = true) :
    exec (.temperSave ch) s = .next (respond ch .badState [] (takeOut s ch)) := by
  have hparse : indexPayload 3 (body s ch) = some i := hb ▸ indexPayload_byte i
  have hl' : isLocal (takeOut s ch) = false := hl
  show execTemperSave ch s = _
  rw [execTemperSave, serve_of_serves hs rfl hparse]
  simp only [hl', Laws.takeOut_latch, hr, Bool.false_eq_true, if_false, if_true, Laws.settle_refuse]

theorem exec_temperSave (hs : serves s ch 0x0312 .read) (hb : body s ch = [BitVec.ofNat 8 i.val])
    (hl : isLocal s = false) (hr : saveRefused s.latch.convs[i] = false) :
    exec (.temperSave ch) s = .next (respond ch .ok
      (u64 s.latch.stroke ++ blobBytes i s.otp.serial.toNat s.latch.convs[i]) (takeOut s ch)) := by
  have hparse : indexPayload 3 (body s ch) = some i := hb ▸ indexPayload_byte i
  have hl' : isLocal (takeOut s ch) = false := hl
  show execTemperSave ch s = _
  rw [execTemperSave, serve_of_serves hs rfl hparse]
  simp only [hl', Laws.takeOut_latch, hr, Bool.false_eq_true, if_false, Laws.settle_answer_read]
  rfl

end Save

/-! ### `TEMPER_LEVEL_TRACE` (R204) -/

section Trace

variable {ch : Fin 4} {i : Fin 3} {point freq : Nat} {level : Int} {s : State}

theorem exec_temperLevelTrace (hs : serves s ch 0x0315 .long) (hw : wet s ch)
    (hp : parseLevelTrace (body s ch) = some (i, point, freq, level)) (hok : levelTraceOk i s = true) :
    exec (.temperLevelTrace ch) s =
      .next (keepsOp ch ⟨.levelTrace i point freq level (some (traceEpochs s.inputs[i])), false, s.now⟩
        (takeOut s ch)) := by
  have hok' : levelTraceOk i (takeOut s ch) = true := hok
  show execTemperLevelTrace ch s = _
  rw [execTemperLevelTrace, serve_of_serves hs rfl hp, show (reqOf s ch).dry = false from hw]
  simp only [hok', if_true]
  rfl

theorem exec_temperLevelTrace_of_refused (hs : serves s ch 0x0315 .long)
    (hp : parseLevelTrace (body s ch) = some (i, point, freq, level)) (hno : levelTraceOk i s = false) :
    exec (.temperLevelTrace ch) s = .next (respond ch .badState [] (takeOut s ch)) := by
  have hno' : levelTraceOk i (takeOut s ch) = false := hno
  show execTemperLevelTrace ch s = _
  rw [execTemperLevelTrace, serve_of_serves hs rfl hp]
  simp only [hno', Bool.false_eq_true, if_false, Laws.settle_refuse]

variable {left : Option Nat} {b : Bool} {at_ : Nat} {r : ToneReading}

/-- What the end of a level trace answers, while its epochs do not run (R94, R204). -/
def traceAnswer (ch : Fin 4) (i : Fin 3) (point freq : Nat) (level : Int) (left : Option Nat) (r : ToneReading)
    (s : State) : State :=
  if abortLanded s ch then respond ch .aborted [] s
  else if left.isNone || !r.found || r.dbfs < -600 then respond ch .timeout [] s
  else if -60 < r.dbfs || 1000 < (level - r.cdbm).natAbs then respond ch .badParam [] s
  else respond ch .ok (s16 (level - r.cdbm)) (noteMark ch (modConv s i (setLevel point ⟨freq, level - r.cdbm⟩)))

theorem exec_temperLevelTraceDone_of_running {n : Nat}
    (hop : opOf s ch = some ⟨.levelTrace i point freq level (some n), b, at_⟩) (hn : 0 < n) :
    exec (.temperLevelTraceDone ch r) s = .next s := by
  show execTemperLevelTraceDone ch r s = _
  rw [execTemperLevelTraceDone, hop]
  exact if_pos (decide_eq_true hn)

theorem exec_temperLevelTraceDone (hop : opOf s ch = some ⟨.levelTrace i point freq level left, b, at_⟩)
    (hdone : left.any (0 < ·) = false) :
    exec (.temperLevelTraceDone ch r) s = .next (traceAnswer ch i point freq level left r s) := by
  show execTemperLevelTraceDone ch r s = _
  rw [execTemperLevelTraceDone, hop, traceAnswer]
  simp only [hdone, Bool.false_eq_true, if_false]
  cases ha : abortLanded s ch with
  | true => rfl
  | false =>
    simp only [Bool.false_eq_true, if_false]
    split
    · rfl
    · split
      · rfl
      · exact congrArg Host.Outcome.next (completeOp_of_notAborted ha)

/-! #### The answers of a level trace -/

theorem traceAnswer_of_aborted (ha : abortLanded s ch = true) :
    traceAnswer ch i point freq level left r s = respond ch .aborted [] s := if_pos ha

/-- A trace whose input has been disabled, or that finds no tone, times out. -/
theorem traceAnswer_of_noTone (ha : abortLanded s ch = false) (h : left = none ∨ r.found = false) :
    traceAnswer ch i point freq level left r s = respond ch .timeout [] s := by
  rw [traceAnswer, if_neg (by rw [ha]; decide)]
  exact if_pos (by rcases h with h | h <;> simp [h])

variable {n : Nat}

theorem traceAnswer_of_outOfRange (ha : abortLanded s ch = false) (hf : r.found = true) (hlow : -600 ≤ r.dbfs)
    (hout : -60 < r.dbfs ∨ 1000 < (level - r.cdbm).natAbs) :
    traceAnswer ch i point freq level (some n) r s = respond ch .badParam [] s := by
  have htone : ((some n).isNone || !r.found || decide (r.dbfs < -600)) = false := by simp [hf, hlow]
  rw [traceAnswer, if_neg (by rw [ha]; decide), if_neg (by rw [htone]; decide)]
  exact if_pos (by simpa using hout)

/-- A tone in range gives the trace loss, which is written as the point. -/
theorem traceAnswer_of_inRange (ha : abortLanded s ch = false) (hf : r.found = true) (hlow : -600 ≤ r.dbfs)
    (hhigh : r.dbfs ≤ -60) (hloss : (level - r.cdbm).natAbs ≤ 1000) :
    traceAnswer ch i point freq level (some n) r s = respond ch .ok (s16 (level - r.cdbm))
      (noteMark ch (modConv s i (setLevel point ⟨freq, level - r.cdbm⟩))) := by
  have htone : ((some n).isNone || !r.found || decide (r.dbfs < -600)) = false := by simp [hf, hlow]
  have hrange : (decide (-60 < r.dbfs) || decide (1000 < (level - r.cdbm).natAbs)) = false := by simp [hhigh, hloss]
  rw [traceAnswer, if_neg (by rw [ha]; decide), if_neg (by rw [htone]; decide), if_neg (by rw [hrange]; decide)]

end Trace

/-! ### The obligation -/

/-- Settles O36: each row of the cycle is one function of its converter, `TEMPER_SAVE` answers with the blob, and a level
trace ends with its answer. -/
theorem temperCycle : Obligations.TemperCycle := by
  unfold Obligations.TemperCycle
  refine ⟨fun i s => ⟨fun hdue => ?_, fun hno => if_neg (by rw [hno]; decide),
      fun u k hover hspare hk => ⟨fun hu => ?_, fun hu hp => ?_, fun hu hp => ?_⟩,
      fun u hno => if_neg (by rw [hno]; decide),
      fun o g k hover => ⟨fun hvoid => ?_, fun j hv ho ho' hg hg' hk hk' hj hstep => ?_, fun hv hout => ?_⟩,
      fun o g k hno => if_neg (by rw [hno]; decide), fun hno => if_neg (by rw [hno]; decide),
      fun hover hreq hret hres => ?_⟩,
    fun ch i s hs hb hl => ⟨exec_temperSave_of_refused hs hb hl, fun hr => ?_⟩,
    fun ch i point freq level s hs hw hp =>
      ⟨exec_temperLevelTrace hs hw hp, exec_temperLevelTrace_of_refused hs hp⟩,
    fun ch i point freq level left at_ b r s hop => ⟨?_, ?_, ?_⟩⟩
  · refine ⟨_, exec_temperCycleStart hdue, onlyConv_modConv s i _, ?_⟩
    rw [modConv_self]
    exact ⟨rfl, rfl, rfl, rfl, rfl, rfl⟩
  · refine ⟨_, exec_temperMeasureDone_of_retired hover hspare hu, onlyConv_modConv s i _, ?_⟩
    rw [modConv_self]
    exact ⟨rfl, rfl, rfl⟩
  · obtain ⟨n, hn, hpend⟩ := awaitVerify_unit (u := u) hk
    refine ⟨_, n, exec_temperMeasureDone_of_measure hover hspare hu hp, onlyConv_modConv s i _, ?_⟩
    rw [modConv_self]
    exact ⟨rfl, rfl, hn, hpend⟩
  · obtain ⟨n, hn, hset⟩ := endMeasured_unit (u := u) hk
    refine ⟨_, n, exec_temperMeasureDone_of_lastMeasure hover hspare hu hp, onlyConv_modConv s i _, ?_⟩
    rw [modConv_self]
    exact ⟨rfl, rfl, hn, hset⟩
  · refine ⟨_, exec_temperVerify_of_void hover hvoid, onlyConv_modConv s i _, ?_⟩
    rw [modConv_self]
    exact ⟨rfl, verifyOver_phase (v := s.convs[i]) hover, rfl⟩
  · have hpass : verifyPasses o g k = true := verifyPasses_iff.mpr ⟨⟨ho, ho'⟩, ⟨hg, hg'⟩, hk, hk'⟩
    obtain ⟨hmap, hspare⟩ := swapUnits_places (i := i) hj hstep
    refine ⟨_, exec_temperVerify_of_pass hover hv hpass, ?_⟩
    rw [swapped_conv, swapped_count]
    exact ⟨hmap, hspare, rfl, fun c hc => modConv_other s i _ hc, rfl, rfl⟩
  · have hfail : verifyPasses o g k = false := Bool.eq_false_iff.mpr fun h => by
      have := verifyPasses_iff.mp h
      omega
    obtain ⟨hcount, hmap⟩ := failVerify_counts s.convs[i]
    refine ⟨_, exec_temperVerify_of_fail hover hv hfail, onlyConv_modConv s i _, ?_⟩
    rw [modConv_self]
    refine ⟨hcount, hmap, ?_⟩
    split
    next h => exact failVerify_measures h
    next h => exact failVerify_ends h
  · obtain ⟨hconvs, hinputs, hmem, hevent⟩ :=
      temperDone_reports i 0 (modConv s i (cycleEnded s.inputs[i].frameTs)) hres
    refine ⟨_, exec_temperCycleEnd hover hreq hret, ?_⟩
    rw [hconvs, modConv_self]
    exact ⟨rfl, rfl, rfl, rfl, hinputs, hmem, hevent⟩
  · exact ⟨_, exec_temperSave hs hb hl hr, blobBytes_take_four, blobBytes_length⟩
  · rintro n rfl hn
    exact exec_temperLevelTraceDone_of_running hop hn
  · rintro rfl ha
    rw [exec_temperLevelTraceDone hop rfl, traceAnswer_of_noTone ha (.inl rfl)]
  · rintro rfl
    rw [exec_temperLevelTraceDone hop rfl]
    refine ⟨fun ha => ?_, fun ha hf hlow hhigh hmin hmax => ?_, fun ha hf hlow hout => ?_, fun ha hf => ?_⟩
    · rw [traceAnswer_of_aborted ha]
    · rw [traceAnswer_of_inRange ha hf hlow hhigh (by omega)]
    · rw [traceAnswer_of_outOfRange ha hf hlow hout]
    · rw [traceAnswer_of_noTone ha (.inr hf)]

end Sys2Proof.Temper
end

section
/-! The state rules of a slot at a boundary: what a transition leaves of the state around it, what the end of an ensemble's
units may touch on the way to NO_SIGNAL, and the moves of R213 to R217 and R252. -/

namespace Sys2Proof.SlotRules

open Sys2Proof Sys2Proof.Machine Sys2Proof.Safety

variable {s t u : State} {i : Fin 48} {new : SlotState} {reason ts : Nat}

/-! ### A transition of a slot (R212, R219) -/

section Transition
variable (s i new reason ts)

/-- A transition writes its slot alone, and leaves it in the new state. -/
theorem setSlotStateAt_slots : ∃ f : Slot → Slot,
    (setSlotStateAt ts i new reason s).slots = vmod s.slots i f ∧ (f s.slots[i]).state = new := by
  unfold setSlotStateAt
  dsimp only
  by_cases hst : s.slots[i].state = new
  · rw [if_pos hst]
    exact ⟨id, (Laws.vmod_eq_self rfl).symm, hst⟩
  · rw [if_neg hst]
    cases s.slots[i].visit
    · simp only [Bool.false_eq_true, if_false, noteState, Laws.modSlot_slots, Laws.queueEventAt_frame]
      exact ⟨_, rfl, rfl⟩
    · simp only [if_true, Laws.modSlot_slots]
      exact ⟨_, rfl, rfl⟩

theorem setSlotStateAt_state : (setSlotStateAt ts i new reason s).slots[i].state = new := by
  obtain ⟨f, hslots, hf⟩ := setSlotStateAt_slots s i new reason ts
  rw [hslots, ← hf]
  exact congrArg Slot.state (Laws.vmod_self s.slots i f)

theorem setSlotStateAt_other {k : Fin 48} (hk : k ≠ i) : (setSlotStateAt ts i new reason s).slots[k] = s.slots[k] := by
  obtain ⟨f, hslots, -⟩ := setSlotStateAt_slots s i new reason ts
  rw [hslots, Laws.vmod_other s.slots hk.symm f]

/-- A slot that a census visit holds moves without event and without count (R304). -/
theorem setSlotStateAt_of_visit (hv : s.slots[i].visit = true) :
    (setSlotStateAt ts i new reason s).evq = s.evq ∧ (setSlotStateAt ts i new reason s).counters = s.counters := by
  unfold setSlotStateAt
  simp only [hv, if_true]
  split <;> exact ⟨rfl, rfl⟩

variable {s i new}

/-- Any other slot that changes its state has moved, with its event and its count. -/
theorem slotMoved_setSlotStateAt (hv : s.slots[i].visit = false) (hne : s.slots[i].state ≠ new) :
    slotMoved s (setSlotStateAt ts i new reason s) i new reason := by
  refine ⟨setSlotStateAt_state s i new reason ts, fun k hk => setSlotStateAt_other s i new reason ts hk, ?_⟩
  unfold setSlotStateAt
  simp only [if_neg hne, hv, Bool.false_eq_true, if_false]
  exact ⟨rfl, rfl, Laws.vmod_self _ i _, _, rfl, rfl, rfl, rfl⟩

end Transition

/-! ### What keeps a move -/

/-- A move stands when its slot is changed further, but for its state. -/
theorem slotMoved_modSlot (h : slotMoved s t i new reason) {f : Slot → Slot} (hf : ∀ x, (f x).state = x.state) :
    slotMoved s (modSlot t i f) i new reason := by
  obtain ⟨hst, hother, hrest⟩ := h
  refine ⟨?_, fun k hk => (Laws.vmod_other t.slots hk.symm f).trans (hother k hk), hrest⟩
  rw [Receiver.modSlot_self, hf, hst]

/-! ### The end of an ensemble's units (R253, R264) -/

/-- Nothing but the receiver of one ensemble slot and the queues of Dispatch differs between two states. -/
def FeedsUnits (i : Fin 48) (s t : State) : Prop := ∃ d q, t = { modDab s i (fun _ => d) with dispatch := q }

theorem FeedsUnits.refl (i : Fin 48) (s : State) : FeedsUnits i s s := by
  refine ⟨s.slots[i].dab, s.dispatch, ?_⟩
  have h : vmod s.slots i (fun x => { x with dab := s.slots[i].dab }) = s.slots := Laws.vmod_eq_self rfl
  rw [modDab, modSlot, h]

theorem FeedsUnits.trans (h : FeedsUnits i s t) (h' : FeedsUnits i t u) : FeedsUnits i s u := by
  obtain ⟨d, q, rfl⟩ := h
  obtain ⟨d', q', rfl⟩ := h'
  exact ⟨d', q', by simp [modDab, modSlot, vmod]⟩

theorem feedsUnits_modDab (i : Fin 48) (s : State) (f : DabRx → DabRx) : FeedsUnits i s (modDab s i f) :=
  ⟨f s.slots[i].dab, s.dispatch, rfl⟩

theorem feedsUnits_enqueueAll (i : Fin 48) (s : State) (id : Nat) (ps : List Packet) :
    FeedsUnits i s (enqueueAll s id ps) := by
  obtain ⟨d, q, h⟩ := FeedsUnits.refl i s
  refine ⟨d, (enqueueAll s id ps).dispatch, ?_⟩
  have hq : enqueueAll s id ps = { s with dispatch := (enqueueAll s id ps).dispatch } := by
    unfold enqueueAll
    dsimp only
    split <;> rfl
  rw [hq]
  exact congrArg (fun s' : State => { s' with dispatch := (enqueueAll s id ps).dispatch }) h

theorem feedsUnits_foldl {α : Type} {f : State → α → State} (h : ∀ s a, FeedsUnits i s (f s a)) (l : List α) (s : State) :
    FeedsUnits i s (l.foldl f s) := by
  induction l generalizing s with
  | nil => exact .refl i s
  | cons a l ih => exact (h s a).trans (ih (f s a))

theorem feedsUnits_putUnit (i : Fin 48) (v : SubCh) (w : DabUnit) (s : State) : FeedsUnits i s (putUnit i v w s) := by
  unfold putUnit
  dsimp only
  split
  · exact (feedsUnits_modDab i s _).trans (feedsUnits_enqueueAll i _ _ _)
  · exact feedsUnits_modDab i s _

theorem feedsUnits_takeSuper (i : Fin 48) (gen : Word) (v : SubCh) (m : MscFrame) (s : State) :
    FeedsUnits i s (takeSuper i gen v m s) := by
  unfold takeSuper
  dsimp only
  split
  · exact feedsUnits_modDab i s _
  · split
    · exact (feedsUnits_modDab i s _).trans (feedsUnits_putUnit i _ _ _)
    · exact feedsUnits_modDab i s _

theorem feedsUnits_takeLogical (i : Fin 48) (gen : Word) (v : SubCh) (m : MscFrame) (s : State) :
    FeedsUnits i s (takeLogical i gen v m s) := by
  unfold takeLogical
  split
  · exact feedsUnits_putUnit i _ _ s
  · exact .refl i s

theorem feedsUnits_completeReady (i : Fin 48) (id : Nat) (s : State) : FeedsUnits i s (completeReady i id s) := by
  unfold completeReady
  dsimp only
  split
  next => exact .refl i s
  next =>
    split
    next => exact feedsUnits_modDab i s _
    next =>
      split
      · exact .refl i s
      · split
        · exact ((feedsUnits_modDab i s _).trans (feedsUnits_modDab i _ _)).trans (feedsUnits_takeSuper i _ _ _ _)
        · exact ((feedsUnits_modDab i s _).trans (feedsUnits_modDab i _ _)).trans (feedsUnits_takeLogical i _ _ _ _)

theorem feedsUnits_closeSubch (i : Fin 48) (s : State) (v : SubCh) : FeedsUnits i s (closeSubch i s v) := by
  unfold closeSubch
  dsimp only
  split
  next => exact .refl i s
  next =>
    split
    · split
      · exact feedsUnits_putUnit i _ _ s
      · exact .refl i s
    · exact feedsUnits_putUnit i _ _ s

theorem feedsUnits_endUnits (i : Fin 48) (s : State) : FeedsUnits i s (endUnits i s) :=
  (feedsUnits_foldl (fun s (r : ReadyFrame) => feedsUnits_completeReady i r.subch s) _ s).trans
    (feedsUnits_foldl (fun s v => feedsUnits_closeSubch i s v) _ _)

/-- Units that end just before a move leave its slot in its state and without a visit. -/
theorem slot_of_feedsUnits (h : FeedsUnits i s t) :
    t.slots[i].state = s.slots[i].state ∧ t.slots[i].visit = s.slots[i].visit := by
  obtain ⟨d, q, rfl⟩ := h
  have hslot : (modDab s i fun _ => d).slots[i] = { s.slots[i] with dab := d } := Receiver.modSlot_self _
  exact ⟨(congrArg Slot.state hslot :), (congrArg Slot.visit hslot :)⟩

/-- A move after such work is a move from the state before it. -/
theorem slotMoved_of_feedsUnits (h : FeedsUnits i s t) (hm : slotMoved t u i new reason) : slotMoved s u i new reason := by
  obtain ⟨hst, hother, hin, hmem, hcount, e, hev, hcode, hobj, hpay⟩ := hm
  rw [(slot_of_feedsUnits h).1] at hpay
  obtain ⟨d, q, rfl⟩ := h
  exact ⟨hst, fun k hk => (hother k hk).trans (Laws.vmod_other s.slots hk.symm _), hin, hmem, hcount, e, hev, hcode, hobj, hpay⟩

/-! ### The states in which the rules are due (R213 to R217, R252) -/

variable {x : Slot}

theorem state_ne_of_holdDue (h : holdDue s x = true) : x.state ≠ .acquiring := by
  rintro hx
  simp [holdDue, hx] at h

theorem state_of_acquireDue (h : acquireDue s x = true) : x.state = .acquiring := by
  simp only [acquireDue, Bool.and_eq_true, beq_iff_eq] at h
  obtain ⟨⟨⟨⟨⟨hst, -⟩, -⟩, -⟩, -⟩, -⟩ := h
  exact hst

theorem state_of_lossDue (h : lossDue s x = true) : x.state = .live := by
  simp only [lossDue, Bool.and_eq_true, beq_iff_eq] at h
  obtain ⟨⟨hst, -⟩, -⟩ := h
  exact hst

theorem state_of_recoveryDue (h : recoveryDue s x = true) : x.state = .noSignal := by
  simp only [recoveryDue, Bool.and_eq_true, beq_iff_eq] at h
  obtain ⟨⟨hst, -⟩, -⟩ := h
  exact hst

theorem state_of_dabAcquireDue (h : dabAcquireDue s x = true) : x.state = .acquiring := by
  simp only [dabAcquireDue, Bool.and_eq_true, beq_iff_eq] at h
  obtain ⟨⟨⟨⟨⟨-, hst⟩, -⟩, -⟩, -⟩, -⟩ := h
  exact hst

/-! ### The rules, when they are due -/

theorem slotAcquisitionRule_of_met (h : acquireDue s s.slots[i] = true) (hm : 10 ≤ s.slots[i].metRun) :
    slotAcquisitionRule i s = modSlot (setSlotStateAt s.now i .live reasonDetect s) i snapDrives := by
  rw [slotAcquisitionRule, if_pos h, if_pos hm]

theorem slotAcquisitionRule_of_unmet (h : acquireDue s s.slots[i] = true) (hm : s.slots[i].metRun < 10) :
    slotAcquisitionRule i s = setSlotStateAt s.now i .noSignal reasonLoss s := by
  rw [slotAcquisitionRule, if_pos h, if_neg (Nat.not_le.mpr hm)]

section Moves
variable (hv : s.slots[i].visit = false)
include hv

theorem slotMoved_slotHoldRule (h : holdDue s s.slots[i] = true) :
    slotMoved s (slotHoldRule i s) i .acquiring reasonHold := by
  rw [slotHoldRule, if_pos h]
  exact slotMoved_modSlot (slotMoved_setSlotStateAt _ _ hv (state_ne_of_holdDue h)) fun _ => rfl

theorem slotMoved_slotAcquisitionRule_met (h : acquireDue s s.slots[i] = true) (hm : 10 ≤ s.slots[i].metRun) :
    slotMoved s (slotAcquisitionRule i s) i .live reasonDetect := by
  rw [slotAcquisitionRule_of_met h hm]
  exact slotMoved_modSlot (slotMoved_setSlotStateAt _ _ hv (by rw [state_of_acquireDue h]; decide)) fun _ => rfl

theorem slotMoved_slotAcquisitionRule_unmet (h : acquireDue s s.slots[i] = true) (hm : s.slots[i].metRun < 10) :
    slotMoved s (slotAcquisitionRule i s) i .noSignal reasonLoss := by
  rw [slotAcquisitionRule_of_unmet h hm]
  exact slotMoved_setSlotStateAt _ _ hv (by rw [state_of_acquireDue h]; decide)

theorem slotMoved_slotLossRule (h : lossDue s s.slots[i] = true) :
    slotMoved s (slotLossRule i s) i .noSignal reasonLoss := by
  rw [slotLossRule, if_pos h]
  exact slotMoved_setSlotStateAt _ _ hv (by rw [state_of_lossDue h]; decide)

theorem slotMoved_slotRecoveryRule (h : recoveryDue s s.slots[i] = true) :
    slotMoved s (slotRecoveryRule i s) i .live reasonDetect := by
  rw [slotRecoveryRule, if_pos h]
  exact slotMoved_setSlotStateAt _ _ hv (by rw [state_of_recoveryDue h]; decide)

theorem slotMoved_dabAcquisitionRule_met (h : dabAcquireDue s s.slots[i] = true) (hm : 24 ≤ s.slots[i].metRun) :
    slotMoved s (dabAcquisitionRule i s) i .live reasonDetect := by
  rw [dabAcquisitionRule, if_pos h, if_pos hm]
  exact slotMoved_setSlotStateAt _ _ hv (by rw [state_of_dabAcquireDue h]; decide)

theorem slotMoved_dabAcquisitionRule_unmet (h : dabAcquireDue s s.slots[i] = true) (hm : s.slots[i].metRun < 24) :
    slotMoved s (dabAcquisitionRule i s) i .noSignal reasonLoss := by
  rw [dabAcquisitionRule, if_pos h, if_neg (Nat.not_le.mpr hm)]
  exact slotMoved_setSlotStateAt _ _ hv (by rw [state_of_dabAcquireDue h]; decide)

theorem slotMoved_dabLossRule (hst : s.slots[i].state = .live) (ho : dabRulesOpen s s.slots[i] = true)
    (hf : 500 ≤ s.slots[i].failRun) : slotMoved s (dabLossRule i s) i .noSignal reasonLoss := by
  have hends := feedsUnits_endUnits i s
  obtain ⟨hstate, hvisit⟩ := slot_of_feedsUnits hends
  rw [dabLossRule, if_pos (by rw [hst, ho, decide_eq_true hf]; rfl)]
  exact slotMoved_of_feedsUnits hends
    (slotMoved_setSlotStateAt _ _ (hvisit.trans hv) (by rw [hstate, hst]; decide))

theorem slotMoved_dabRecoveryRule (hst : s.slots[i].state = .noSignal) (ho : dabRulesOpen s s.slots[i] = true)
    (hm : 24 ≤ s.slots[i].metRun) : slotMoved s (dabRecoveryRule i s) i .live reasonDetect := by
  rw [dabRecoveryRule, if_pos (by rw [hst, ho, decide_eq_true hm]; rfl)]
  exact slotMoved_setSlotStateAt _ _ hv (by rw [hst]; decide)

end Moves

/-! ### A slot that a census visit holds (R304) -/

/-- What the acquisition rule makes of it: its next state, and nothing beside the slot. -/
theorem slotAcquisitionRule_of_visit (h : acquireDue s s.slots[i] = true) (hv : s.slots[i].visit = true) :
    (slotAcquisitionRule i s).slots[i].state = (if 10 ≤ s.slots[i].metRun then .live else .noSignal) ∧
    (slotAcquisitionRule i s).evq = s.evq ∧ (slotAcquisitionRule i s).counters = s.counters ∧
    ∀ k : Fin 48, k ≠ i → (slotAcquisitionRule i s).slots[k] = s.slots[k] := by
  by_cases hm : 10 ≤ s.slots[i].metRun
  · obtain ⟨hev, hcount⟩ := setSlotStateAt_of_visit s i .live reasonDetect s.now hv
    rw [slotAcquisitionRule_of_met h hm, if_pos hm, Receiver.modSlot_self]
    exact ⟨setSlotStateAt_state s i .live _ _, hev, hcount, fun k hk =>
      (Laws.vmod_other _ hk.symm _).trans (setSlotStateAt_other s i .live _ _ hk)⟩
  · obtain ⟨hev, hcount⟩ := setSlotStateAt_of_visit s i .noSignal reasonLoss s.now hv
    rw [slotAcquisitionRule_of_unmet h (Nat.not_le.mp hm), if_neg hm]
    exact ⟨setSlotStateAt_state s i .noSignal _ _, hev, hcount, fun k hk => setSlotStateAt_other s i .noSignal _ _ hk⟩

/-! ### A rule as a command of its own, at a boundary -/

section Boundary
variable {rule : Fin 48 → State → State} (hb : atBoundary s = true) (hl : isLocal s = false)
include hb hl

/-- On a boundary the command is its rule, with the slot's record latched beside it (R49). -/
theorem slotRule_atBoundary : slotRule rule i s = relatchSlot i (rule i s) := by simp [slotRule, hb, hl]

/-- A move by a rule is a move by its command: the latch is no part of it. -/
theorem slotRule_moves (h : slotMoved s (rule i s) i new reason) :
    ∃ t, Host.Outcome.next (slotRule rule i s) = (.next t : Out) ∧ slotMoved s t i new reason :=
  ⟨_, congrArg _ (slotRule_atBoundary hb hl), h⟩

end Boundary

/-! ### The obligation -/

/-- Settles O37: on a boundary each row is its rule, and a rule that is due is one transition of its slot. -/
theorem slotStates : Obligations.SlotStates := by
  unfold Obligations.SlotStates
  refine ⟨fun i s hb hl => ⟨fun h hv => ?_, fun hv => ⟨fun h => ?_, fun h hm => ?_, fun h hm => ?_, fun h => ?_, fun h => ?_,
      fun h => ?_⟩⟩, fun i s hb hl hv => ⟨fun h hm => ?_, fun h hm => ?_, fun hst ho hf => ?_, fun hst ho hm => ?_⟩⟩
  · obtain ⟨hst, hev, hcount, hother⟩ := slotAcquisitionRule_of_visit h hv
    exact ⟨_, congrArg Host.Outcome.next (slotRule_atBoundary hb hl), hst, hev, hcount, hother,
      (Laws.slotAcquisitionRule_window i s).1⟩
  · exact slotRule_moves hb hl (slotMoved_slotHoldRule hv h)
  · exact slotRule_moves hb hl (slotMoved_slotAcquisitionRule_met hv h hm)
  · exact slotRule_moves hb hl (slotMoved_slotAcquisitionRule_unmet hv h hm)
  · exact slotRule_moves hb hl (slotMoved_slotLossRule hv h)
  · exact slotRule_moves hb hl (slotMoved_slotRecoveryRule hv h)
  · have hidle : slotHoldRule i s = s := if_neg (Bool.eq_false_iff.mp h)
    refine ⟨relatchSlot i s, congrArg Host.Outcome.next ?_, ⟨fun _ _ => rfl, rfl⟩, rfl⟩
    rw [slotRule_atBoundary hb hl, hidle]
  · exact slotRule_moves hb hl (slotMoved_dabAcquisitionRule_met hv h hm)
  · exact slotRule_moves hb hl (slotMoved_dabAcquisitionRule_unmet hv h hm)
  · exact slotRule_moves hb hl (slotMoved_dabLossRule hv hst ho hf)
  · exact slotRule_moves hb hl (slotMoved_dabRecoveryRule hv hst ho hm)

end Sys2Proof.SlotRules
end
